-- ==== Sys2Proof/Word.lean ====
section
/-! DEFINITION. The word types of the Tihild and their plainest arithmetic (spec 00 R1, R2; 03 R49, R50). -/

namespace Sys2Proof

/-- A 64-bit scalar register value (R49). -/
abbrev Word := BitVec 64
/-- One byte; memory is little-endian at every level (R2). -/
abbrev Byte := BitVec 8
/-- A 512-bit vector register value (R49, R50). -/
abbrev VWord := BitVec 512
/-- A predicate register value (R49). -/
abbrev PWord := BitVec 32
/-- Number of an x register. -/
abbrev XReg := BitVec 5
/-- Number of a v register. -/
abbrev VReg := BitVec 4
/-- Number of a p register. -/
abbrev PReg := BitVec 3
/-- Number of a queue register. -/
abbrev QReg := BitVec 3

/-- The natural number held in bits [lo+n-1 : lo] of a word (R2). -/
def Word.field (w : Word) (lo n : Nat) : Nat := (w.toNat >>> lo) % 2 ^ n

/-- A word from a natural number, keeping its low 64 bits (R5). -/
abbrev Word.of (n : Nat) : Word := BitVec.ofNat 64 n

end Sys2Proof
end

