-- ==== Sys2Proof/Types.lean ====
section
/-! DEFINITION. The plain data that instruction words, tile commands and device events carry: lane types, fence codes,
packets, requests, messages, flits, notices. -/

namespace Sys2Proof

/-- Lane types of the DV format, in the order of their codes (R83). -/
inductive LaneTy where
  | f32 | bf16 | fp16 | c16 | i32 | i16 | i8 | u8
deriving DecidableEq, Repr

/-- The type code of R83. -/
def LaneTy.code : LaneTy → BitVec 3
  | .f32 => 0 | .bf16 => 1 | .fp16 => 2 | .c16 => 3 | .i32 => 4 | .i16 => 5 | .i8 => 6 | .u8 => 7

/-- The lane type of a code of R83. -/
def LaneTy.ofCode (c : BitVec 3) : LaneTy :=
  match c.toNat with
  | 0 => .f32 | 1 => .bf16 | 2 => .fp16 | 3 => .c16 | 4 => .i32 | 5 => .i16 | 6 => .i8 | _ => .u8

/-- The fields every tile command word shares: WAIT, the substitution numbers and the domain tags (R94). -/
structure TileHdr where
  wait : BitVec 8
  s1   : BitVec 5
  s2   : BitVec 5
  s3   : BitVec 5
  din  : BitVec 2
  dout : BitVec 2
deriving DecidableEq, Repr

/-- The shape of a spectral command: LB, NB - 1, NV - 1 and, for SCMM, P - 1 (R213, R429). -/
structure Shape where
  lb  : BitVec 2
  nb1 : BitVec 5
  nv1 : BitVec 5
  p1  : BitVec 5
deriving DecidableEq, Repr

/-- The KB fields of a tinker command: K - 1 and NBLK - 1 (R449). -/
structure KBlk where
  k1 : BitVec 8
  n1 : BitVec 9
deriving DecidableEq, Repr

/-- Direction of an access for the checks (R142). -/
inductive Dir where
  | fetch | load | store
deriving DecidableEq, Repr

/-- A message of 8 or 64 bytes in a pigeonhole (R149). -/
structure Msg where
  big  : Bool
  data : VWord
deriving DecidableEq, Repr

/-- A posted store on its way to its word's owner (R166, R183): `size` bytes at physical address `pa`. -/
structure StoreReq where
  sid  : Nat
  pa   : Nat
  size : Nat
  data : VWord
  va   : Word
deriving DecidableEq, Repr

/-- Where the data of a load goes (R382, R463, R464). -/
inductive LoadDst where
  | scalar (rd : XReg) (signed : Bool)
  | vector (vd : VReg)
deriving DecidableEq, Repr

/-- A load request: elements of `size` bytes still to read, each at a physical and a virtual address; `got` holds the
`n` elements already read, the first in the low bits (R122, R463, R464). -/
structure LoadReq where
  sid  : Nat
  els  : List (Nat × Word)
  size : Nat
  dst  : LoadDst
  got  : Nat
  n    : Nat
deriving DecidableEq, Repr

/-- The ten atomic operations in the order of their numbers (R86, R186). -/
inductive AtomOp where
  | add | and | or | xor | max | min | swap | cas | fadd | fmax
deriving DecidableEq, Repr

/-- An atomic request at its owner (R185, R186). -/
structure AtomReq where
  sid   : Nat
  op    : AtomOp
  nr    : Bool
  aq    : Bool
  pa    : Nat
  b     : Word
  cmp   : Word
  rd    : XReg
  va    : Word
deriving DecidableEq, Repr

/-- The six presence instructions (R132). -/
inductive PresOp where
  | ldfk | ldfe | stef | stfl | feget | feput
deriving DecidableEq, Repr

/-- A presence request at its owner (R132, R133), with the team and generation of the slot that made it (R240). -/
structure PresReq where
  sid   : Nat
  tid   : Nat := 0
  gen   : Nat := 0
  op    : PresOp
  pa    : Nat
  data  : Word
  rd    : XReg
  va    : Word
  tries : Nat
deriving DecidableEq, Repr

/-- What an active message, or the implicit frame of a returning atomic, has the innkeeper of a core do, and what a vault
controller does in its turn (R38, R125, R185). -/
inductive Active where
  | load (r : LoadReq)
  | store (r : StoreReq)
  | atom (r : AtomReq)
  | pres (r : PresReq)
deriving DecidableEq, Repr

/-- A traveller packet (R35). `kind`: 0 migrate, 1 spawn, 2 delegate, 3 remote update, 4 home.
`exitMark` is set in the home packet of a migrated traveller that ended with EXIT (R372). `act` is what an active
message or the implicit frame of a returning atomic asks of the owner's innkeeper (R38, R125). -/
structure Packet where
  team     : Nat
  gen      : Nat
  kind     : Nat
  prio     : Nat
  cap      : Nat
  origin   : Word
  target   : Word
  pc       : Word
  a        : List Word
  t0       : Word
  t1       : Word
  p0       : PWord
  reply    : BitVec 32
  exitMark : Bool
  act      : Option Active := none
deriving DecidableEq, Repr

/-- What a remote access is for its issuing slot (R63, R295, R297). -/
inductive RemUse where
  | pendX (rd : XReg)                       -- RLD
  | pendV (vd : VReg)                       -- RLDV
  | waitX (rd : XReg) (signed : Bool)       -- a scalar load through a window
  | waitV (vd : VReg)                       -- VLD through a window
  | waitS                                   -- a store or VST through a window: the slot parks (R63)
  | posted                                  -- RST, RSTV
  | member (i : Nat)                        -- member i of a multicast
deriving DecidableEq, Repr

/-- A remote access as the destination hub sees it, with the fabric id of the package it comes from (R292, R293). -/
structure RemReq where
  src    : Nat
  sid    : Nat
  use    : RemUse
  pkg    : Nat
  team   : Nat
  key    : Nat
  addr   : Word
  size   : Nat
  store  : Bool
  data   : VWord
  ptr    : Word
deriving DecidableEq, Repr

/-- A Druale flit (R300): the fields of its header, 224 bytes of ciphertext, the tag, and whether the physical layer
found the flit CRC good (R302). -/
structure Flit where
  lseq   : Nat
  kind   : Nat
  kslot  : Nat
  reply  : Bool
  vc     : Nat
  ctr    : Nat
  cipher : List Byte
  tag    : List Byte
  crcOk  : Bool
deriving DecidableEq, Repr

/-- How a packet travels in the network: its class, its virtual channel (0 to 3 adaptive, 4 escape), and the up-port it took
last (R288, R289). -/
structure Hop where
  reply : Bool
  vc    : Nat
  up    : Nat
deriving DecidableEq, Repr

/-- A firmware or kernel image as the stewards verify it: its bytes, its signature, its security version (R307). -/
structure Image where
  bytes   : List Byte
  sig     : List Byte
  version : BitVec 32
deriving DecidableEq, Repr

/-- What the stewards verify and fix at boot: the images (R307), the other packages of the checkpoint groups, the size of the
reserve memory (R287), the threshold of the row counters (R245). -/
structure BootCfg where
  images   : List Image
  group    : List Nat
  reserve  : Nat
  rowLimit : Nat
deriving DecidableEq, Repr

/-- A message of 256 bytes or more between the network interfaces of two packages (R298, R299): the message, compressed
when it names a dictionary generation, with the length of its plain form and whether its CRC is good; or the receiver's
answer to one. -/
inductive NetMsg where
  | message (gen : Option Nat) (payload : List Byte) (len : Nat) (crcOk : Bool)
  | accepted
  | refused
deriving DecidableEq, Repr

/-- The contents of a steward notice but its number (R253). -/
structure Notice where
  kind  : Nat
  scope : Nat
  unit  : Nat
  team  : Nat
  arg0  : Word
  arg1  : Word
deriving DecidableEq, Repr

/-- What arrives as a message: one for the pigeonhole that the event names (R149), or one between network interfaces, which
names none (R298). -/
inductive Delivery where
  | hole (m : Msg)
  | net (peer : Nat) (m : NetMsg)
deriving DecidableEq, Repr

/-- A packet as it arrives, with the CRC of its last bytes (R35). -/
structure Framed where
  p   : Packet
  crc : BitVec 32
deriving DecidableEq, Repr

/-- An acknowledgement of a flit; `dropped`: the receiver has discarded it for good (R302). -/
structure FlitAck where
  lseq    : Nat
  dropped : Bool
deriving DecidableEq, Repr

/-- The rekeying of a link: the threshold is programmed, or reached (R301). -/
structure Rekey where
  link    : Nat
  program : Option Nat
deriving DecidableEq, Repr

/-- A key exchange for a key slot, with what the peer has signed (R301, R308). -/
structure KeyExchange where
  slot : Nat
  sig  : List Byte
deriving DecidableEq, Repr

/-- A write of the host to its page: the doorbell, after the ring setup where it gives one (R304, R305). -/
structure DoorSet where
  door : BitVec 32
  ring : Option (Word × Word × BitVec 32)
deriving DecidableEq, Repr

/-- A hub's measured offset in nanoseconds (R17). -/
structure PtpOffset where
  hub    : Nat
  offset : Int
deriving DecidableEq, Repr

/-- What waits in the machine's agenda: one device event or outside input of spec 95, with the arguments of its row's
constructor of Instr. -/
inductive Event where
  | interruptEntry (sid : Nat)
  | safePointOverdue (sid : Nat)
  | sliceInstant (sid : Nat)
  | kernelTimer (sid : Nat)
  | parkExpiry (sid : Nat)
  | followTimeout (sid : Nat)
  | dispatchPlace (lid : Word) (choice : List Nat)
  | teamStart (tid : Nat)
  | dependenceReject (lid : Word)
  | travellerArrival (p : Packet) (owner sid tries : Nat) (crc : BitVec 32)
  | travellerRetry (p : Packet) (owner sid tries due : Nat)
  | runQueueRelease (core : Nat)
  | homePacketArrival (f : Framed)
  | remoteUpdate (p : Packet) (owner : Nat)
  | spawnExitReport (tid logical : Nat) (flags : BitVec 6)
  | storeAtOwner (r : StoreReq)
  | loadAtOwner (r : LoadReq)
  | atomicAtOwner (r : AtomReq)
  | atomicReply (r : AtomReq) (old : Word) (flags : BitVec 6)
  | presenceRequest (r : PresReq)
  | presenceRetry (r : PresReq) (due : Nat)
  | pageTableWalk (sid : Nat) (va : Word) (dir : Dir)
  | vaultCacheFill (cluster line : Nat)
  | fetchLineArrival (chan asid line : Nat)
  | copyBurstDeliver (core ch : Nat)
  | streamReadAhead (sid q : Nat)
  | streamElementWrite (sid q : Nat)
  | ksfImageFetch (chan tid slot : Nat)
  | ksfStreamUnit (core ch : Nat)
  | messageArrival (tid core hole : Nat) (d : Delivery)
  | barrierRootReport (tid gen cluster b : Nat) (leaf : Option Nat)
  | barrierPhaseFlip (tid gen cluster b : Nat)
  | doneMessage (tid logical : Nat) (w : Word)
  | tileCommandStart (cluster eng : Nat)
  | tileCommandComplete (cluster eng ticket : Nat)
  | domainAbort (sid depth reason : Nat)
  | domainRestore (sid : Nat)
  | remoteAccessArrival (r : RemReq)
  | remoteReplyArrival (r : RemReq) (value : VWord) (poisoned : Bool)
  | remoteRejectReport (r : RemReq)
  | multicastMemberReport (sid member : Nat) (ok : Bool)
  | packetRoute (h : Hop) (level : Nat) (again : Bool) (e : Event)
  | flitArrival (link : Nat) (f : Flit)
  | flitRetryRequest (link lseq : Nat)
  | flitAcknowledge (link : Nat) (a : FlitAck)
  | rekeyThreshold (r : Rekey)
  | keyInstall (link : Nat) (k : KeyExchange)
  | doorWrite (d : DoorSet)
  | h2dAccept (m : VWord)
  | prodWrite (v : BitVec 32)
  | d2hSend
  | seenWrite (v : BitVec 32) (restart : Bool)
  | moduleReset
  | stewardDieTest (pass : BitVec 9)
  | bootVerify (cfg : BootCfg)
  | kernelLaunch (record : Word)
  | attestationRequest (nonce : VWord) (dst : Word)
  | stewardNotice (n : Notice)
  | dieMapChange (die phase pkg pdie : Nat)
  | hubFailover
  | thermalAlarm (scope unit temp : Nat)
  | thermalShutdown (temp : Nat)
  | thermalClear (stack temp : Nat)
  | halfWidthChange (chan : Nat)
  | fullWidthReturn (chan : Nat)
  | laneFault (link : Bool) (unit : Nat)
  | powerBudgetExceeded
  | ptpOffsetExceeded (hub : Nat) (offset : Int)
  | rowPrecharge (chan row : Nat) (parityOk : Bool)
  | neighbourRefresh (chan row : Nat)
  | pageRowStep (sid dst : Nat) (src : Option Nat) (rl : Bool) (k : Nat)
  | scrubLineStep (sid : Nat) (va : Word) (left : Nat)
  | backgroundScrub (pa : Nat) (finder : Option Nat)
  | uncorrectableError (pa : Nat)
  | unitFailure (cls unit : Nat)
  | diagnosisVote (a b : Option Bool) (peer : Bool) (cls unit : Nat)
  | replacement (tid logical phys : Nat) (readable : Bool)
  | stateLossSequence (tid : Nat)
  | packageLoss (pkg tid : Nat)
  | remapStart (version : Nat)
  | remapPageMove (page : Option Nat)
  | remapEnd
  | checkpointUnitCopy (tid : Nat) (unit : Option Nat)
  | checkpointCommit (tid reason : Nat)
  | travellerSave (tid sid : Nat)
  | porterQuiesce (tid core : Nat)
  | arrayQuiesce (tid cluster : Nat)
  | saveComplete (tid : Nat)
  | teamResume (lid : Word) (choice : List Nat)
  | ptpOffsetRecovered (o : PtpOffset)
  | powerDrawWithinBudget
  | laneFaultCleared (chan : Nat)
  | remoteStoreAcknowledge (r : RemReq)
  | clusterScrubComplete (cluster : Nat)
deriving DecidableEq, Repr

end Sys2Proof
end

