-- ==== Sys2Proof/Syntax.lean ====
section
/-! DEFINITION. Every row of spec/opcode_table.json as one constructor: the instruction words (spec 04), the tile
commands (spec 22, 24), the parts of a CSR write and the device's events (spec 95). Each docstring is the row's rule. -/

namespace Sys2Proof

/-- The steps of the Tihild: one constructor for each row of the opcode table. -/
inductive Instr where
  /-- ADD (R329). -/
  | add (rd rs1 rs2 : XReg)
  /-- SUB (R442). -/
  | sub (rd rs1 rs2 : XReg)
  /-- SLL (R436). -/
  | sll (rd rs1 rs2 : XReg)
  /-- SLT (R437). -/
  | slt (rd rs1 rs2 : XReg)
  /-- SLTU (R437). -/
  | sltu (rd rs1 rs2 : XReg)
  /-- XOR (R470). -/
  | xor (rd rs1 rs2 : XReg)
  /-- SRL (R436). -/
  | srl (rd rs1 rs2 : XReg)
  /-- SRA (R436). -/
  | sra (rd rs1 rs2 : XReg)
  /-- OR (R407). -/
  | or (rd rs1 rs2 : XReg)
  /-- AND (R329). -/
  | and (rd rs1 rs2 : XReg)
  /-- ADDW (R329). -/
  | addw (rd rs1 rs2 : XReg)
  /-- SUBW (R442). -/
  | subw (rd rs1 rs2 : XReg)
  /-- SLLW (R436). -/
  | sllw (rd rs1 rs2 : XReg)
  /-- SRLW (R436). -/
  | srlw (rd rs1 rs2 : XReg)
  /-- SRAW (R436). -/
  | sraw (rd rs1 rs2 : XReg)
  /-- MUL (R402). -/
  | mul (rd rs1 rs2 : XReg)
  /-- MULH (R402). -/
  | mulh (rd rs1 rs2 : XReg)
  /-- MULHSU (R402). -/
  | mulhsu (rd rs1 rs2 : XReg)
  /-- MULHU (R402). -/
  | mulhu (rd rs1 rs2 : XReg)
  /-- DIV (R366). -/
  | div (rd rs1 rs2 : XReg)
  /-- DIVU (R366). -/
  | divu (rd rs1 rs2 : XReg)
  /-- REM (R421). -/
  | rem (rd rs1 rs2 : XReg)
  /-- REMU (R421). -/
  | remu (rd rs1 rs2 : XReg)
  /-- MULW (R402). -/
  | mulw (rd rs1 rs2 : XReg)
  /-- DIVW (R366). -/
  | divw (rd rs1 rs2 : XReg)
  /-- DIVUW (R366). -/
  | divuw (rd rs1 rs2 : XReg)
  /-- REMW (R421). -/
  | remw (rd rs1 rs2 : XReg)
  /-- REMUW (R421). -/
  | remuw (rd rs1 rs2 : XReg)
  /-- ADDI (R329). -/
  | addi (rd rs1 : XReg) (imm : BitVec 12)
  /-- SLTI (R437). -/
  | slti (rd rs1 : XReg) (imm : BitVec 12)
  /-- SLTIU (R437). -/
  | sltiu (rd rs1 : XReg) (imm : BitVec 12)
  /-- XORI (R470). -/
  | xori (rd rs1 : XReg) (imm : BitVec 12)
  /-- ORI (R407). -/
  | ori (rd rs1 : XReg) (imm : BitVec 12)
  /-- ANDI (R329). -/
  | andi (rd rs1 : XReg) (imm : BitVec 12)
  /-- SLLI (R436). -/
  | slli (rd rs1 : XReg) (sh : BitVec 6)
  /-- SRLI (R436). -/
  | srli (rd rs1 : XReg) (sh : BitVec 6)
  /-- SRAI (R436). -/
  | srai (rd rs1 : XReg) (sh : BitVec 6)
  /-- ADDIW (R329). -/
  | addiw (rd rs1 : XReg) (imm : BitVec 12)
  /-- SLLIW (R436). -/
  | slliw (rd rs1 : XReg) (sh : BitVec 5)
  /-- SRLIW (R436). -/
  | srliw (rd rs1 : XReg) (sh : BitVec 5)
  /-- SRAIW (R436). -/
  | sraiw (rd rs1 : XReg) (sh : BitVec 5)
  /-- LB (R382). -/
  | lb (rd rs1 : XReg) (imm : BitVec 12)
  /-- LH (R382). -/
  | lh (rd rs1 : XReg) (imm : BitVec 12)
  /-- LW (R382). -/
  | lw (rd rs1 : XReg) (imm : BitVec 12)
  /-- LD (R382). -/
  | ld (rd rs1 : XReg) (imm : BitVec 12)
  /-- LBU (R382). -/
  | lbu (rd rs1 : XReg) (imm : BitVec 12)
  /-- LHU (R382). -/
  | lhu (rd rs1 : XReg) (imm : BitVec 12)
  /-- LWU (R382). -/
  | lwu (rd rs1 : XReg) (imm : BitVec 12)
  /-- SB (R427). -/
  | sb (rs2 rs1 : XReg) (imm : BitVec 12)
  /-- SH (R427). -/
  | sh (rs2 rs1 : XReg) (imm : BitVec 12)
  /-- SW (R427). -/
  | sw (rs2 rs1 : XReg) (imm : BitVec 12)
  /-- SD (R427). -/
  | sd (rs2 rs1 : XReg) (imm : BitVec 12)
  /-- BEQ (R339). `off` is offset bits [12:1]. -/
  | beq (rs1 rs2 : XReg) (off : BitVec 12)
  /-- BNE (R339). -/
  | bne (rs1 rs2 : XReg) (off : BitVec 12)
  /-- BLT (R339). -/
  | blt (rs1 rs2 : XReg) (off : BitVec 12)
  /-- BGE (R339). -/
  | bge (rs1 rs2 : XReg) (off : BitVec 12)
  /-- BLTU (R339). -/
  | bltu (rs1 rs2 : XReg) (off : BitVec 12)
  /-- BGEU (R339). -/
  | bgeu (rs1 rs2 : XReg) (off : BitVec 12)
  /-- LUI (R384). -/
  | lui (rd : XReg) (imm : BitVec 20)
  /-- AUIPC (R333). -/
  | auipc (rd : XReg) (imm : BitVec 20)
  /-- JAL (R378). `off` is offset bits [20:1]. -/
  | jal (rd : XReg) (off : BitVec 20)
  /-- JALR (R378). -/
  | jalr (rd rs1 : XReg) (imm : BitVec 12)
  /-- CSRRW (R355). -/
  | csrrw (rd : XReg) (csr : BitVec 12) (rs1 : XReg)
  /-- CSRRS (R355). -/
  | csrrs (rd : XReg) (csr : BitVec 12) (rs1 : XReg)
  /-- CSRRC (R355). -/
  | csrrc (rd : XReg) (csr : BitVec 12) (rs1 : XReg)
  /-- CSRRWI (R355). -/
  | csrrwi (rd : XReg) (csr : BitVec 12) (u : BitVec 5)
  /-- CSRRSI (R355). -/
  | csrrsi (rd : XReg) (csr : BitVec 12) (u : BitVec 5)
  /-- CSRRCI (R355). -/
  | csrrci (rd : XReg) (csr : BitVec 12) (u : BitVec 5)
  /-- FENCE (R375). The fm, predecessor, successor, rs1 and rd fields are ignored (R80). -/
  | fence (rd rs1 : XReg) (imm : BitVec 12)
  /-- FENCE_I (R375). The imm12, rs1 and rd fields are ignored (R80). -/
  | fenceI (rd rs1 : XReg) (imm : BitVec 12)
  /-- ECALL (R367). -/
  | ecall
  /-- EBREAK (R367). -/
  | ebreak
  /-- LDFK (R132). -/
  | ldfk (rd rs1 : XReg)
  /-- LDFE (R132). -/
  | ldfe (rd rs1 : XReg)
  /-- STEF (R132). -/
  | stef (rs2 rs1 : XReg)
  /-- STFL (R132). -/
  | stfl (rs2 rs1 : XReg)
  /-- FEGET (R132). -/
  | feget (rd rs1 : XReg)
  /-- FEPUT (R132). -/
  | feput (rs2 rs1 : XReg)
  /-- RLD (R423). -/
  | rld (rd rs1 : XReg)
  /-- RLDV (R423). -/
  | rldv (vd : VReg) (rs1 : XReg)
  /-- RST (R423). -/
  | rst (rs2 rs1 : XReg)
  /-- RSTV (R423). -/
  | rstv (vs2 : VReg) (rs1 : XReg)
  /-- MCST (R390). -/
  | mcst (rs2 rs1 : XReg)
  /-- MCSTV (R390). -/
  | mcstv (vs2 : VReg) (rs1 : XReg)
  /-- AMADD (R186). -/
  | amadd (rd rs2 rs1 : XReg) (nr aq rl : Bool)
  /-- AMAND (R186). -/
  | amand (rd rs2 rs1 : XReg) (nr aq rl : Bool)
  /-- AMOR (R186). -/
  | amor (rd rs2 rs1 : XReg) (nr aq rl : Bool)
  /-- AMXOR (R186). -/
  | amxor (rd rs2 rs1 : XReg) (nr aq rl : Bool)
  /-- AMMAX (R186). -/
  | ammax (rd rs2 rs1 : XReg) (nr aq rl : Bool)
  /-- AMMIN (R186). -/
  | ammin (rd rs2 rs1 : XReg) (nr aq rl : Bool)
  /-- AMSWAP (R186). -/
  | amswap (rd rs2 rs1 : XReg) (nr aq rl : Bool)
  /-- AMCAS (R186). -/
  | amcas (rd rs2 rs1 : XReg) (nr aq rl : Bool)
  /-- AMFADD (R188). -/
  | amfadd (rd rs2 rs1 : XReg) (nr aq rl : Bool)
  /-- AMFMAX (R188). -/
  | amfmax (rd rs2 rs1 : XReg) (nr aq rl : Bool)
  /-- CPY (R350). `bc` is the byte-count barrier (R87). -/
  | cpy (ch : BitVec 2) (bc : Option (BitVec 3)) (rs1 rs2 rs3 : XReg)
  /-- CPY2D (R350). -/
  | cpy2d (ch : BitVec 2) (bc : Option (BitVec 3)) (rs1 rs2 rs3 : XReg)
  /-- CPYG (R350). -/
  | cpyg (ch : BitVec 2) (bc : Option (BitVec 3)) (rs1 rs2 rs3 : XReg)
  /-- CPYS (R350). -/
  | cpys (ch : BitVec 2) (bc : Option (BitVec 3)) (rs1 rs2 rs3 : XReg)
  /-- CSEAL (R354). -/
  | cseal (rd : XReg)
  /-- CWAIT (R362). -/
  | cwait (n : BitVec 5)
  /-- BCARM (R337). -/
  | bcarm (id : BitVec 3) (rs1 : XReg)
  /-- BCWAIT (R338). -/
  | bcwait (id : BitVec 3)
  /-- PGZERO (R411). -/
  | pgzero (rs1 : XReg)
  /-- PGCOPY (R411). -/
  | pgcopy (rs1 rs2 : XReg)
  /-- EXIT (R372). -/
  | exit
  /-- YIELD (R471). -/
  | yield
  /-- PARK (R409). -/
  | park (rs1 : XReg)
  /-- FOLLOW (R376). -/
  | follow
  /-- MIGR (R392). -/
  | migr (rs1 : XReg)
  /-- HOME (R377). -/
  | home
  /-- SPAWN (R438). -/
  | spawn (rs1 rs2 : XReg)
  /-- DELEG (R364). -/
  | deleg (rs1 rs2 : XReg)
  /-- DELEG_REPLY (R364). -/
  | delegReply (rs1 rs2 : XReg) (h : BitVec 4)
  /-- STEP (R441). -/
  | step
  /-- CKPT (R347). -/
  | ckpt
  /-- SAFEPT (R426). -/
  | safept (idx : BitVec 12)
  /-- LOOP (R383). -/
  | loop (rs1 : XReg) (n : BitVec 12)
  /-- QRD (R418). -/
  | qrd (rd : XReg) (q : QReg)
  /-- QWR (R418). -/
  | qwr (q : QReg) (rs2 : XReg)
  /-- QRDV (R418). -/
  | qrdv (vd : VReg) (q : QReg)
  /-- QWRV (R418). -/
  | qwrv (q : QReg) (vs2 : VReg)
  /-- QTST (R419). -/
  | qtst (rd : XReg) (q : QReg)
  /-- QWAIT (R420). -/
  | qwait (rd rs1 : XReg)
  /-- QBIND (R414). -/
  | qbind (q : QReg) (rs2 : XReg)
  /-- QFREE (R415). -/
  | qfree (q : QReg)
  /-- QBR (R416). -/
  | qbr (q : QReg) (off : BitVec 12)
  /-- BARINIT (R160). -/
  | barinit (b : BitVec 3) (rs1 : XReg)
  /-- BARARV (R335). -/
  | bararv (b : BitVec 3)
  /-- BARWT (R335). -/
  | barwt (b : BitVec 3)
  /-- BARSYN (R335). -/
  | barsyn (b : BitVec 3)
  /-- BARQ (R335). -/
  | barq (rd : XReg) (b : BitVec 3)
  /-- CDOPEN (R272). -/
  | cdopen (rs1 : XReg)
  /-- CDPRES_COPY (R273). -/
  | cdpresCopy (rs1 rs2 : XReg)
  /-- CDPRES_REF (R273). -/
  | cdpresRef (rs1 rs2 : XReg)
  /-- CDCLOSE (R274). -/
  | cdclose
  /-- CDABORT (R275). -/
  | cdabort
  /-- CDSTAT (R276). -/
  | cdstat (rd : XReg)
  /-- SCOPEF (R174). kind 0 acquire, 1 release, 2 full; scope 0 to 5 (R89). -/
  | scopef (kind : BitVec 2) (scope : BitVec 3)
  /-- ENQ (R369). -/
  | enq (q : QReg) (vs2 : VReg)
  /-- MLEASE (R190). -/
  | mlease
  /-- MREL (R190). -/
  | mrel
  /-- EFENCE (R182). -/
  | efence (rs1 rs2 : XReg)
  /-- MSEND (R398). -/
  | msend (rs1 rs2 : XReg)
  /-- MSENDV (R398). -/
  | msendv (rs1 : XReg) (vs2 : VReg)
  /-- KSFBIND (R235). -/
  | ksfbind (rs1 rs2 : XReg)
  /-- ERES (R371). -/
  | eres (rs1 : XReg)
  /-- KRET (R248). -/
  | kret
  /-- TLBINV (R447). -/
  | tlbinv (rs1 rs2 : XReg)
  /-- CTXST (R359). -/
  | ctxst (rs1 rs2 : XReg)
  /-- CTXLD (R360). -/
  | ctxld (rs1 rs2 : XReg)
  /-- SCRUB (R434). -/
  | scrub (rs1 rs2 : XReg)
  /-- TEAMSTOP (R445). -/
  | teamstop (rs1 : XReg)
  /-- TEAMGO (R443). -/
  | teamgo (rs1 : XReg)
  /-- PTPARM (R413). -/
  | ptparm (rs1 : XReg)
  /-- KSFLOAD (R381). -/
  | ksfload (rs1 rs2 : XReg)
  /-- VADD (R456). -/
  | vadd (pred : PReg) (ty : LaneTy) (vd vs1 vs2 : VReg)
  /-- VSUB (R456). -/
  | vsub (pred : PReg) (ty : LaneTy) (vd vs1 vs2 : VReg)
  /-- VMUL (R456). -/
  | vmul (pred : PReg) (ty : LaneTy) (vd vs1 vs2 : VReg)
  /-- VFMA (R456). -/
  | vfma (pred : PReg) (ty : LaneTy) (vd vs1 vs2 : VReg)
  /-- VFMS (R456). -/
  | vfms (pred : PReg) (ty : LaneTy) (vd vs1 vs2 : VReg)
  /-- VMAX (R456). -/
  | vmax (pred : PReg) (ty : LaneTy) (vd vs1 vs2 : VReg)
  /-- VMIN (R456). -/
  | vmin (pred : PReg) (ty : LaneTy) (vd vs1 vs2 : VReg)
  /-- VABS (R456). -/
  | vabs (pred : PReg) (ty : LaneTy) (vd vs1 : VReg)
  /-- VNEG (R456). -/
  | vneg (pred : PReg) (ty : LaneTy) (vd vs1 : VReg)
  /-- VCMP_EQ (R457). -/
  | vcmpEq (pred : PReg) (ty : LaneTy) (pd : PReg) (vs1 vs2 : VReg)
  /-- VCMP_LT (R457). -/
  | vcmpLt (pred : PReg) (ty : LaneTy) (pd : PReg) (vs1 vs2 : VReg)
  /-- VCMP_LE (R457). -/
  | vcmpLe (pred : PReg) (ty : LaneTy) (pd : PReg) (vs1 vs2 : VReg)
  /-- VCMP_NE (R457). -/
  | vcmpNe (pred : PReg) (ty : LaneTy) (pd : PReg) (vs1 vs2 : VReg)
  /-- VCVT (R458). -/
  | vcvt (pred : PReg) (ty src : LaneTy) (vd vs1 : VReg)
  /-- VRCPE (R459). -/
  | vrcpe (pred : PReg) (ty : LaneTy) (vd vs1 : VReg)
  /-- VRSQE (R459). -/
  | vrsqe (pred : PReg) (ty : LaneTy) (vd vs1 : VReg)
  /-- VEXP2E (R459). -/
  | vexp2e (pred : PReg) (ty : LaneTy) (vd vs1 : VReg)
  /-- VREDS (R460). -/
  | vreds (pred : PReg) (ty : LaneTy) (vd vs1 : VReg)
  /-- VREDM (R460). -/
  | vredm (pred : PReg) (ty : LaneTy) (vd vs1 : VReg)
  /-- VCMUL (R456). -/
  | vcmul (pred : PReg) (vd vs1 vs2 : VReg)
  /-- VIADD (R461). -/
  | viadd (pred : PReg) (ty : LaneTy) (vd vs1 vs2 : VReg)
  /-- VISUB (R461). -/
  | visub (pred : PReg) (ty : LaneTy) (vd vs1 vs2 : VReg)
  /-- VIMUL (R461). -/
  | vimul (pred : PReg) (ty : LaneTy) (vd vs1 vs2 : VReg)
  /-- VAND (R461). -/
  | vand (pred : PReg) (ty : LaneTy) (vd vs1 vs2 : VReg)
  /-- VOR (R461). -/
  | vor (pred : PReg) (ty : LaneTy) (vd vs1 vs2 : VReg)
  /-- VXOR (R461). -/
  | vxor (pred : PReg) (ty : LaneTy) (vd vs1 vs2 : VReg)
  /-- VSHL (R461). -/
  | vshl (pred : PReg) (ty : LaneTy) (vd vs1 vs2 : VReg)
  /-- VSHR (R461). -/
  | vshr (pred : PReg) (ty : LaneTy) (vd vs1 vs2 : VReg)
  /-- VSRA (R461). -/
  | vsra (pred : PReg) (ty : LaneTy) (vd vs1 vs2 : VReg)
  /-- VIMAX (R461). -/
  | vimax (pred : PReg) (ty : LaneTy) (vd vs1 vs2 : VReg)
  /-- VIMIN (R461). -/
  | vimin (pred : PReg) (ty : LaneTy) (vd vs1 vs2 : VReg)
  /-- VICMP_EQ (R457). -/
  | vicmpEq (pred : PReg) (ty : LaneTy) (pd : PReg) (vs1 vs2 : VReg)
  /-- VICMP_LT (R457). -/
  | vicmpLt (pred : PReg) (ty : LaneTy) (pd : PReg) (vs1 vs2 : VReg)
  /-- VICMP_LE (R457). -/
  | vicmpLe (pred : PReg) (ty : LaneTy) (pd : PReg) (vs1 vs2 : VReg)
  /-- VICMP_NE (R457). -/
  | vicmpNe (pred : PReg) (ty : LaneTy) (pd : PReg) (vs1 vs2 : VReg)
  /-- VLD (R463). -/
  | vld (vd : VReg) (rs1 : XReg)
  /-- VST (R463). -/
  | vst (vs2 : VReg) (rs1 : XReg)
  /-- VLDS (R464). `h` is the width bit W (R93). -/
  | vlds (h : Bool) (vd : VReg) (rs1 rs2 : XReg)
  /-- VSTS (R464). -/
  | vsts (h : Bool) (vs : VReg) (rs1 rs2 : XReg)
  /-- VGATH (R464). -/
  | vgath (h : Bool) (vd : VReg) (rs1 : XReg) (vi : VReg)
  /-- VSCAT (R464). -/
  | vscat (h : Bool) (vs : VReg) (rs1 : XReg) (vi : VReg)
  /-- VBCST (R467). -/
  | vbcst (h : Bool) (vd : VReg) (rs1 : XReg)
  /-- VMVX (R467). -/
  | vmvx (h : Bool) (rd : XReg) (vs1 : VReg) (rs2 : XReg)
  /-- VINS (R467). -/
  | vins (h : Bool) (vd : VReg) (rs1 rs2 : XReg)
  /-- VSHUF (R468). -/
  | vshuf (vd vs1 vs2 : VReg)
  /-- VIOTA (R467). -/
  | viota (h : Bool) (vd : VReg) (rs1 : XReg)
  /-- VSEL (R469). -/
  | vsel (h : Bool) (vd vs1 vs2 : VReg) (k : PReg)
  /-- PAND (R408). -/
  | pand (pd pa pb : PReg)
  /-- POR (R408). -/
  | por (pd pa pb : PReg)
  /-- PXOR (R408). -/
  | pxor (pd pa pb : PReg)
  /-- PNOT (R408). -/
  | pnot (pd pa : PReg)
  /-- PCNT (R408). -/
  | pcnt (rd : XReg) (pa : PReg)
  /-- PFIRST (R408). -/
  | pfirst (rd : XReg) (pa : PReg)
  /-- BSGET (R341). `n1` is n - 1 (R341). -/
  | bsget (rd : XReg) (n1 : BitVec 5)
  /-- BSPUT (R341). -/
  | bsput (rs1 : XReg) (n1 : BitVec 5)
  /-- BSPEEK (R341). -/
  | bspeek (rd : XReg) (n1 : BitVec 5)
  /-- BSSKIP (R341). -/
  | bsskip (rs1 : XReg)
  /-- BSFLSH (R341). -/
  | bsflsh
  /-- BSALGN_RD (R341). -/
  | bsalgnRd
  /-- BSALGN_WR (R341). -/
  | bsalgnWr
  /-- MMA (R396). -/
  | mma (h : TileHdr) (bank : BitVec 2) (acc : Bool) (bform : BitVec 2) (xexp : BitVec 17) (a : BitVec 57) (st1 : BitVec 7) (woff : BitVec 57)
  /-- MVB (R403). -/
  | mvb (h : TileHdr) (bank : BitVec 2) (acc : Bool) (vmask : BitVec 8) (tile : BitVec 57)
  /-- MLDV (R394). -/
  | mldv (h : TileHdr) (vslot : BitVec 3) (xd xsel : Bool) (xexp : BitVec 17) (vec : BitVec 57)
  /-- MWLD (R404). -/
  | mwld (h : TileHdr) (form : BitVec 2) (src woff : BitVec 57)
  /-- MZERO (R406). -/
  | mzero (h : TileHdr) (bank : BitVec 2)
  /-- MSTC (R400). -/
  | mstc (h : TileHdr) (bank : BitVec 2) (fold ovr : Bool) (sfmt : BitVec 3) (foldw dst : BitVec 57) (st3 : BitVec 7)
  /-- MTRN (R397). -/
  | mtrn (h : TileHdr) (bank : BitVec 2) (xexp : BitVec 17) (a : BitVec 57) (st1 : BitVec 7)
  /-- MPERM (R397). -/
  | mperm (h : TileHdr) (bank : BitVec 2) (acc : Bool) (xexp : BitVec 17) (a : BitVec 57) (st1 : BitVec 7) (idx : BitVec 57)
  /-- MRSUM (R397). -/
  | mrsum (h : TileHdr) (bank : BitVec 2) (acc : Bool) (seg : BitVec 3) (xexp : BitVec 17) (a : BitVec 57) (st1 : BitVec 7)
  /-- SFFT (R216). -/
  | sfft (h : TileHdr) (shape : Shape) (src dst : BitVec 57)
  /-- SIFFT (R216). -/
  | sifft (h : TileHdr) (shape : Shape) (src dst : BitVec 57)
  /-- SCMM (R220). -/
  | scmm (h : TileHdr) (bank : BitVec 2) (shape : Shape) (src woff dst : BitVec 57)
  /-- STAG_MODE_0 (R218). -/
  | stagMode0 (h : TileHdr) (et : BitVec 17) (shape : Shape) (src dst : BitVec 57)
  /-- STAG_MODE_1 (R218). -/
  | stagMode1 (h : TileHdr) (shape : Shape) (src ref dst : BitVec 57)
  /-- STAG_MODE_2 (R218). -/
  | stagMode2 (h : TileHdr) (shape : Shape) (src dst : BitVec 57)
  /-- TTOPK (R451). -/
  | ttopk (h : TileHdr) (lb : BitVec 3) (res : Bool) (kb : KBlk) (x r out : Word)
  /-- TSPADD (R452). -/
  | tspadd (h : TileHdr) (kb : KBlk) (pairs : Word) (len : BitVec 26) (vec : Word)
  /-- TPACK (R452). -/
  | tpack (h : TileHdr) (lb : BitVec 3) (kb : KBlk) (src dst : Word)
  /-- TUNPK (R452). -/
  | tunpk (h : TileHdr) (lb : BitVec 3) (kb : KBlk) (src dst : Word)
  /-- TLINK (R453). -/
  | tlink (h : TileHdr) (n1 : BitVec 4) (list : BitVec 57)
  /-- CBATCH_CDONE_WRITE (R58). -/
  | cbatchCdoneWrite (v : Word)
  /-- PREQ_WRITE (R251). -/
  | preqWrite (sid : Nat) (v : Word)
  /-- DMAP_WRITE (R13). -/
  | dmapWrite (v : Word)
  /-- LOOP_REGISTER_WRITE (R357). -/
  | loopRegisterWrite (csr : BitVec 12) (v : Word)
  /-- CSR_WRITE (R56). -/
  | csrWrite (csr : BitVec 12) (v : Word)
  /-- INTERRUPT_ENTRY (R255). -/
  | interruptEntry (sid : Nat)
  /-- SAFE_POINT_OVERDUE (R255). -/
  | safePointOverdue (sid : Nat)
  /-- SLICE_INSTANT (R254). -/
  | sliceInstant (sid : Nat)
  /-- KERNEL_TIMER (R254). -/
  | kernelTimer (sid : Nat)
  /-- PARK_EXPIRY (R409). -/
  | parkExpiry (sid : Nat)
  /-- FOLLOW_TIMEOUT (R40). -/
  | followTimeout (sid : Nat)
  /-- DISPATCH_PLACE (R27). -/
  | dispatchPlace (lid : Word) (choice : List Nat)
  /-- TEAM_START (R27). -/
  | teamStart (tid : Nat)
  /-- DEPENDENCE_REJECT (R28). -/
  | dependenceReject (lid : Word)
  /-- TRAVELLER_ARRIVAL (R37). -/
  | travellerArrival (p : Packet) (owner sid tries : Nat) (crc : BitVec 32)
  /-- TRAVELLER_RETRY (R37). -/
  | travellerRetry (p : Packet) (owner sid tries due : Nat)
  /-- RUN_QUEUE_RELEASE (R37). -/
  | runQueueRelease (core : Nat)
  /-- HOME_PACKET_ARRIVAL (R38). -/
  | homePacketArrival (f : Framed)
  /-- REMOTE_UPDATE (R39). -/
  | remoteUpdate (p : Packet) (owner : Nat)
  /-- SPAWN_EXIT_REPORT (R41). -/
  | spawnExitReport (tid logical : Nat) (flags : BitVec 6)
  /-- STORE_AT_OWNER (R183). -/
  | storeAtOwner (r : StoreReq)
  /-- LOAD_AT_OWNER (R122). -/
  | loadAtOwner (r : LoadReq)
  /-- ATOMIC_AT_OWNER (R185). -/
  | atomicAtOwner (r : AtomReq)
  /-- ATOMIC_REPLY (R187). -/
  | atomicReply (r : AtomReq) (old : Word) (flags : BitVec 6)
  /-- PRESENCE_REQUEST (R133). -/
  | presenceRequest (r : PresReq)
  /-- PRESENCE_RETRY (R133). -/
  | presenceRetry (r : PresReq) (due : Nat)
  /-- PAGE_TABLE_WALK (R138). -/
  | pageTableWalk (sid : Nat) (va : Word) (dir : Dir)
  /-- VAULT_CACHE_FILL (R130). -/
  | vaultCacheFill (cluster line : Nat)
  /-- FETCH_LINE_ARRIVAL (R229). -/
  | fetchLineArrival (chan asid line : Nat)
  /-- COPY_BURST_DELIVER (R153). -/
  | copyBurstDeliver (core ch : Nat)
  /-- STREAM_READ_AHEAD (R152). -/
  | streamReadAhead (sid q : Nat)
  /-- STREAM_ELEMENT_WRITE (R152). -/
  | streamElementWrite (sid q : Nat)
  /-- KSF_IMAGE_FETCH (R234). -/
  | ksfImageFetch (chan tid slot : Nat)
  /-- KSF_STREAM_UNIT (R236). -/
  | ksfStreamUnit (core ch : Nat)
  /-- MESSAGE_ARRIVAL (R149). -/
  | messageArrival (tid core hole : Nat) (d : Delivery)
  /-- BARRIER_ROOT_REPORT (R161). -/
  | barrierRootReport (tid gen cluster b : Nat) (leaf : Option Nat)
  /-- BARRIER_PHASE_FLIP (R161). -/
  | barrierPhaseFlip (tid gen cluster b : Nat)
  /-- DONE_MESSAGE (R42). -/
  | doneMessage (tid logical : Nat) (w : Word)
  /-- TILE_COMMAND_START (R202). -/
  | tileCommandStart (cluster eng : Nat)
  /-- TILE_COMMAND_COMPLETE (R389). -/
  | tileCommandComplete (cluster eng ticket : Nat)
  /-- DOMAIN_ABORT (R278). -/
  | domainAbort (sid depth reason : Nat)
  /-- DOMAIN_RESTORE (R278). -/
  | domainRestore (sid : Nat)
  /-- REMOTE_ACCESS_ARRIVAL (R293). -/
  | remoteAccessArrival (r : RemReq)
  /-- REMOTE_REPLY_ARRIVAL (R295). -/
  | remoteReplyArrival (r : RemReq) (value : VWord) (poisoned : Bool)
  /-- REMOTE_REJECT_REPORT (R296). -/
  | remoteRejectReport (r : RemReq)
  /-- MULTICAST_MEMBER_REPORT (R297). -/
  | multicastMemberReport (sid member : Nat) (ok : Bool)
  /-- PACKET_ROUTE (R20). -/
  | packetRoute (h : Hop) (level : Nat) (again : Bool) (e : Event)
  /-- FLIT_ARRIVAL (R302). -/
  | flitArrival (link : Nat) (f : Flit)
  /-- FLIT_RETRY_REQUEST (R302). -/
  | flitRetryRequest (link lseq : Nat)
  /-- FLIT_ACKNOWLEDGE (R302). -/
  | flitAcknowledge (link : Nat) (a : FlitAck)
  /-- REKEY_THRESHOLD (R301). -/
  | rekeyThreshold (r : Rekey)
  /-- KEY_INSTALL (R301). -/
  | keyInstall (link : Nat) (k : KeyExchange)
  /-- DOOR_WRITE (R305). -/
  | doorWrite (d : DoorSet)
  /-- H2D_ACCEPT (R305). -/
  | h2dAccept (m : VWord)
  /-- PROD_WRITE (R305). -/
  | prodWrite (v : BitVec 32)
  /-- D2H_SEND (R305). -/
  | d2hSend
  /-- SEEN_WRITE (R306). -/
  | seenWrite (v : BitVec 32) (restart : Bool)
  /-- MODULE_RESET (R306). -/
  | moduleReset
  /-- STEWARD_DIE_TEST (R10). -/
  | stewardDieTest (pass : BitVec 9)
  /-- BOOT_VERIFY (R307). -/
  | bootVerify (cfg : BootCfg)
  /-- KERNEL_LAUNCH (R252). -/
  | kernelLaunch (record : Word)
  /-- ATTESTATION_REQUEST (R309). -/
  | attestationRequest (nonce : VWord) (dst : Word)
  /-- STEWARD_NOTICE (R253). -/
  | stewardNotice (n : Notice)
  /-- DIE_MAP_CHANGE (R14). -/
  | dieMapChange (die phase pkg pdie : Nat)
  /-- HUB_FAILOVER (R11). -/
  | hubFailover
  /-- THERMAL_ALARM (R19). -/
  | thermalAlarm (scope unit temp : Nat)
  /-- THERMAL_SHUTDOWN (R19). -/
  | thermalShutdown (temp : Nat)
  /-- THERMAL_CLEAR (R246). -/
  | thermalClear (stack temp : Nat)
  /-- HALF_WIDTH_CHANGE (R246). -/
  | halfWidthChange (chan : Nat)
  /-- FULL_WIDTH_RETURN (R246). -/
  | fullWidthReturn (chan : Nat)
  /-- LANE_FAULT (R246). -/
  | laneFault (link : Bool) (unit : Nat)
  /-- POWER_BUDGET_EXCEEDED (R18). -/
  | powerBudgetExceeded
  /-- PTP_OFFSET_EXCEEDED (R17). -/
  | ptpOffsetExceeded (hub : Nat) (offset : Int)
  /-- ROW_PRECHARGE (R245). -/
  | rowPrecharge (chan row : Nat) (parityOk : Bool)
  /-- NEIGHBOUR_REFRESH (R245). -/
  | neighbourRefresh (chan row : Nat)
  /-- PAGE_ROW_STEP (R242). -/
  | pageRowStep (sid dst : Nat) (src : Option Nat) (rl : Bool) (k : Nat)
  /-- SCRUB_LINE_STEP (R434). -/
  | scrubLineStep (sid : Nat) (va : Word) (left : Nat)
  /-- BACKGROUND_SCRUB (R281). -/
  | backgroundScrub (pa : Nat) (finder : Option Nat)
  /-- UNCORRECTABLE_ERROR (R281). -/
  | uncorrectableError (pa : Nat)
  /-- UNIT_FAILURE (R281). -/
  | unitFailure (cls unit : Nat)
  /-- DIAGNOSIS_VOTE (R283). -/
  | diagnosisVote (a b : Option Bool) (peer : Bool) (cls unit : Nat)
  /-- REPLACEMENT (R31). -/
  | replacement (tid logical phys : Nat) (readable : Bool)
  /-- STATE_LOSS_SEQUENCE (R282). -/
  | stateLossSequence (tid : Nat)
  /-- PACKAGE_LOSS (R281). -/
  | packageLoss (pkg tid : Nat)
  /-- REMAP_START (R243). -/
  | remapStart (version : Nat)
  /-- REMAP_PAGE_MOVE (R243). -/
  | remapPageMove (page : Option Nat)
  /-- REMAP_END (R243). -/
  | remapEnd
  /-- CHECKPOINT_UNIT_COPY (R285). -/
  | checkpointUnitCopy (tid : Nat) (unit : Option Nat)
  /-- CHECKPOINT_COMMIT (R285). -/
  | checkpointCommit (tid reason : Nat)
  /-- TRAVELLER_SAVE (R263). -/
  | travellerSave (tid sid : Nat)
  /-- PORTER_QUIESCE (R263). -/
  | porterQuiesce (tid core : Nat)
  /-- ARRAY_QUIESCE (R263). -/
  | arrayQuiesce (tid cluster : Nat)
  /-- SAVE_COMPLETE (R263). -/
  | saveComplete (tid : Nat)
  /-- TEAM_RESUME (R264). -/
  | teamResume (lid : Word) (choice : List Nat)
  /-- PTP_OFFSET_RECOVERED (R17). -/
  | ptpOffsetRecovered (o : PtpOffset)
  /-- POWER_DRAW_WITHIN_BUDGET (R18). -/
  | powerDrawWithinBudget
  /-- LANE_FAULT_CLEARED (R246). -/
  | laneFaultCleared (chan : Nat)
  /-- REMOTE_STORE_ACKNOWLEDGE (R295). -/
  | remoteStoreAcknowledge (r : RemReq)
  /-- CLUSTER_SCRUB_COMPLETE (R42). -/
  | clusterScrubComplete (cluster : Nat)
deriving DecidableEq, Repr

end Sys2Proof
end

