-- ==== Sys2Proof/WellFormed.lean ====
section
/-! DEFINITION. Which terms of Instr are instructions of the Tihild: the checks that decoding makes beside the places
of the fields (spec 04 R86, R89, R91; 22 R385; 24 R429, R449), and the shape of what a device event carries. -/

namespace Sys2Proof

/-- f32, bf16 and fp16: the types of most floating operations (R91). -/
def LaneTy.isFloat : LaneTy → Bool
  | .f32 | .bf16 | .fp16 => true
  | _ => false

/-- The four integer types (R91). -/
def LaneTy.isInt : LaneTy → Bool
  | .i32 | .i16 | .i8 | .u8 => true
  | _ => false

/-- The floating types and c16 (R91: VADD, VSUB, VNEG, VREDS). -/
def LaneTy.isFloatC (t : LaneTy) : Bool := t.isFloat || t == .c16

/-- An atomic with `.nr` has no acquire and, but for AMCAS, no destination (R86). -/
def wfAtomic (rd : XReg) (nr aq : Bool) : Bool := !(nr && aq) && (!nr || rd == 0)

/-- The header of a command that is not spectral has zero domain tags (R95). -/
def TileHdr.plain (h : TileHdr) : Bool := h.din == 0 && h.dout == 0

/-- Tag 1 or 2, the two frequency tags (R94). -/
def isFreqTag (t : BitVec 2) : Bool := t == 1 || t == 2

/-- The shape of a transform-unit command: LB below 3 and no P (R214, R429). -/
def Shape.wf (s : Shape) : Bool := s.lb != 3 && s.p1 == 0

/-- A buffer or memory operand of a tinker command (R449): with BUF set an offset of 16 bits, with BUF clear an
address of 57 bits. -/
def wfTinkOperand (w : Word) : Bool :=
  if w.getLsbD 63 then w.extractLsb' 16 47 == 0 else w.extractLsb' 57 6 == 0

/-- k entries of a TTOPK block fit its block of 2^(LB+5) elements (R449). -/
def wfTopk (lb : BitVec 3) (kb : KBlk) : Bool := kb.k1.toNat + 1 ≤ 2 ^ (lb.toNat + 5)

/-- The access sizes of a store (R124). -/
def wfSize (n : Nat) : Bool := n == 1 || n == 2 || n == 4 || n == 8 || n == 64

/-- A packet carries a0 to a7 (R35). -/
def Packet.wf (p : Packet) : Bool := p.a.length == 8 && decide (p.kind ≤ 4)

/-- The checks of decoding that a constructor's fields leave open, and the shape of an event's data. -/
def Instr.wf : Instr → Bool
  | .amadd rd _ _ nr aq _ | .amand rd _ _ nr aq _ | .amor rd _ _ nr aq _ | .amxor rd _ _ nr aq _
  | .ammax rd _ _ nr aq _ | .ammin rd _ _ nr aq _ | .amswap rd _ _ nr aq _
  | .amfadd rd _ _ nr aq _ | .amfmax rd _ _ nr aq _ => wfAtomic rd nr aq
  | .amcas _ _ _ nr aq _ => !(nr && aq)
  | .loop _ n => n != 0
  | .scopef kind scope => kind != 3 && decide (scope.toNat < 6)
  | .vadd _ ty _ _ _ | .vsub _ ty _ _ _ | .vneg _ ty _ _ | .vreds _ ty _ _ => ty.isFloatC
  | .vmul _ ty _ _ _ | .vfma _ ty _ _ _ | .vfms _ ty _ _ _ | .vmax _ ty _ _ _ | .vmin _ ty _ _ _
  | .vabs _ ty _ _ | .vcmpEq _ ty _ _ _ | .vcmpLt _ ty _ _ _ | .vcmpLe _ ty _ _ _ | .vcmpNe _ ty _ _ _
  | .vrcpe _ ty _ _ | .vrsqe _ ty _ _ | .vexp2e _ ty _ _ | .vredm _ ty _ _ => ty.isFloat
  | .vcvt _ ty src _ _ => ty != src && ty != .c16 && src != .c16
  | .viadd _ ty _ _ _ | .visub _ ty _ _ _ | .vimul _ ty _ _ _ | .vand _ ty _ _ _ | .vor _ ty _ _ _
  | .vxor _ ty _ _ _ | .vshl _ ty _ _ _ | .vshr _ ty _ _ _ | .vsra _ ty _ _ _ | .vimax _ ty _ _ _
  | .vimin _ ty _ _ _ | .vicmpEq _ ty _ _ _ | .vicmpLt _ ty _ _ _ | .vicmpLe _ ty _ _ _
  | .vicmpNe _ ty _ _ _ => ty.isInt
  | .mma h _ _ bform _ _ _ _ => h.plain && bform != 3
  | .mvb h _ _ _ _ => h.plain
  | .mldv h _ xd _ xexp _ => h.plain && (!xd || xexp == 0)
  | .mwld h form _ _ => h.plain && form != 3
  | .mzero h _ => h.plain
  | .mstc h _ fold ovr sfmt foldw _ _ =>
      h.plain && (ovr || sfmt == 0) && sfmt != 7 && (fold || foldw == 0)
  | .mtrn h _ _ _ _ => h.plain
  | .mperm h _ _ _ _ _ _ => h.plain
  | .mrsum h _ _ seg _ _ _ => h.plain && seg != 7
  | .sfft h shp _ _ => shp.wf && h.din == 0 && h.dout == 1
  | .sifft h shp _ _ => shp.wf && isFreqTag h.din && h.dout == 0
  | .scmm h _ shp _ _ _ => shp.lb != 3 && isFreqTag h.din && h.dout == h.din
  | .stagMode0 h _ shp _ _ => shp.wf && h.din != 3 && h.dout == h.din
  | .stagMode1 h shp _ _ _ => shp.wf && h.din != 3 && h.dout == h.din
  | .stagMode2 h shp _ _ => shp.wf && isFreqTag h.din && isFreqTag h.dout && h.dout != h.din
  | .ttopk h lgb res kb x r out =>
      h.plain && wfTopk lgb kb && wfTinkOperand x && wfTinkOperand out && (if res then wfTinkOperand r else r == 0)
  | .tspadd h _ pairs _ vec => h.plain && wfTinkOperand pairs && wfTinkOperand vec
  | .tpack h _ _ src dst | .tunpk h _ _ src dst => h.plain && wfTinkOperand src && wfTinkOperand dst
  | .tlink h _ _ => h.plain
  | .travellerArrival p _ _ _ _ | .travellerRetry p _ _ _ _ | .homePacketArrival ⟨p, _⟩ | .remoteUpdate p _ => p.wf
  | .storeAtOwner r => wfSize r.size
  | .loadAtOwner r => wfSize r.size
  | .remoteAccessArrival r | .remoteReplyArrival r _ _ | .remoteRejectReport r | .remoteStoreAcknowledge r =>
      wfSize r.size
  | _ => true

end Sys2Proof
end

