-- ==== Sys2Proof/Decode.lean ====
section
/-! DEFINITION. From bits to instructions and back: instruction words (spec 04 R77 to R93) and tile command words
(spec 04 R94, R95; 22 R385; 24 R429, R449). Decoding is total and refuses by name; encoding writes the same tables. -/

namespace Sys2Proof

/-- Why a word is no instruction; each takes cause 2 (R77, R78). -/
inductive DecodeError where
  | notWord        -- bits [1:0] are not 0b11 (R77)
  | majorOpcode    -- bits [6:0] are not accepted (R77)
  | unassigned     -- a funct value that is not assigned (R78, R80, R90 to R92)
  | reservedBit    -- a set bit or register field that must be zero (R78, R82)
  | badType        -- a type the op does not take (R91)
  | illFormed      -- one of the checks of WellFormed (R86, R89, R91)
deriving DecidableEq, Repr

/-! ### Fields of an instruction word (R81, R83, R84) -/

/-- The rd field, bits [11:7]. -/
def fRd (w : BitVec 32) : BitVec 5 := w.extractLsb' 7 5
/-- funct3, bits [14:12]. -/
def fF3 (w : BitVec 32) : BitVec 3 := w.extractLsb' 12 3
/-- The rs1 field, bits [19:15]. -/
def fRs1 (w : BitVec 32) : BitVec 5 := w.extractLsb' 15 5
/-- The rs2 field, bits [24:20]. -/
def fRs2 (w : BitVec 32) : BitVec 5 := w.extractLsb' 20 5
/-- funct7, bits [31:25]. -/
def fF7 (w : BitVec 32) : BitVec 7 := w.extractLsb' 25 7
/-- The 12-bit immediate of the I and DI formats, bits [31:20]. -/
def fImm (w : BitVec 32) : BitVec 12 := w.extractLsb' 20 12
/-- The 12-bit immediate of a store. -/
def fImmS (w : BitVec 32) : BitVec 12 := fF7 w ++ fRd w
/-- Offset bits [12:1] of a branch and of the DB format (R84). -/
def fOffB (w : BitVec 32) : BitVec 12 :=
  w.extractLsb' 31 1 ++ w.extractLsb' 7 1 ++ w.extractLsb' 25 6 ++ w.extractLsb' 8 4
/-- Offset bits [20:1] of JAL. -/
def fOffJ (w : BitVec 32) : BitVec 20 :=
  w.extractLsb' 31 1 ++ w.extractLsb' 12 8 ++ w.extractLsb' 20 1 ++ w.extractLsb' 21 10
/-- The governing predicate of the DV format, bits 24, 19 and 11 (R83). -/
def fPred (w : BitVec 32) : BitVec 3 := w.extractLsb' 24 1 ++ w.extractLsb' 19 1 ++ w.extractLsb' 11 1
/-- The lane type of the DV format, bits [14:12] (R83). -/
def fTy (w : BitVec 32) : LaneTy := LaneTy.ofCode (w.extractLsb' 12 3)
/-- vd of the DV format, bits [10:7]. -/
def fVd (w : BitVec 32) : BitVec 4 := w.extractLsb' 7 4
/-- vs1 of the DV format, bits [18:15]. -/
def fVs1 (w : BitVec 32) : BitVec 4 := w.extractLsb' 15 4
/-- vs2 of the DV format, bits [23:20]. -/
def fVs2 (w : BitVec 32) : BitVec 4 := w.extractLsb' 20 4

/-- An unused 5-bit field is zero (R82). -/
def zero5 (v : BitVec 5) : Except DecodeError Unit := if v = 0 then .ok () else .error .reservedBit
/-- An unused 4-bit field is zero (R91). -/
def zero4 (v : BitVec 4) : Except DecodeError Unit := if v = 0 then .ok () else .error .reservedBit
/-- A v register in a 5-bit field: bit 4 is zero (R82). -/
def asV (v : BitVec 5) : Except DecodeError (BitVec 4) :=
  if v.getLsbD 4 then .error .reservedBit else .ok (v.extractLsb' 0 4)
/-- A p or queue register, or a barrier number, in a 5-bit field: bits [4:3] are zero (R82, R85, R88). -/
def asP (v : BitVec 5) : Except DecodeError (BitVec 3) :=
  if v.extractLsb' 3 2 = 0 then .ok (v.extractLsb' 0 3) else .error .reservedBit
/-- A p register or a type in a 4-bit field of the DV format: bit 3 is zero (R91). -/
def asP4 (v : BitVec 4) : Except DecodeError (BitVec 3) :=
  if v.getLsbD 3 then .error .reservedBit else .ok (v.extractLsb' 0 3)
/-- The byte-count barrier in the rd field of a copy (R87). -/
def asBc (v : BitVec 5) : Except DecodeError (Option (BitVec 3)) :=
  if v = 0 then .ok none
  else if v.getLsbD 4 && !v.getLsbD 0 then .ok (some (v.extractLsb' 1 3))
  else .error .reservedBit

/-! ### Decoding an instruction word -/

/-- Words of RV64I loads (R382). -/
def decLoad (w : BitVec 32) : Except DecodeError Instr :=
  match (fF3 w).toNat with
  | 0 => .ok (.lb (fRd w) (fRs1 w) (fImm w))
  | 1 => .ok (.lh (fRd w) (fRs1 w) (fImm w))
  | 2 => .ok (.lw (fRd w) (fRs1 w) (fImm w))
  | 3 => .ok (.ld (fRd w) (fRs1 w) (fImm w))
  | 4 => .ok (.lbu (fRd w) (fRs1 w) (fImm w))
  | 5 => .ok (.lhu (fRd w) (fRs1 w) (fImm w))
  | 6 => .ok (.lwu (fRd w) (fRs1 w) (fImm w))
  | _ => .error .unassigned

/-- Words of custom-0, memory side (R85 to R87). -/
def decCustom0 (w : BitVec 32) : Except DecodeError Instr :=
  match (fF3 w).toNat with
  | 0 =>
    match (fF7 w).toNat with
    | 0 => do zero5 (fRs2 w); pure (.ldfk (fRd w) (fRs1 w))
    | 1 => do zero5 (fRs2 w); pure (.ldfe (fRd w) (fRs1 w))
    | 2 => do zero5 (fRd w); pure (.stef (fRs2 w) (fRs1 w))
    | 3 => do zero5 (fRd w); pure (.stfl (fRs2 w) (fRs1 w))
    | 4 => do zero5 (fRs2 w); pure (.feget (fRd w) (fRs1 w))
    | 5 => do zero5 (fRd w); pure (.feput (fRs2 w) (fRs1 w))
    | _ => .error .unassigned
  | 1 =>
    match (fF7 w).toNat with
    | 0 => do zero5 (fRs2 w); pure (.rld (fRd w) (fRs1 w))
    | 1 => do zero5 (fRs2 w); let vd ← asV (fRd w); pure (.rldv vd (fRs1 w))
    | 2 => do zero5 (fRd w); pure (.rst (fRs2 w) (fRs1 w))
    | 3 => do let vs2 ← asV (fRs2 w); zero5 (fRd w); pure (.rstv vs2 (fRs1 w))
    | 4 => do zero5 (fRd w); pure (.mcst (fRs2 w) (fRs1 w))
    | 5 => do let vs2 ← asV (fRs2 w); zero5 (fRd w); pure (.mcstv vs2 (fRs1 w))
    | _ => .error .unassigned
  | 2 =>
    match (w.extractLsb' 28 4).toNat with
    | 0 => .ok (.amadd (fRd w) (fRs2 w) (fRs1 w) (w.getLsbD 27) (w.getLsbD 26) (w.getLsbD 25))
    | 1 => .ok (.amand (fRd w) (fRs2 w) (fRs1 w) (w.getLsbD 27) (w.getLsbD 26) (w.getLsbD 25))
    | 2 => .ok (.amor (fRd w) (fRs2 w) (fRs1 w) (w.getLsbD 27) (w.getLsbD 26) (w.getLsbD 25))
    | 3 => .ok (.amxor (fRd w) (fRs2 w) (fRs1 w) (w.getLsbD 27) (w.getLsbD 26) (w.getLsbD 25))
    | 4 => .ok (.ammax (fRd w) (fRs2 w) (fRs1 w) (w.getLsbD 27) (w.getLsbD 26) (w.getLsbD 25))
    | 5 => .ok (.ammin (fRd w) (fRs2 w) (fRs1 w) (w.getLsbD 27) (w.getLsbD 26) (w.getLsbD 25))
    | 6 => .ok (.amswap (fRd w) (fRs2 w) (fRs1 w) (w.getLsbD 27) (w.getLsbD 26) (w.getLsbD 25))
    | 7 => .ok (.amcas (fRd w) (fRs2 w) (fRs1 w) (w.getLsbD 27) (w.getLsbD 26) (w.getLsbD 25))
    | 8 => .ok (.amfadd (fRd w) (fRs2 w) (fRs1 w) (w.getLsbD 27) (w.getLsbD 26) (w.getLsbD 25))
    | 9 => .ok (.amfmax (fRd w) (fRs2 w) (fRs1 w) (w.getLsbD 27) (w.getLsbD 26) (w.getLsbD 25))
    | _ => .error .unassigned
  | 3 => do let bc ← asBc (fRd w); pure (.cpy (w.extractLsb' 25 2) bc (fRs1 w) (fRs2 w) (w.extractLsb' 27 5))
  | 4 => do let bc ← asBc (fRd w); pure (.cpy2d (w.extractLsb' 25 2) bc (fRs1 w) (fRs2 w) (w.extractLsb' 27 5))
  | 5 => do let bc ← asBc (fRd w); pure (.cpyg (w.extractLsb' 25 2) bc (fRs1 w) (fRs2 w) (w.extractLsb' 27 5))
  | 6 => do let bc ← asBc (fRd w); pure (.cpys (w.extractLsb' 25 2) bc (fRs1 w) (fRs2 w) (w.extractLsb' 27 5))
  | 7 =>
    match (fF7 w).toNat with
    | 0 => do zero5 (fRs2 w); zero5 (fRs1 w); pure (.cseal (fRd w))
    | 1 => do zero5 (fRs1 w); zero5 (fRd w); pure (.cwait (fRs2 w))
    | 3 => do let id ← asP (fRs2 w); zero5 (fRd w); pure (.bcarm id (fRs1 w))
    | 4 => do let id ← asP (fRs2 w); zero5 (fRs1 w); zero5 (fRd w); pure (.bcwait id)
    | 16 => do zero5 (fRs2 w); zero5 (fRd w); pure (.pgzero (fRs1 w))
    | 17 => do zero5 (fRd w); pure (.pgcopy (fRs1 w) (fRs2 w))
    | _ => .error .unassigned
  | _ => .error .unassigned

/-- Words of FENCE and FENCE.I (R80). -/
def decMiscMem (w : BitVec 32) : Except DecodeError Instr :=
  match (fF3 w).toNat with
  | 0 => .ok (.fence (fRd w) (fRs1 w) (fImm w))
  | 1 => .ok (.fenceI (fRd w) (fRs1 w) (fImm w))
  | _ => .error .unassigned

/-- Words of immediate ALU operations (R80). -/
def decOpImm (w : BitVec 32) : Except DecodeError Instr :=
  match (fF3 w).toNat with
  | 0 => .ok (.addi (fRd w) (fRs1 w) (fImm w))
  | 1 =>
    match (w.extractLsb' 26 6).toNat with
    | 0 => .ok (.slli (fRd w) (fRs1 w) (w.extractLsb' 20 6))
    | _ => .error .unassigned
  | 2 => .ok (.slti (fRd w) (fRs1 w) (fImm w))
  | 3 => .ok (.sltiu (fRd w) (fRs1 w) (fImm w))
  | 4 => .ok (.xori (fRd w) (fRs1 w) (fImm w))
  | 5 =>
    match (w.extractLsb' 26 6).toNat with
    | 0 => .ok (.srli (fRd w) (fRs1 w) (w.extractLsb' 20 6))
    | 16 => .ok (.srai (fRd w) (fRs1 w) (w.extractLsb' 20 6))
    | _ => .error .unassigned
  | 6 => .ok (.ori (fRd w) (fRs1 w) (fImm w))
  | 7 => .ok (.andi (fRd w) (fRs1 w) (fImm w))
  | _ => .error .unassigned

/-- Words of AUIPC (R333). -/
def decAuipc (w : BitVec 32) : Except DecodeError Instr :=
  .ok (.auipc (fRd w) (w.extractLsb' 12 20))

/-- Words of W immediate operations (R80). -/
def decOpImm32 (w : BitVec 32) : Except DecodeError Instr :=
  match (fF3 w).toNat with
  | 0 => .ok (.addiw (fRd w) (fRs1 w) (fImm w))
  | 1 =>
    match (fF7 w).toNat with
    | 0 => .ok (.slliw (fRd w) (fRs1 w) (fRs2 w))
    | _ => .error .unassigned
  | 5 =>
    match (fF7 w).toNat with
    | 0 => .ok (.srliw (fRd w) (fRs1 w) (fRs2 w))
    | 32 => .ok (.sraiw (fRd w) (fRs1 w) (fRs2 w))
    | _ => .error .unassigned
  | _ => .error .unassigned

/-- Words of stores (R427). -/
def decStore (w : BitVec 32) : Except DecodeError Instr :=
  match (fF3 w).toNat with
  | 0 => .ok (.sb (fRs2 w) (fRs1 w) (fImmS w))
  | 1 => .ok (.sh (fRs2 w) (fRs1 w) (fImmS w))
  | 2 => .ok (.sw (fRs2 w) (fRs1 w) (fImmS w))
  | 3 => .ok (.sd (fRs2 w) (fRs1 w) (fImmS w))
  | _ => .error .unassigned

/-- Words of custom-1, control (R88 to R90). -/
def decCustom1 (w : BitVec 32) : Except DecodeError Instr :=
  match (fF3 w).toNat with
  | 0 =>
    match (fF7 w).toNat with
    | 0 => do zero5 (fRs2 w); zero5 (fRs1 w); zero5 (fRd w); pure (.exit)
    | 1 => do zero5 (fRs2 w); zero5 (fRs1 w); zero5 (fRd w); pure (.yield)
    | 2 => do zero5 (fRs2 w); zero5 (fRd w); pure (.park (fRs1 w))
    | 3 => do zero5 (fRs2 w); zero5 (fRs1 w); zero5 (fRd w); pure (.follow)
    | 4 => do zero5 (fRs2 w); zero5 (fRd w); pure (.migr (fRs1 w))
    | 5 => do zero5 (fRs2 w); zero5 (fRs1 w); zero5 (fRd w); pure (.home)
    | 6 => do zero5 (fRd w); pure (.spawn (fRs1 w) (fRs2 w))
    | 8 => do zero5 (fRs2 w); zero5 (fRs1 w); zero5 (fRd w); pure (.step)
    | 9 => do zero5 (fRs2 w); zero5 (fRs1 w); zero5 (fRd w); pure (.ckpt)
    | 7 => if fRd w = 0 then .ok (.deleg (fRs1 w) (fRs2 w)) else if (fRd w).getLsbD 4 then .ok (.delegReply (fRs1 w) (fRs2 w) ((fRd w).extractLsb' 0 4)) else .error .reservedBit
    | _ => .error .unassigned
  | 1 => do zero5 (fRs1 w); zero5 (fRd w); pure (.safept (fImm w))
  | 2 => do zero5 (fRd w); pure (.loop (fRs1 w) (fImm w))
  | 3 =>
    match (fF7 w).toNat with
    | 0 => do zero5 (fRs2 w); let q ← asP (fRs1 w); pure (.qrd (fRd w) q)
    | 1 => do let q ← asP (fRs1 w); zero5 (fRd w); pure (.qwr q (fRs2 w))
    | 2 => do zero5 (fRs2 w); let q ← asP (fRs1 w); let vd ← asV (fRd w); pure (.qrdv vd q)
    | 3 => do let vs2 ← asV (fRs2 w); let q ← asP (fRs1 w); zero5 (fRd w); pure (.qwrv q vs2)
    | 4 => do zero5 (fRs2 w); let q ← asP (fRs1 w); pure (.qtst (fRd w) q)
    | 5 => do zero5 (fRs2 w); pure (.qwait (fRd w) (fRs1 w))
    | 6 => do let q ← asP (fRs1 w); zero5 (fRd w); pure (.qbind q (fRs2 w))
    | 7 => do zero5 (fRs2 w); let q ← asP (fRs1 w); zero5 (fRd w); pure (.qfree q)
    | _ => .error .unassigned
  | 4 => do zero5 (fRs2 w); let q ← asP (fRs1 w); pure (.qbr q (fOffB w))
  | 5 =>
    match (fF7 w).toNat with
    | 0 => do let b ← asP (fRs2 w); zero5 (fRd w); pure (.barinit b (fRs1 w))
    | 1 => do let b ← asP (fRs2 w); zero5 (fRs1 w); zero5 (fRd w); pure (.bararv b)
    | 2 => do let b ← asP (fRs2 w); zero5 (fRs1 w); zero5 (fRd w); pure (.barwt b)
    | 3 => do let b ← asP (fRs2 w); zero5 (fRs1 w); zero5 (fRd w); pure (.barsyn b)
    | 4 => do let b ← asP (fRs2 w); zero5 (fRs1 w); pure (.barq (fRd w) b)
    | 8 => do zero5 (fRs2 w); zero5 (fRd w); pure (.cdopen (fRs1 w))
    | 9 => if fRd w = 0 then .ok (.cdpresCopy (fRs1 w) (fRs2 w)) else if fRd w = 1 then .ok (.cdpresRef (fRs1 w) (fRs2 w)) else .error .reservedBit
    | 10 => do zero5 (fRs2 w); zero5 (fRs1 w); zero5 (fRd w); pure (.cdclose)
    | 11 => do zero5 (fRs2 w); zero5 (fRs1 w); zero5 (fRd w); pure (.cdabort)
    | 12 => do zero5 (fRs2 w); zero5 (fRs1 w); pure (.cdstat (fRd w))
    | 16 => do zero5 (fRs1 w); zero5 (fRd w); pure (.scopef ((fRs2 w).extractLsb' 3 2) ((fRs2 w).extractLsb' 0 3))
    | _ => .error .unassigned
  | 6 =>
    match (fF7 w).toNat with
    | 0 => do let vs2 ← asV (fRs2 w); let q ← asP (fRs1 w); zero5 (fRd w); pure (.enq q vs2)
    | 1 => do zero5 (fRs2 w); zero5 (fRs1 w); zero5 (fRd w); pure (.mlease)
    | 2 => do zero5 (fRs2 w); zero5 (fRs1 w); zero5 (fRd w); pure (.mrel)
    | 3 => do zero5 (fRd w); pure (.efence (fRs1 w) (fRs2 w))
    | 4 => do zero5 (fRd w); pure (.msend (fRs1 w) (fRs2 w))
    | 5 => do let vs2 ← asV (fRs2 w); zero5 (fRd w); pure (.msendv (fRs1 w) vs2)
    | 6 => do zero5 (fRd w); pure (.ksfbind (fRs1 w) (fRs2 w))
    | 7 => do zero5 (fRs2 w); zero5 (fRd w); pure (.eres (fRs1 w))
    | _ => .error .unassigned
  | 7 =>
    match (fF7 w).toNat with
    | 0 => do zero5 (fRs2 w); zero5 (fRs1 w); zero5 (fRd w); pure (.kret)
    | 1 => do zero5 (fRd w); pure (.tlbinv (fRs1 w) (fRs2 w))
    | 2 => do zero5 (fRd w); pure (.ctxst (fRs1 w) (fRs2 w))
    | 3 => do zero5 (fRd w); pure (.ctxld (fRs1 w) (fRs2 w))
    | 4 => do zero5 (fRd w); pure (.scrub (fRs1 w) (fRs2 w))
    | 5 => do zero5 (fRs2 w); zero5 (fRd w); pure (.teamstop (fRs1 w))
    | 6 => do zero5 (fRs2 w); zero5 (fRd w); pure (.teamgo (fRs1 w))
    | 7 => do zero5 (fRs2 w); zero5 (fRd w); pure (.ptparm (fRs1 w))
    | 8 => do zero5 (fRd w); pure (.ksfload (fRs1 w) (fRs2 w))
    | _ => .error .unassigned
  | _ => .error .unassigned

/-- Words of register ALU operations (R80). -/
def decOp (w : BitVec 32) : Except DecodeError Instr :=
  match (fF3 w).toNat with
  | 0 =>
    match (fF7 w).toNat with
    | 0 => .ok (.add (fRd w) (fRs1 w) (fRs2 w))
    | 32 => .ok (.sub (fRd w) (fRs1 w) (fRs2 w))
    | 1 => .ok (.mul (fRd w) (fRs1 w) (fRs2 w))
    | _ => .error .unassigned
  | 1 =>
    match (fF7 w).toNat with
    | 0 => .ok (.sll (fRd w) (fRs1 w) (fRs2 w))
    | 1 => .ok (.mulh (fRd w) (fRs1 w) (fRs2 w))
    | _ => .error .unassigned
  | 2 =>
    match (fF7 w).toNat with
    | 0 => .ok (.slt (fRd w) (fRs1 w) (fRs2 w))
    | 1 => .ok (.mulhsu (fRd w) (fRs1 w) (fRs2 w))
    | _ => .error .unassigned
  | 3 =>
    match (fF7 w).toNat with
    | 0 => .ok (.sltu (fRd w) (fRs1 w) (fRs2 w))
    | 1 => .ok (.mulhu (fRd w) (fRs1 w) (fRs2 w))
    | _ => .error .unassigned
  | 4 =>
    match (fF7 w).toNat with
    | 0 => .ok (.xor (fRd w) (fRs1 w) (fRs2 w))
    | 1 => .ok (.div (fRd w) (fRs1 w) (fRs2 w))
    | _ => .error .unassigned
  | 5 =>
    match (fF7 w).toNat with
    | 0 => .ok (.srl (fRd w) (fRs1 w) (fRs2 w))
    | 32 => .ok (.sra (fRd w) (fRs1 w) (fRs2 w))
    | 1 => .ok (.divu (fRd w) (fRs1 w) (fRs2 w))
    | _ => .error .unassigned
  | 6 =>
    match (fF7 w).toNat with
    | 0 => .ok (.or (fRd w) (fRs1 w) (fRs2 w))
    | 1 => .ok (.rem (fRd w) (fRs1 w) (fRs2 w))
    | _ => .error .unassigned
  | 7 =>
    match (fF7 w).toNat with
    | 0 => .ok (.and (fRd w) (fRs1 w) (fRs2 w))
    | 1 => .ok (.remu (fRd w) (fRs1 w) (fRs2 w))
    | _ => .error .unassigned
  | _ => .error .unassigned

/-- Words of LUI (R384). -/
def decLui (w : BitVec 32) : Except DecodeError Instr :=
  .ok (.lui (fRd w) (w.extractLsb' 12 20))

/-- Words of W register operations (R80). -/
def decOp32 (w : BitVec 32) : Except DecodeError Instr :=
  match (fF3 w).toNat with
  | 0 =>
    match (fF7 w).toNat with
    | 0 => .ok (.addw (fRd w) (fRs1 w) (fRs2 w))
    | 32 => .ok (.subw (fRd w) (fRs1 w) (fRs2 w))
    | 1 => .ok (.mulw (fRd w) (fRs1 w) (fRs2 w))
    | _ => .error .unassigned
  | 1 =>
    match (fF7 w).toNat with
    | 0 => .ok (.sllw (fRd w) (fRs1 w) (fRs2 w))
    | _ => .error .unassigned
  | 4 =>
    match (fF7 w).toNat with
    | 1 => .ok (.divw (fRd w) (fRs1 w) (fRs2 w))
    | _ => .error .unassigned
  | 5 =>
    match (fF7 w).toNat with
    | 0 => .ok (.srlw (fRd w) (fRs1 w) (fRs2 w))
    | 32 => .ok (.sraw (fRd w) (fRs1 w) (fRs2 w))
    | 1 => .ok (.divuw (fRd w) (fRs1 w) (fRs2 w))
    | _ => .error .unassigned
  | 6 =>
    match (fF7 w).toNat with
    | 1 => .ok (.remw (fRd w) (fRs1 w) (fRs2 w))
    | _ => .error .unassigned
  | 7 =>
    match (fF7 w).toNat with
    | 1 => .ok (.remuw (fRd w) (fRs1 w) (fRs2 w))
    | _ => .error .unassigned
  | _ => .error .unassigned

/-- Words of branches (R339). -/
def decBranch (w : BitVec 32) : Except DecodeError Instr :=
  match (fF3 w).toNat with
  | 0 => .ok (.beq (fRs1 w) (fRs2 w) (fOffB w))
  | 1 => .ok (.bne (fRs1 w) (fRs2 w) (fOffB w))
  | 4 => .ok (.blt (fRs1 w) (fRs2 w) (fOffB w))
  | 5 => .ok (.bge (fRs1 w) (fRs2 w) (fOffB w))
  | 6 => .ok (.bltu (fRs1 w) (fRs2 w) (fOffB w))
  | 7 => .ok (.bgeu (fRs1 w) (fRs2 w) (fOffB w))
  | _ => .error .unassigned

/-- Words of JALR (R378). -/
def decJalr (w : BitVec 32) : Except DecodeError Instr :=
  match (fF3 w).toNat with
  | 0 => .ok (.jalr (fRd w) (fRs1 w) (fImm w))
  | _ => .error .unassigned

/-- Words of JAL (R378). -/
def decJal (w : BitVec 32) : Except DecodeError Instr :=
  .ok (.jal (fRd w) (fOffJ w))

/-- Words of SYSTEM (R80, R355, R367). -/
def decSystem (w : BitVec 32) : Except DecodeError Instr :=
  match (fF3 w).toNat with
  | 0 => do zero5 (fRd w); zero5 (fRs1 w); if fImm w = 0 then pure .ecall else if fImm w = 1 then pure .ebreak else .error .unassigned
  | 1 => .ok (.csrrw (fRd w) (fImm w) (fRs1 w))
  | 2 => .ok (.csrrs (fRd w) (fImm w) (fRs1 w))
  | 3 => .ok (.csrrc (fRd w) (fImm w) (fRs1 w))
  | 5 => .ok (.csrrwi (fRd w) (fImm w) (fRs1 w))
  | 6 => .ok (.csrrsi (fRd w) (fImm w) (fRs1 w))
  | 7 => .ok (.csrrci (fRd w) (fImm w) (fRs1 w))
  | _ => .error .unassigned

/-- Words of custom-3, vector memory, predicates, bit streams (R92, R93). -/
def decCustom3 (w : BitVec 32) : Except DecodeError Instr :=
  match (fF3 w).toNat with
  | 0 =>
    match (fF7 w).toNat with
    | 0 => do zero5 (fRs2 w); let vd ← asV (fRd w); pure (.vld vd (fRs1 w))
    | 1 => do let vs2 ← asV (fRs2 w); zero5 (fRd w); pure (.vst vs2 (fRs1 w))
    | 2 => .ok (.vlds ((fRd w).getLsbD 4) ((fRd w).extractLsb' 0 4) (fRs1 w) (fRs2 w))
    | 3 => .ok (.vsts ((fRd w).getLsbD 4) ((fRd w).extractLsb' 0 4) (fRs1 w) (fRs2 w))
    | 4 => do let vi ← asV (fRs2 w); pure (.vgath ((fRd w).getLsbD 4) ((fRd w).extractLsb' 0 4) (fRs1 w) vi)
    | 5 => do let vi ← asV (fRs2 w); pure (.vscat ((fRd w).getLsbD 4) ((fRd w).extractLsb' 0 4) (fRs1 w) vi)
    | 6 => do zero5 (fRs2 w); pure (.vbcst ((fRd w).getLsbD 4) ((fRd w).extractLsb' 0 4) (fRs1 w))
    | 7 => .ok (.vmvx ((fRs1 w).getLsbD 4) (fRd w) ((fRs1 w).extractLsb' 0 4) (fRs2 w))
    | 8 => .ok (.vins ((fRd w).getLsbD 4) ((fRd w).extractLsb' 0 4) (fRs1 w) (fRs2 w))
    | 9 => do let vs2 ← asV (fRs2 w); let vs1 ← asV (fRs1 w); let vd ← asV (fRd w); pure (.vshuf vd vs1 vs2)
    | 11 => do zero5 (fRs2 w); pure (.viota ((fRd w).getLsbD 4) ((fRd w).extractLsb' 0 4) (fRs1 w))
    | _ => if (w.extractLsb' 28 4) = 2 then do let vs2 ← asV (fRs2 w); let vs1 ← asV (fRs1 w); pure (.vsel ((fRd w).getLsbD 4) ((fRd w).extractLsb' 0 4) vs1 vs2 (w.extractLsb' 25 3)) else .error .unassigned
  | 1 =>
    match (fF7 w).toNat with
    | 0 => do let pb ← asP (fRs2 w); let pa ← asP (fRs1 w); let pd ← asP (fRd w); pure (.pand pd pa pb)
    | 1 => do let pb ← asP (fRs2 w); let pa ← asP (fRs1 w); let pd ← asP (fRd w); pure (.por pd pa pb)
    | 2 => do let pb ← asP (fRs2 w); let pa ← asP (fRs1 w); let pd ← asP (fRd w); pure (.pxor pd pa pb)
    | 3 => do zero5 (fRs2 w); let pa ← asP (fRs1 w); let pd ← asP (fRd w); pure (.pnot pd pa)
    | 4 => do zero5 (fRs2 w); let pa ← asP (fRs1 w); pure (.pcnt (fRd w) pa)
    | 5 => do zero5 (fRs2 w); let pa ← asP (fRs1 w); pure (.pfirst (fRd w) pa)
    | _ => .error .unassigned
  | 2 =>
    match (fF7 w).toNat with
    | 0 => do zero5 (fRs1 w); pure (.bsget (fRd w) (fRs2 w))
    | 1 => do zero5 (fRd w); pure (.bsput (fRs1 w) (fRs2 w))
    | 2 => do zero5 (fRs1 w); pure (.bspeek (fRd w) (fRs2 w))
    | 3 => do zero5 (fRs2 w); zero5 (fRd w); pure (.bsskip (fRs1 w))
    | 4 => do zero5 (fRs2 w); zero5 (fRs1 w); zero5 (fRd w); pure (.bsflsh)
    | 5 => do zero5 (fRs1 w); zero5 (fRd w); if fRs2 w = 0 then pure .bsalgnRd else if fRs2 w = 1 then pure .bsalgnWr else .error .reservedBit
    | _ => .error .unassigned
  | _ => .error .unassigned

/-- Words of custom-2, vector arithmetic (R91). -/
def decCustom2 (w : BitVec 32) : Except DecodeError Instr :=
  match (fF7 w).toNat with
  | 0 => .ok (.vadd (fPred w) (fTy w) (fVd w) (fVs1 w) (fVs2 w))
  | 1 => .ok (.vsub (fPred w) (fTy w) (fVd w) (fVs1 w) (fVs2 w))
  | 2 => .ok (.vmul (fPred w) (fTy w) (fVd w) (fVs1 w) (fVs2 w))
  | 3 => .ok (.vfma (fPred w) (fTy w) (fVd w) (fVs1 w) (fVs2 w))
  | 4 => .ok (.vfms (fPred w) (fTy w) (fVd w) (fVs1 w) (fVs2 w))
  | 5 => .ok (.vmax (fPred w) (fTy w) (fVd w) (fVs1 w) (fVs2 w))
  | 6 => .ok (.vmin (fPred w) (fTy w) (fVd w) (fVs1 w) (fVs2 w))
  | 7 => do zero4 (fVs2 w); pure (.vabs (fPred w) (fTy w) (fVd w) (fVs1 w))
  | 8 => do zero4 (fVs2 w); pure (.vneg (fPred w) (fTy w) (fVd w) (fVs1 w))
  | 9 => do let pd ← asP4 (fVd w); pure (.vcmpEq (fPred w) (fTy w) pd (fVs1 w) (fVs2 w))
  | 10 => do let pd ← asP4 (fVd w); pure (.vcmpLt (fPred w) (fTy w) pd (fVs1 w) (fVs2 w))
  | 11 => do let pd ← asP4 (fVd w); pure (.vcmpLe (fPred w) (fTy w) pd (fVs1 w) (fVs2 w))
  | 12 => do let pd ← asP4 (fVd w); pure (.vcmpNe (fPred w) (fTy w) pd (fVs1 w) (fVs2 w))
  | 13 => do let s ← asP4 (fVs2 w); pure (.vcvt (fPred w) (fTy w) (LaneTy.ofCode s) (fVd w) (fVs1 w))
  | 14 => do zero4 (fVs2 w); pure (.vrcpe (fPred w) (fTy w) (fVd w) (fVs1 w))
  | 15 => do zero4 (fVs2 w); pure (.vrsqe (fPred w) (fTy w) (fVd w) (fVs1 w))
  | 16 => do zero4 (fVs2 w); pure (.vexp2e (fPred w) (fTy w) (fVd w) (fVs1 w))
  | 17 => do zero4 (fVs2 w); pure (.vreds (fPred w) (fTy w) (fVd w) (fVs1 w))
  | 18 => do zero4 (fVs2 w); pure (.vredm (fPred w) (fTy w) (fVd w) (fVs1 w))
  | 19 => if fTy w = .c16 then .ok (.vcmul (fPred w) (fVd w) (fVs1 w) (fVs2 w)) else .error .badType
  | 32 => .ok (.viadd (fPred w) (fTy w) (fVd w) (fVs1 w) (fVs2 w))
  | 33 => .ok (.visub (fPred w) (fTy w) (fVd w) (fVs1 w) (fVs2 w))
  | 34 => .ok (.vimul (fPred w) (fTy w) (fVd w) (fVs1 w) (fVs2 w))
  | 35 => .ok (.vand (fPred w) (fTy w) (fVd w) (fVs1 w) (fVs2 w))
  | 36 => .ok (.vor (fPred w) (fTy w) (fVd w) (fVs1 w) (fVs2 w))
  | 37 => .ok (.vxor (fPred w) (fTy w) (fVd w) (fVs1 w) (fVs2 w))
  | 38 => .ok (.vshl (fPred w) (fTy w) (fVd w) (fVs1 w) (fVs2 w))
  | 39 => .ok (.vshr (fPred w) (fTy w) (fVd w) (fVs1 w) (fVs2 w))
  | 40 => .ok (.vsra (fPred w) (fTy w) (fVd w) (fVs1 w) (fVs2 w))
  | 41 => .ok (.vimax (fPred w) (fTy w) (fVd w) (fVs1 w) (fVs2 w))
  | 42 => .ok (.vimin (fPred w) (fTy w) (fVd w) (fVs1 w) (fVs2 w))
  | 43 => do let pd ← asP4 (fVd w); pure (.vicmpEq (fPred w) (fTy w) pd (fVs1 w) (fVs2 w))
  | 44 => do let pd ← asP4 (fVd w); pure (.vicmpLt (fPred w) (fTy w) pd (fVs1 w) (fVs2 w))
  | 45 => do let pd ← asP4 (fVd w); pure (.vicmpLe (fPred w) (fTy w) pd (fVs1 w) (fVs2 w))
  | 46 => do let pd ← asP4 (fVd w); pure (.vicmpNe (fPred w) (fTy w) pd (fVs1 w) (fVs2 w))
  | _ => .error .unassigned

/-- The instruction a word names, before the checks of WellFormed (R77, R78). -/
def decodeRaw (w : BitVec 32) : Except DecodeError Instr :=
  match (w.extractLsb' 0 7).toNat with
  | 3 => decLoad w
  | 11 => decCustom0 w
  | 15 => decMiscMem w
  | 19 => decOpImm w
  | 23 => decAuipc w
  | 27 => decOpImm32 w
  | 35 => decStore w
  | 43 => decCustom1 w
  | 51 => decOp w
  | 55 => decLui w
  | 59 => decOp32 w
  | 91 => decCustom2 w
  | 99 => decBranch w
  | 103 => decJalr w
  | 111 => decJal w
  | 115 => decSystem w
  | 123 => decCustom3 w
  | _ => .error (if w.extractLsb' 0 2 = 3 then .majorOpcode else .notWord)

/-- Decoding of one instruction word: the opcode map, then the checks of WellFormed (R77, R78). -/
def decodeWord (w : BitVec 32) : Except DecodeError Instr := do
  let i ← decodeRaw w
  if i.wf then .ok i else .error .illFormed

/-! ### Encoding an instruction word -/

/-- The R and DR formats. -/
def encR (f7 : BitVec 7) (rs2 rs1 : BitVec 5) (f3 : BitVec 3) (rd : BitVec 5) (op : BitVec 7) : BitVec 32 :=
  f7 ++ rs2 ++ rs1 ++ f3 ++ rd ++ op
/-- The I and DI formats. -/
def encI (imm : BitVec 12) (rs1 : BitVec 5) (f3 : BitVec 3) (rd : BitVec 5) (op : BitVec 7) : BitVec 32 :=
  imm ++ rs1 ++ f3 ++ rd ++ op
/-- A shift by a 6-bit immediate. -/
def encSh (f6 : BitVec 6) (amt : BitVec 6) (rs1 : BitVec 5) (f3 : BitVec 3) (rd : BitVec 5) (op : BitVec 7) :
    BitVec 32 := f6 ++ amt ++ rs1 ++ f3 ++ rd ++ op
/-- The S format. -/
def encS (imm : BitVec 12) (rs2 rs1 : BitVec 5) (f3 : BitVec 3) (op : BitVec 7) : BitVec 32 :=
  imm.extractLsb' 5 7 ++ rs2 ++ rs1 ++ f3 ++ imm.extractLsb' 0 5 ++ op
/-- The B and DB formats; `off` is offset bits [12:1]. -/
def encB (off : BitVec 12) (rs2 rs1 : BitVec 5) (f3 : BitVec 3) (op : BitVec 7) : BitVec 32 :=
  off.extractLsb' 11 1 ++ off.extractLsb' 4 6 ++ rs2 ++ rs1 ++ f3 ++ off.extractLsb' 0 4 ++ off.extractLsb' 10 1 ++ op
/-- The U format. -/
def encU (imm : BitVec 20) (rd : BitVec 5) (op : BitVec 7) : BitVec 32 := imm ++ rd ++ op
/-- The J format; `off` is offset bits [20:1]. -/
def encJ (off : BitVec 20) (rd : BitVec 5) (op : BitVec 7) : BitVec 32 :=
  off.extractLsb' 19 1 ++ off.extractLsb' 0 10 ++ off.extractLsb' 10 1 ++ off.extractLsb' 11 8 ++ rd ++ op
/-- An atomic: funct7 is the operation number, nr, aq and rl (R86). -/
def encA (n : BitVec 4) (nr aq rl : Bool) (rs2 rs1 rd : BitVec 5) : BitVec 32 :=
  n ++ BitVec.ofBool nr ++ BitVec.ofBool aq ++ BitVec.ofBool rl ++ rs2 ++ rs1 ++ 2#3 ++ rd ++ 0x0b#7
/-- The DT format. -/
def encT (rs3 : BitVec 5) (f2 : BitVec 2) (rs2 rs1 : BitVec 5) (f3 : BitVec 3) (rd : BitVec 5) (op : BitVec 7) :
    BitVec 32 := rs3 ++ f2 ++ rs2 ++ rs1 ++ f3 ++ rd ++ op
/-- The rd field of a copy (R87). -/
def encBc : Option (BitVec 3) → BitVec 5
  | none => 0
  | some k => 1#1 ++ k ++ 0#1
/-- The DV format (R81, R83). -/
def encV (op : BitVec 7) (pred : BitVec 3) (vs2 vs1 : BitVec 4) (ty : BitVec 3) (vd : BitVec 4) : BitVec 32 :=
  op ++ pred.extractLsb' 2 1 ++ vs2 ++ pred.extractLsb' 1 1 ++ vs1 ++ ty ++ pred.extractLsb' 0 1 ++ vd ++ 0x5b#7

/-- The word of an instruction; none for a tile command or a device event, which is no word of the stream. -/
def encode : Instr → Option (BitVec 32)
  | .add rd rs1 rs2 => some (encR 0x0 rs2 rs1 0x0 rd 0x33)
  | .sub rd rs1 rs2 => some (encR 0x20 rs2 rs1 0x0 rd 0x33)
  | .sll rd rs1 rs2 => some (encR 0x0 rs2 rs1 0x1 rd 0x33)
  | .slt rd rs1 rs2 => some (encR 0x0 rs2 rs1 0x2 rd 0x33)
  | .sltu rd rs1 rs2 => some (encR 0x0 rs2 rs1 0x3 rd 0x33)
  | .xor rd rs1 rs2 => some (encR 0x0 rs2 rs1 0x4 rd 0x33)
  | .srl rd rs1 rs2 => some (encR 0x0 rs2 rs1 0x5 rd 0x33)
  | .sra rd rs1 rs2 => some (encR 0x20 rs2 rs1 0x5 rd 0x33)
  | .or rd rs1 rs2 => some (encR 0x0 rs2 rs1 0x6 rd 0x33)
  | .and rd rs1 rs2 => some (encR 0x0 rs2 rs1 0x7 rd 0x33)
  | .mul rd rs1 rs2 => some (encR 0x1 rs2 rs1 0x0 rd 0x33)
  | .mulh rd rs1 rs2 => some (encR 0x1 rs2 rs1 0x1 rd 0x33)
  | .mulhsu rd rs1 rs2 => some (encR 0x1 rs2 rs1 0x2 rd 0x33)
  | .mulhu rd rs1 rs2 => some (encR 0x1 rs2 rs1 0x3 rd 0x33)
  | .div rd rs1 rs2 => some (encR 0x1 rs2 rs1 0x4 rd 0x33)
  | .divu rd rs1 rs2 => some (encR 0x1 rs2 rs1 0x5 rd 0x33)
  | .rem rd rs1 rs2 => some (encR 0x1 rs2 rs1 0x6 rd 0x33)
  | .remu rd rs1 rs2 => some (encR 0x1 rs2 rs1 0x7 rd 0x33)
  | .addw rd rs1 rs2 => some (encR 0x0 rs2 rs1 0x0 rd 0x3b)
  | .subw rd rs1 rs2 => some (encR 0x20 rs2 rs1 0x0 rd 0x3b)
  | .sllw rd rs1 rs2 => some (encR 0x0 rs2 rs1 0x1 rd 0x3b)
  | .srlw rd rs1 rs2 => some (encR 0x0 rs2 rs1 0x5 rd 0x3b)
  | .sraw rd rs1 rs2 => some (encR 0x20 rs2 rs1 0x5 rd 0x3b)
  | .mulw rd rs1 rs2 => some (encR 0x1 rs2 rs1 0x0 rd 0x3b)
  | .divw rd rs1 rs2 => some (encR 0x1 rs2 rs1 0x4 rd 0x3b)
  | .divuw rd rs1 rs2 => some (encR 0x1 rs2 rs1 0x5 rd 0x3b)
  | .remw rd rs1 rs2 => some (encR 0x1 rs2 rs1 0x6 rd 0x3b)
  | .remuw rd rs1 rs2 => some (encR 0x1 rs2 rs1 0x7 rd 0x3b)
  | .addi rd rs1 imm => some (encI imm rs1 0 rd 0x13)
  | .slti rd rs1 imm => some (encI imm rs1 2 rd 0x13)
  | .sltiu rd rs1 imm => some (encI imm rs1 3 rd 0x13)
  | .xori rd rs1 imm => some (encI imm rs1 4 rd 0x13)
  | .ori rd rs1 imm => some (encI imm rs1 6 rd 0x13)
  | .andi rd rs1 imm => some (encI imm rs1 7 rd 0x13)
  | .slli rd rs1 sh => some (encSh 0x0 sh rs1 1 rd 0x13)
  | .srli rd rs1 sh => some (encSh 0x0 sh rs1 5 rd 0x13)
  | .srai rd rs1 sh => some (encSh 0x10 sh rs1 5 rd 0x13)
  | .addiw rd rs1 imm => some (encI imm rs1 0 rd 0x1b)
  | .slliw rd rs1 sh => some (encR 0x0 sh rs1 1 rd 0x1b)
  | .srliw rd rs1 sh => some (encR 0x0 sh rs1 5 rd 0x1b)
  | .sraiw rd rs1 sh => some (encR 0x20 sh rs1 5 rd 0x1b)
  | .lb rd rs1 imm => some (encI imm rs1 0 rd 0x3)
  | .lh rd rs1 imm => some (encI imm rs1 1 rd 0x3)
  | .lw rd rs1 imm => some (encI imm rs1 2 rd 0x3)
  | .ld rd rs1 imm => some (encI imm rs1 3 rd 0x3)
  | .lbu rd rs1 imm => some (encI imm rs1 4 rd 0x3)
  | .lhu rd rs1 imm => some (encI imm rs1 5 rd 0x3)
  | .lwu rd rs1 imm => some (encI imm rs1 6 rd 0x3)
  | .sb rs2 rs1 imm => some (encS imm rs2 rs1 0 0x23)
  | .sh rs2 rs1 imm => some (encS imm rs2 rs1 1 0x23)
  | .sw rs2 rs1 imm => some (encS imm rs2 rs1 2 0x23)
  | .sd rs2 rs1 imm => some (encS imm rs2 rs1 3 0x23)
  | .beq rs1 rs2 off => some (encB off rs2 rs1 0 0x63)
  | .bne rs1 rs2 off => some (encB off rs2 rs1 1 0x63)
  | .blt rs1 rs2 off => some (encB off rs2 rs1 4 0x63)
  | .bge rs1 rs2 off => some (encB off rs2 rs1 5 0x63)
  | .bltu rs1 rs2 off => some (encB off rs2 rs1 6 0x63)
  | .bgeu rs1 rs2 off => some (encB off rs2 rs1 7 0x63)
  | .lui rd imm => some (encU imm rd 0x37)
  | .auipc rd imm => some (encU imm rd 0x17)
  | .jal rd off => some (encJ off rd 0x6f)
  | .jalr rd rs1 imm => some (encI imm rs1 0 rd 0x67)
  | .csrrw rd csr rs1 => some (encI csr rs1 1 rd 0x73)
  | .csrrs rd csr rs1 => some (encI csr rs1 2 rd 0x73)
  | .csrrc rd csr rs1 => some (encI csr rs1 3 rd 0x73)
  | .csrrwi rd csr u => some (encI csr u 5 rd 0x73)
  | .csrrsi rd csr u => some (encI csr u 6 rd 0x73)
  | .csrrci rd csr u => some (encI csr u 7 rd 0x73)
  | .ecall => some (encI 0 0 0 0 0x73)
  | .ebreak => some (encI 1 0 0 0 0x73)
  | .fence rd rs1 imm => some (encI imm rs1 0 rd 0x0f)
  | .fenceI rd rs1 imm => some (encI imm rs1 1 rd 0x0f)
  | .ldfk rd rs1 => some (encR 0x0 0 rs1 0x0 rd 0xb)
  | .ldfe rd rs1 => some (encR 0x1 0 rs1 0x0 rd 0xb)
  | .stef rs2 rs1 => some (encR 0x2 rs2 rs1 0x0 0 0xb)
  | .stfl rs2 rs1 => some (encR 0x3 rs2 rs1 0x0 0 0xb)
  | .feget rd rs1 => some (encR 0x4 0 rs1 0x0 rd 0xb)
  | .feput rs2 rs1 => some (encR 0x5 rs2 rs1 0x0 0 0xb)
  | .rld rd rs1 => some (encR 0x0 0 rs1 0x1 rd 0xb)
  | .rldv vd rs1 => some (encR 0x1 0 rs1 0x1 (0#1 ++ vd) 0xb)
  | .rst rs2 rs1 => some (encR 0x2 rs2 rs1 0x1 0 0xb)
  | .rstv vs2 rs1 => some (encR 0x3 (0#1 ++ vs2) rs1 0x1 0 0xb)
  | .mcst rs2 rs1 => some (encR 0x4 rs2 rs1 0x1 0 0xb)
  | .mcstv vs2 rs1 => some (encR 0x5 (0#1 ++ vs2) rs1 0x1 0 0xb)
  | .amadd rd rs2 rs1 nr aq rl => some (encA 0 nr aq rl rs2 rs1 rd)
  | .amand rd rs2 rs1 nr aq rl => some (encA 1 nr aq rl rs2 rs1 rd)
  | .amor rd rs2 rs1 nr aq rl => some (encA 2 nr aq rl rs2 rs1 rd)
  | .amxor rd rs2 rs1 nr aq rl => some (encA 3 nr aq rl rs2 rs1 rd)
  | .ammax rd rs2 rs1 nr aq rl => some (encA 4 nr aq rl rs2 rs1 rd)
  | .ammin rd rs2 rs1 nr aq rl => some (encA 5 nr aq rl rs2 rs1 rd)
  | .amswap rd rs2 rs1 nr aq rl => some (encA 6 nr aq rl rs2 rs1 rd)
  | .amcas rd rs2 rs1 nr aq rl => some (encA 7 nr aq rl rs2 rs1 rd)
  | .amfadd rd rs2 rs1 nr aq rl => some (encA 8 nr aq rl rs2 rs1 rd)
  | .amfmax rd rs2 rs1 nr aq rl => some (encA 9 nr aq rl rs2 rs1 rd)
  | .cpy ch bc rs1 rs2 rs3 => some (encT rs3 ch rs2 rs1 3 (encBc bc) 0x0b)
  | .cpy2d ch bc rs1 rs2 rs3 => some (encT rs3 ch rs2 rs1 4 (encBc bc) 0x0b)
  | .cpyg ch bc rs1 rs2 rs3 => some (encT rs3 ch rs2 rs1 5 (encBc bc) 0x0b)
  | .cpys ch bc rs1 rs2 rs3 => some (encT rs3 ch rs2 rs1 6 (encBc bc) 0x0b)
  | .cseal rd => some (encR 0x0 0 0 0x7 rd 0xb)
  | .cwait n => some (encR 0x1 n 0 0x7 0 0xb)
  | .bcarm id rs1 => some (encR 0x3 (0#2 ++ id) rs1 0x7 0 0xb)
  | .bcwait id => some (encR 0x4 (0#2 ++ id) 0 0x7 0 0xb)
  | .pgzero rs1 => some (encR 0x10 0 rs1 0x7 0 0xb)
  | .pgcopy rs1 rs2 => some (encR 0x11 rs2 rs1 0x7 0 0xb)
  | .exit => some (encR 0x0 0 0 0x0 0 0x2b)
  | .yield => some (encR 0x1 0 0 0x0 0 0x2b)
  | .park rs1 => some (encR 0x2 0 rs1 0x0 0 0x2b)
  | .follow => some (encR 0x3 0 0 0x0 0 0x2b)
  | .migr rs1 => some (encR 0x4 0 rs1 0x0 0 0x2b)
  | .home => some (encR 0x5 0 0 0x0 0 0x2b)
  | .spawn rs1 rs2 => some (encR 0x6 rs2 rs1 0x0 0 0x2b)
  | .step => some (encR 0x8 0 0 0x0 0 0x2b)
  | .ckpt => some (encR 0x9 0 0 0x0 0 0x2b)
  | .deleg rs1 rs2 => some (encR 7 rs2 rs1 0 0 0x2b)
  | .delegReply rs1 rs2 h => some (encR 7 rs2 rs1 0 (1#1 ++ h) 0x2b)
  | .safept idx => some (encI idx 0 1 0 0x2b)
  | .loop rs1 n => some (encI n rs1 2 0 0x2b)
  | .qrd rd q => some (encR 0x0 0 (0#2 ++ q) 0x3 rd 0x2b)
  | .qwr q rs2 => some (encR 0x1 rs2 (0#2 ++ q) 0x3 0 0x2b)
  | .qrdv vd q => some (encR 0x2 0 (0#2 ++ q) 0x3 (0#1 ++ vd) 0x2b)
  | .qwrv q vs2 => some (encR 0x3 (0#1 ++ vs2) (0#2 ++ q) 0x3 0 0x2b)
  | .qtst rd q => some (encR 0x4 0 (0#2 ++ q) 0x3 rd 0x2b)
  | .qwait rd rs1 => some (encR 0x5 0 rs1 0x3 rd 0x2b)
  | .qbind q rs2 => some (encR 0x6 rs2 (0#2 ++ q) 0x3 0 0x2b)
  | .qfree q => some (encR 0x7 0 (0#2 ++ q) 0x3 0 0x2b)
  | .qbr q off => some (encB off 0 (0#2 ++ q) 4 0x2b)
  | .barinit b rs1 => some (encR 0x0 (0#2 ++ b) rs1 0x5 0 0x2b)
  | .bararv b => some (encR 0x1 (0#2 ++ b) 0 0x5 0 0x2b)
  | .barwt b => some (encR 0x2 (0#2 ++ b) 0 0x5 0 0x2b)
  | .barsyn b => some (encR 0x3 (0#2 ++ b) 0 0x5 0 0x2b)
  | .barq rd b => some (encR 0x4 (0#2 ++ b) 0 0x5 rd 0x2b)
  | .cdopen rs1 => some (encR 0x8 0 rs1 0x5 0 0x2b)
  | .cdpresCopy rs1 rs2 => some (encR 9 rs2 rs1 5 0 0x2b)
  | .cdpresRef rs1 rs2 => some (encR 9 rs2 rs1 5 1 0x2b)
  | .cdclose => some (encR 0xa 0 0 0x5 0 0x2b)
  | .cdabort => some (encR 0xb 0 0 0x5 0 0x2b)
  | .cdstat rd => some (encR 0xc 0 0 0x5 rd 0x2b)
  | .scopef kind scope => some (encR 0x10 (kind ++ scope) 0 0x5 0 0x2b)
  | .enq q vs2 => some (encR 0x0 (0#1 ++ vs2) (0#2 ++ q) 0x6 0 0x2b)
  | .mlease => some (encR 0x1 0 0 0x6 0 0x2b)
  | .mrel => some (encR 0x2 0 0 0x6 0 0x2b)
  | .efence rs1 rs2 => some (encR 0x3 rs2 rs1 0x6 0 0x2b)
  | .msend rs1 rs2 => some (encR 0x4 rs2 rs1 0x6 0 0x2b)
  | .msendv rs1 vs2 => some (encR 0x5 (0#1 ++ vs2) rs1 0x6 0 0x2b)
  | .ksfbind rs1 rs2 => some (encR 0x6 rs2 rs1 0x6 0 0x2b)
  | .eres rs1 => some (encR 0x7 0 rs1 0x6 0 0x2b)
  | .kret => some (encR 0x0 0 0 0x7 0 0x2b)
  | .tlbinv rs1 rs2 => some (encR 0x1 rs2 rs1 0x7 0 0x2b)
  | .ctxst rs1 rs2 => some (encR 0x2 rs2 rs1 0x7 0 0x2b)
  | .ctxld rs1 rs2 => some (encR 0x3 rs2 rs1 0x7 0 0x2b)
  | .scrub rs1 rs2 => some (encR 0x4 rs2 rs1 0x7 0 0x2b)
  | .teamstop rs1 => some (encR 0x5 0 rs1 0x7 0 0x2b)
  | .teamgo rs1 => some (encR 0x6 0 rs1 0x7 0 0x2b)
  | .ptparm rs1 => some (encR 0x7 0 rs1 0x7 0 0x2b)
  | .ksfload rs1 rs2 => some (encR 0x8 rs2 rs1 0x7 0 0x2b)
  | .vadd pred ty vd vs1 vs2 => some (encV 0x0 pred vs2 vs1 ty.code vd)
  | .vsub pred ty vd vs1 vs2 => some (encV 0x1 pred vs2 vs1 ty.code vd)
  | .vmul pred ty vd vs1 vs2 => some (encV 0x2 pred vs2 vs1 ty.code vd)
  | .vfma pred ty vd vs1 vs2 => some (encV 0x3 pred vs2 vs1 ty.code vd)
  | .vfms pred ty vd vs1 vs2 => some (encV 0x4 pred vs2 vs1 ty.code vd)
  | .vmax pred ty vd vs1 vs2 => some (encV 0x5 pred vs2 vs1 ty.code vd)
  | .vmin pred ty vd vs1 vs2 => some (encV 0x6 pred vs2 vs1 ty.code vd)
  | .vabs pred ty vd vs1 => some (encV 0x7 pred 0 vs1 ty.code vd)
  | .vneg pred ty vd vs1 => some (encV 0x8 pred 0 vs1 ty.code vd)
  | .vcmpEq pred ty pd vs1 vs2 => some (encV 0x9 pred vs2 vs1 ty.code (0#1 ++ pd))
  | .vcmpLt pred ty pd vs1 vs2 => some (encV 0xa pred vs2 vs1 ty.code (0#1 ++ pd))
  | .vcmpLe pred ty pd vs1 vs2 => some (encV 0xb pred vs2 vs1 ty.code (0#1 ++ pd))
  | .vcmpNe pred ty pd vs1 vs2 => some (encV 0xc pred vs2 vs1 ty.code (0#1 ++ pd))
  | .vcvt pred ty src vd vs1 => some (encV 0xd pred (0#1 ++ src.code) vs1 ty.code vd)
  | .vrcpe pred ty vd vs1 => some (encV 0xe pred 0 vs1 ty.code vd)
  | .vrsqe pred ty vd vs1 => some (encV 0xf pred 0 vs1 ty.code vd)
  | .vexp2e pred ty vd vs1 => some (encV 0x10 pred 0 vs1 ty.code vd)
  | .vreds pred ty vd vs1 => some (encV 0x11 pred 0 vs1 ty.code vd)
  | .vredm pred ty vd vs1 => some (encV 0x12 pred 0 vs1 ty.code vd)
  | .vcmul pred vd vs1 vs2 => some (encV 0x13 pred vs2 vs1 LaneTy.c16.code vd)
  | .viadd pred ty vd vs1 vs2 => some (encV 0x20 pred vs2 vs1 ty.code vd)
  | .visub pred ty vd vs1 vs2 => some (encV 0x21 pred vs2 vs1 ty.code vd)
  | .vimul pred ty vd vs1 vs2 => some (encV 0x22 pred vs2 vs1 ty.code vd)
  | .vand pred ty vd vs1 vs2 => some (encV 0x23 pred vs2 vs1 ty.code vd)
  | .vor pred ty vd vs1 vs2 => some (encV 0x24 pred vs2 vs1 ty.code vd)
  | .vxor pred ty vd vs1 vs2 => some (encV 0x25 pred vs2 vs1 ty.code vd)
  | .vshl pred ty vd vs1 vs2 => some (encV 0x26 pred vs2 vs1 ty.code vd)
  | .vshr pred ty vd vs1 vs2 => some (encV 0x27 pred vs2 vs1 ty.code vd)
  | .vsra pred ty vd vs1 vs2 => some (encV 0x28 pred vs2 vs1 ty.code vd)
  | .vimax pred ty vd vs1 vs2 => some (encV 0x29 pred vs2 vs1 ty.code vd)
  | .vimin pred ty vd vs1 vs2 => some (encV 0x2a pred vs2 vs1 ty.code vd)
  | .vicmpEq pred ty pd vs1 vs2 => some (encV 0x2b pred vs2 vs1 ty.code (0#1 ++ pd))
  | .vicmpLt pred ty pd vs1 vs2 => some (encV 0x2c pred vs2 vs1 ty.code (0#1 ++ pd))
  | .vicmpLe pred ty pd vs1 vs2 => some (encV 0x2d pred vs2 vs1 ty.code (0#1 ++ pd))
  | .vicmpNe pred ty pd vs1 vs2 => some (encV 0x2e pred vs2 vs1 ty.code (0#1 ++ pd))
  | .vld vd rs1 => some (encR 0x0 0 rs1 0x0 (0#1 ++ vd) 0x7b)
  | .vst vs2 rs1 => some (encR 0x1 (0#1 ++ vs2) rs1 0x0 0 0x7b)
  | .vlds h vd rs1 rs2 => some (encR 0x2 rs2 rs1 0x0 (BitVec.ofBool h ++ vd) 0x7b)
  | .vsts h vs rs1 rs2 => some (encR 0x3 rs2 rs1 0x0 (BitVec.ofBool h ++ vs) 0x7b)
  | .vgath h vd rs1 vi => some (encR 0x4 (0#1 ++ vi) rs1 0x0 (BitVec.ofBool h ++ vd) 0x7b)
  | .vscat h vs rs1 vi => some (encR 0x5 (0#1 ++ vi) rs1 0x0 (BitVec.ofBool h ++ vs) 0x7b)
  | .vbcst h vd rs1 => some (encR 0x6 0 rs1 0x0 (BitVec.ofBool h ++ vd) 0x7b)
  | .vmvx h rd vs1 rs2 => some (encR 0x7 rs2 (BitVec.ofBool h ++ vs1) 0x0 rd 0x7b)
  | .vins h vd rs1 rs2 => some (encR 0x8 rs2 rs1 0x0 (BitVec.ofBool h ++ vd) 0x7b)
  | .vshuf vd vs1 vs2 => some (encR 0x9 (0#1 ++ vs2) (0#1 ++ vs1) 0x0 (0#1 ++ vd) 0x7b)
  | .viota h vd rs1 => some (encR 0xb 0 rs1 0x0 (BitVec.ofBool h ++ vd) 0x7b)
  | .vsel h vd vs1 vs2 k => some (encR (2#4 ++ k) (0#1 ++ vs2) (0#1 ++ vs1) 0 (BitVec.ofBool h ++ vd) 0x7b)
  | .pand pd pa pb => some (encR 0x0 (0#2 ++ pb) (0#2 ++ pa) 0x1 (0#2 ++ pd) 0x7b)
  | .por pd pa pb => some (encR 0x1 (0#2 ++ pb) (0#2 ++ pa) 0x1 (0#2 ++ pd) 0x7b)
  | .pxor pd pa pb => some (encR 0x2 (0#2 ++ pb) (0#2 ++ pa) 0x1 (0#2 ++ pd) 0x7b)
  | .pnot pd pa => some (encR 0x3 0 (0#2 ++ pa) 0x1 (0#2 ++ pd) 0x7b)
  | .pcnt rd pa => some (encR 0x4 0 (0#2 ++ pa) 0x1 rd 0x7b)
  | .pfirst rd pa => some (encR 0x5 0 (0#2 ++ pa) 0x1 rd 0x7b)
  | .bsget rd n1 => some (encR 0x0 n1 0 0x2 rd 0x7b)
  | .bsput rs1 n1 => some (encR 0x1 n1 rs1 0x2 0 0x7b)
  | .bspeek rd n1 => some (encR 0x2 n1 0 0x2 rd 0x7b)
  | .bsskip rs1 => some (encR 0x3 0 rs1 0x2 0 0x7b)
  | .bsflsh => some (encR 0x4 0 0 0x2 0 0x7b)
  | .bsalgnRd => some (encR 5 0 0 2 0 0x7b)
  | .bsalgnWr => some (encR 5 1 0 2 0 0x7b)
  | _ => none

/-! ### Tile command words -/

/-- Why a tile word is no command: R95 names the word's opcode, zero bits or domain tags; the layout rules name the
word (0 to 3) that holds a bad field (R385, R214, R449). -/
inductive TileError where
  | head
  | field (k : Nat)
deriving DecidableEq, Repr

/-- Word k of a tile command word (R94). -/
def tileW (w : BitVec 256) (k : Nat) : Word := w.extractLsb' (64 * k) 64

/-- The engine of a tile opcode: 0 array, 1 transform unit, 2 tinker (R95). -/
def tileEngine (opc : BitVec 8) : Option Nat :=
  let n := opc.toNat
  if 1 ≤ n ∧ n ≤ 9 ∨ n = 0x22 then some 0
  else if n = 0x20 ∨ n = 0x21 ∨ n = 0x23 then some 1
  else if 0x40 ≤ n ∧ n ≤ 0x44 then some 2
  else none

/-- The opcode of a tile word, w0 [7:0]. -/
def tileOpc (w : BitVec 256) : BitVec 8 := w.extractLsb' 0 8

/-- A spectral opcode (R95). -/
def isSpectralOpc (opc : BitVec 8) : Bool := opc == 0x20 || opc == 0x21 || opc == 0x22 || opc == 0x23

/-- The shared fields of w0 (R94). -/
def tileHdr (w : BitVec 256) : TileHdr :=
  { wait := w.extractLsb' 16 8, s1 := w.extractLsb' 32 5, s2 := w.extractLsb' 37 5, s3 := w.extractLsb' 42 5,
    din := w.extractLsb' 24 2, dout := w.extractLsb' 26 2 }

/-- The checks of R95 that do not name the queue: the opcode is listed, w0 [31:28] is zero, and the domain tags are
zero on a command that is not spectral. -/
def tileHeadOk (w : BitVec 256) : Bool :=
  (tileEngine (tileOpc w)).isSome && w.extractLsb' 28 4 == 0
    && (isSpectralOpc (tileOpc w) || (tileHdr w).plain)

/-- Bits [lo+n-1 : lo] of the word are zero, or word k is named (R385). -/
def tileZero (w : BitVec 256) (lo n : Nat) : Except TileError Unit :=
  if w.extractLsb' lo n = 0 then .ok () else .error (.field (lo / 64))

/-- The PCF field, w0 [63:47]. -/
def tilePcf (w : BitVec 256) : BitVec 17 := w.extractLsb' 47 17
/-- Bits [56:0] of word k. -/
def tileVa (w : BitVec 256) (k : Nat) : BitVec 57 := w.extractLsb' (64 * k) 57
/-- Bits [63:57] of word k. -/
def tilePch (w : BitVec 256) (k : Nat) : BitVec 7 := w.extractLsb' (64 * k + 57) 7

/-- SHAPE with P - 1 in PCF (R429). -/
def tileShape (w : BitVec 256) : Shape :=
  { lb := w.extractLsb' 47 2, nb1 := w.extractLsb' 49 5, nv1 := w.extractLsb' 54 5, p1 := w.extractLsb' 59 5 }
/-- The shape of STAG mode 0, in w2 [11:0] (R429). -/
def tileShape0 (w : BitVec 256) : Shape :=
  { lb := w.extractLsb' 128 2, nb1 := w.extractLsb' 130 5, nv1 := w.extractLsb' 135 5, p1 := 0 }
/-- KB in PCF (R449). -/
def tileKb (w : BitVec 256) : KBlk := { k1 := w.extractLsb' 47 8, n1 := w.extractLsb' 55 9 }

/-- The command of a tile word, before the checks of WellFormed (R385, R429, R449). -/
def decodeTileRaw (w : BitVec 256) : Except TileError Instr :=
  let h := tileHdr w
  let z := tileZero w
  let bank : BitVec 2 := w.extractLsb' 8 2
  let acc := w.getLsbD 10
  match (tileOpc w).toNat with
  | 0x01 => do z 13 3; z 185 7; z 192 64
               pure (.mma h bank acc (w.extractLsb' 11 2) (tilePcf w) (tileVa w 1) (tilePch w 1) (tileVa w 2))
  | 0x02 => do z 11 5; z 55 9; z 64 64; z 185 7; z 192 64
               pure (.mvb h bank acc (w.extractLsb' 47 8) (tileVa w 2))
  | 0x03 => do z 13 3; z 121 7; z 128 64; z 192 64
               pure (.mldv h (w.extractLsb' 8 3) (w.getLsbD 11) (w.getLsbD 12) (tilePcf w) (tileVa w 1))
  | 0x04 => do z 10 6; z 47 17; z 121 7; z 185 7; z 192 64
               pure (.mwld h bank (tileVa w 1) (tileVa w 2))
  | 0x05 => do z 10 6; z 47 17; z 64 64; z 128 64; z 192 64; pure (.mzero h bank)
  | 0x06 => do z 15 1; z 47 17; z 64 64; z 185 7
               pure (.mstc h bank (w.getLsbD 10) (w.getLsbD 11) (w.extractLsb' 12 3) (tileVa w 2) (tileVa w 3) (tilePch w 3))
  | 0x07 => do z 10 6; z 128 64; z 192 64; pure (.mtrn h bank (tilePcf w) (tileVa w 1) (tilePch w 1))
  | 0x08 => do z 11 5; z 185 7; z 192 64
               pure (.mperm h bank acc (tilePcf w) (tileVa w 1) (tilePch w 1) (tileVa w 2))
  | 0x09 => do z 14 2; z 128 64; z 192 64
               pure (.mrsum h bank acc (w.extractLsb' 11 3) (tilePcf w) (tileVa w 1) (tilePch w 1))
  | 0x20 => do z 8 8; z 59 5; z 121 7; z 128 64; z 249 7; pure (.sfft h (tileShape w) (tileVa w 1) (tileVa w 3))
  | 0x21 => do z 8 8; z 59 5; z 121 7; z 128 64; z 249 7; pure (.sifft h (tileShape w) (tileVa w 1) (tileVa w 3))
  | 0x22 => do z 10 6; z 121 7; z 185 7; z 249 7
               pure (.scmm h bank (tileShape w) (tileVa w 1) (tileVa w 2) (tileVa w 3))
  | 0x23 => do
    z 10 6; z 121 7; z 249 7
    match bank.toNat with
    | 0 => do z 140 52; pure (.stagMode0 h (tilePcf w) (tileShape0 w) (tileVa w 1) (tileVa w 3))
    | 1 => do z 59 5; z 185 7; pure (.stagMode1 h (tileShape w) (tileVa w 1) (tileVa w 2) (tileVa w 3))
    | 2 => do z 59 5; z 128 64; pure (.stagMode2 h (tileShape w) (tileVa w 1) (tileVa w 3))
    | _ => .error (.field 0)
  | 0x40 => do z 12 4; pure (.ttopk h (w.extractLsb' 8 3) (w.getLsbD 11) (tileKb w) (tileW w 1) (tileW w 2) (tileW w 3))
  | 0x41 => do z 8 8; z 154 38; pure (.tspadd h (tileKb w) (tileW w 1) (w.extractLsb' 128 26) (tileW w 3))
  | 0x42 => do z 11 5; z 128 64; pure (.tpack h (w.extractLsb' 8 3) (tileKb w) (tileW w 1) (tileW w 3))
  | 0x43 => do z 11 5; z 128 64; pure (.tunpk h (w.extractLsb' 8 3) (tileKb w) (tileW w 1) (tileW w 3))
  | 0x44 => do z 8 8; z 51 13; z 121 7; z 128 64; z 192 64; pure (.tlink h (w.extractLsb' 47 4) (tileVa w 1))
  | _ => .error .head

/-- The number of the word whose field an ill-formed tile command has out of range (R385, R449). -/
def tileBadField : Instr → Nat
  | .mstc _ _ fold ovr sfmt _ _ _ => if (ovr || sfmt == 0) && sfmt != 7 then (if fold then 0 else 2) else 0
  | .ttopk _ lgb res kb x r out =>
      if !wfTopk lgb kb then 0 else if !wfTinkOperand x then 1
      else if !(if res then wfTinkOperand r else r == 0) then 2 else if !wfTinkOperand out then 3 else 0
  | .tspadd _ _ pairs _ _ => if wfTinkOperand pairs then 3 else 1
  | .tpack _ _ _ src _ | .tunpk _ _ _ src _ => if wfTinkOperand src then 3 else 1
  | _ => 0

/-- Decoding of a tile word: R95, the layout, then the ranges of the fields. -/
def decodeTile (w : BitVec 256) : Except TileError Instr := do
  if tileHeadOk w then
    let i ← decodeTileRaw w
    if i.wf then .ok i else .error (.field (tileBadField i))
  else .error .head

/-- Word 0 of a tile command. -/
def encW0 (h : TileHdr) (opc mod : BitVec 8) (pcf : BitVec 17) : Word :=
  pcf ++ h.s3 ++ h.s2 ++ h.s1 ++ 0#4 ++ h.dout ++ h.din ++ h.wait ++ mod ++ opc

/-- SHAPE in a PCF field. -/
def encShape (t : Shape) : BitVec 17 := t.p1 ++ t.nv1 ++ t.nb1 ++ t.lb

/-- KB in a PCF field. -/
def encKb (k : KBlk) : BitVec 17 := k.n1 ++ k.k1

/-- A tile word from its four words. -/
def encTile (w0 w1 w2 w3 : Word) : BitVec 256 := w3 ++ w2 ++ w1 ++ w0

/-- The 256-bit word of a tile command; none for everything else. -/
def encodeTile : Instr → Option (BitVec 256)
  | .mma h bank acc bform xexp a st1 woff =>
      some (encTile (encW0 h 0x01 (0#3 ++ bform ++ BitVec.ofBool acc ++ bank) xexp) (st1 ++ a) (0#7 ++ woff) 0)
  | .mvb h bank acc vmask tile =>
      some (encTile (encW0 h 0x02 (0#5 ++ BitVec.ofBool acc ++ bank) (0#9 ++ vmask)) 0 (0#7 ++ tile) 0)
  | .mldv h vslot xd xsel xexp vec =>
      some (encTile (encW0 h 0x03 (0#3 ++ BitVec.ofBool xsel ++ BitVec.ofBool xd ++ vslot) xexp) (0#7 ++ vec) 0 0)
  | .mwld h form src woff => some (encTile (encW0 h 0x04 (0#6 ++ form) 0) (0#7 ++ src) (0#7 ++ woff) 0)
  | .mzero h bank => some (encTile (encW0 h 0x05 (0#6 ++ bank) 0) 0 0 0)
  | .mstc h bank fold ovr sfmt foldw dst st3 =>
      some (encTile (encW0 h 0x06 (0#1 ++ sfmt ++ BitVec.ofBool ovr ++ BitVec.ofBool fold ++ bank) 0) 0 (0#7 ++ foldw)
        (st3 ++ dst))
  | .mtrn h bank xexp a st1 => some (encTile (encW0 h 0x07 (0#6 ++ bank) xexp) (st1 ++ a) 0 0)
  | .mperm h bank acc xexp a st1 idx =>
      some (encTile (encW0 h 0x08 (0#5 ++ BitVec.ofBool acc ++ bank) xexp) (st1 ++ a) (0#7 ++ idx) 0)
  | .mrsum h bank acc seg xexp a st1 =>
      some (encTile (encW0 h 0x09 (0#2 ++ seg ++ BitVec.ofBool acc ++ bank) xexp) (st1 ++ a) 0 0)
  | .sfft h shp src dst => some (encTile (encW0 h 0x20 0 (encShape shp)) (0#7 ++ src) 0 (0#7 ++ dst))
  | .sifft h shp src dst => some (encTile (encW0 h 0x21 0 (encShape shp)) (0#7 ++ src) 0 (0#7 ++ dst))
  | .scmm h bank shp src woff dst =>
      some (encTile (encW0 h 0x22 (0#6 ++ bank) (encShape shp)) (0#7 ++ src) (0#7 ++ woff) (0#7 ++ dst))
  | .stagMode0 h et shp src dst =>
      some (encTile (encW0 h 0x23 0 et) (0#7 ++ src) (0#52 ++ shp.nv1 ++ shp.nb1 ++ shp.lb) (0#7 ++ dst))
  | .stagMode1 h shp src ref dst =>
      some (encTile (encW0 h 0x23 1 (encShape shp)) (0#7 ++ src) (0#7 ++ ref) (0#7 ++ dst))
  | .stagMode2 h shp src dst => some (encTile (encW0 h 0x23 2 (encShape shp)) (0#7 ++ src) 0 (0#7 ++ dst))
  | .ttopk h lgb res kb x r out => some (encTile (encW0 h 0x40 (0#4 ++ BitVec.ofBool res ++ lgb) (encKb kb)) x r out)
  | .tspadd h kb pairs len vec => some (encTile (encW0 h 0x41 0 (encKb kb)) pairs (0#38 ++ len) vec)
  | .tpack h lgb kb src dst => some (encTile (encW0 h 0x42 (0#5 ++ lgb) (encKb kb)) src 0 dst)
  | .tunpk h lgb kb src dst => some (encTile (encW0 h 0x43 (0#5 ++ lgb) (encKb kb)) src 0 dst)
  | .tlink h n1 list => some (encTile (encW0 h 0x44 0 (0#13 ++ n1)) (0#7 ++ list) 0 0)
  | _ => none

/-! ### Bytes -/

/-- The bytes of a number, least significant first (R2). -/
def bytesLE (n v : Nat) : List Byte :=
  match n with
  | 0 => []
  | k + 1 => BitVec.ofNat 8 v :: bytesLE k (v / 256)

/-- The number that bytes hold, least significant first (R2). -/
def natLE : List Byte → Nat
  | [] => 0
  | b :: bs => b.toNat + 256 * natLE bs

/-- Decoding of the stream's next four bytes (R77). -/
def decodeBytes (bs : List Byte) : Except DecodeError Instr :=
  decodeWord (BitVec.ofNat 32 (natLE (bs.take 4)))

/-- The host's question: the instruction of a row's word. Words of 32 bits go through the instruction decoder as
little-endian bytes, wider ones are tile command words. -/
def decodeTableWord (nbits w : Nat) : Option Instr :=
  if nbits ≤ 32 then (decodeBytes (bytesLE 4 w)).toOption
  else (decodeTile (BitVec.ofNat 256 w)).toOption

end Sys2Proof
end

