-- ==== Sys2Proof/Config.lean ====
section
/-! DEFINITION. What an implementation fixes and the spec leaves open: opaque values that no proof can see, and the
numbers the spec states for the part. -/

namespace Sys2Proof.Config

/-- A value the spec leaves open, fresh for each value of the counter State.free (log entry 5). -/
opaque freeValue : Nat → Word

/-- The HBM channel (taken modulo 480) that serves an aligned 256-byte block under an address map version: the hash is not in the spec
(R243; log entry 2). -/
opaque channelOf : Nat → Nat → Nat

/-- Code byte `i` of the Reed-Solomon parity of checkpoint unit data; the code polynomial is not in the spec (R285;
log entry 9). -/
opaque parityByte : List Byte → Nat → Byte

/-- The signature by a key of the bytes of a report; keys are not in the spec (R308, R309; log entry 9). -/
opaque signature : List Byte → List Byte → List Byte

/-- The key that a hub installs in a freed key slot, and its 32-bit salt (R301; log entry 9). -/
opaque freshKey : Nat → Nat → Nat
opaque freshSalt : Nat → Nat → BitVec 32

/-- The 224 bytes that AES-256 in counter mode gives for a key and an IV, and the GCM tag of a key, an IV, a header and a
ciphertext (R300; log entry 9). -/
opaque keyStream : Nat → List Byte → List Byte
opaque gcmTag : Nat → List Byte → List Byte → List Byte → List Byte

/-- How packets lie in the 224 payload bytes of a data flit, and the packets that such bytes hold (R300; log entry
77). -/
opaque flitBody : Event → List Byte
opaque flitItems : List Byte → List Event

/-- The up-ports of a router of a level, at least one, and the Druale link behind an up-port of the hubs (R288; log
entry 85). -/
opaque upPorts : Nat → Nat
opaque linkOf : Nat → Nat

/-- The peer's signed part of a key exchange for a key slot of a link (R301; log entry 9). -/
opaque exchange : Nat → Nat → List Byte

/-- The rate threshold of units in events, and its window in ms (R253, R281; log entry 27). -/
opaque rateLimit : Nat
opaque rateWindow : Nat

/-- A compressed form of a message on a dictionary, as a sender finds it (R298, R299; log entry 10). -/
opaque deflate : List Byte → List Byte → List Byte

/-- Whether bytes carry a good signature by the key of a digest; digests of the root and the owner key, the fused minimum
version, this module's identity key and its certificate, the identity key of the package behind a link (R307, R308; log
entry 9). -/
opaque verifies : List Byte → List Byte → List Byte → Bool
opaque rootKey : List Byte
opaque ownerKey : List Byte
opaque fusedMin : BitVec 32
opaque identityKey : List Byte
opaque identityCert : List Byte
opaque peerKey : Nat → List Byte

/-- Whether the first of two writes of one accumulator word in one cycle stands (R203; log entry 5). -/
opaque firstWriteStands : Nat → Bool

/-- Nanoseconds that a save of a team of some clusters takes: the save bandwidth share is not in the spec (R266; log
entry 9). -/
opaque saveNs : Nat → Nat

/-- The partition of the resources of R269 that the stewards give a sealed tenant; its form is not in the spec (log entry 9). -/
opaque tenancy : Nat → List Byte

/-- What the device writes in a device-private part of a save area; its layout is not in the spec (R260; log entry 15). -/
opaque privateRecord : Nat → Nat

/-- The SHA-512 digest of bytes; the function is not in the spec (R309; log entry 9). -/
opaque digest : List Byte → List Byte

end Sys2Proof.Config
end

