-- ==== Sys2Proof/Machine/State.lean ====
section
/-! DEFINITION. The state of the Tihild as plain data: slots, cores, clusters, memory, teams, dispatcher, channels,
links, host port, stewards; the state after module reset; why the machine can stop. -/

namespace Sys2Proof.Machine

/-- Why a step stops the machine. -/
inductive Fault where
  /-- Raised by step once the stewards have stopped the module, above 115 C on a die (R19): nothing runs until the
  module is reset. Safe: the spec gives no further step of this package. -/
  | moduleStopped
deriving DecidableEq, Repr

/-- Why a step has no meaning. -/
inductive Refusal where
  /-- Raised by an arm of exec whose instruction has no meaning yet. Safe: nothing is claimed of it. -/
  | notModelled (mnemonic : String)
deriving DecidableEq, Repr

/-- The three privilege levels (R53). -/
inductive Level where
  | task | kernel | monitor
deriving DecidableEq, Repr

/-- What a parked slot waits for (R33, R256). `retry`: the instruction at pc is evaluated again at every turn, and
`safe` says whether its park is an implicit safe point; `fetch`: a fetch line of a channel core; `acq`: an acquire after the
load it belongs to, until earlier replies have come; `reply`: a load, remote load, packet or SCRUB in flight;
`moving`: the packet of a MIGR in flight; `atom`: a returning atomic in flight; `pres`: an entry of a presence wait
list; `until`: PARK until a cycle (R409). -/
inductive Wait where
  | retry (safe : Bool)
  | fetch
  | acq
  | reply
  | moving
  | atom
  | pres
  | until (cycle : Nat)
  | step
deriving DecidableEq, Repr

/-- The states of a slot (R33). Following is `Slot.follow` of a ready slot. -/
inductive Status where
  | idle
  | ready
  | parked (w : Wait)
  | away
  | exited
deriving DecidableEq, Repr

/-- What a slot runs (R35 to R39, R227). -/
inductive Running where
  | user | migrated | spawned | delegate
deriving DecidableEq, Repr

/-- A trap that arrives at a slot: synchronous cause, or interrupt, with the values it leaves (R247, R250, R251). -/
structure Trap where
  int   : Bool
  code  : Nat
  v1    : Word
  v2    : Word
deriving DecidableEq, Repr

/-- What a traveller carries about itself (R35, R37). -/
structure Trav where
  team   : Nat
  gen    : Nat
  kind   : Nat
  prio   : Nat
  cap    : Nat
  origin : Word
  target : Word
  reply  : BitVec 32
deriving DecidableEq, Repr

/-- A pending-reply record: kind 1 RLD, 2 RLDV, 3 returning atomic; destination 0 to 31 x, 32 to 47 v (R261, R295). -/
structure PendRep where
  kind : Nat
  dest : Nat
deriving DecidableEq, Repr

/-- The one outstanding multicast of a slot: its pointer, members not yet reported, members failed (R297, R391). -/
structure Mcast where
  ptr    : Word
  left   : List Nat
  failed : List Nat
deriving DecidableEq, Repr

/-- A sealed batch that is not finished: its number and its unfinished copies (R157). -/
structure Batch where
  num  : BitVec 32
  left : Nat
deriving DecidableEq, Repr

/-- A binding of a porter channel or stream queue to a configuration slot: the slot, and the local-store offset of
its binding record, if one is given (R235). -/
structure KsfSel where
  slot : Nat
  recOff : Option Nat
deriving DecidableEq, Repr

/-- What a copy or stream samples of its binding: configuration slot, RESULT and SIDE of the record (R235). -/
structure KsfBind where
  slot   : Nat
  result : Word
  side   : Word
deriving DecidableEq, Repr

/-- The state registers of the instances that have carried units of a transfer: the channel, and for each of the 16
cells its value and whether it is poisoned (R230, R239). -/
abbrev KsfRegs := List (Nat × List (VWord × Bool))

/-- A stream queue's state: the descriptor as read at the binding write, the position, elements read ahead or pushed
and not yet written, and the stream fabric binding it sampled (R151, R152). `skip`: elements of the next unit that lie before POS. -/
structure Stream where
  out    : Bool
  base   : Word
  esize  : Nat
  ndim   : Nat
  flags  : Nat
  pos    : Nat
  counts : List Nat
  strides : List Word
  bad    : Bool
  ahead  : List (VWord × Bool)
  fetched : Nat
  ksf    : Option KsfBind
  regs   : KsfRegs
  susp   : Option (Word × Word)
  skip   : Nat
deriving DecidableEq, Repr

/-- One engine's result FIFO: records, next SEQ, places reserved (R97, R192). -/
structure ResFifo where
  recs     : List Word
  seq      : BitVec 16
  reserved : Nat
deriving DecidableEq, Repr

/-- An entry of a domain's preserve list (R271): address, reference mode, length, pool offset in bytes. -/
structure Preserve where
  addr : Word
  ref  : Bool
  len  : Nat
  pool : Nat
deriving DecidableEq, Repr

/-- An open containment domain: its snapshot record, serial number, retry count, pool mark and preserve list; the
record's words lie in local store (R271 to R273). `abortAt`: the cycle of the error that aborts it. -/
structure Dom where
  recNo    : Nat
  serial   : Nat
  retry    : Nat
  pool     : Nat
  entries  : List Preserve
  aborting : Option Nat
  abortAt  : Nat
  opened   : Nat
deriving DecidableEq, Repr

/-- Follow mode (R40): the leader core within the cluster, the leader slot's count of traps and the cycle at FOLLOW, whether the
follower has found its pc in the leader's stream, and the leader's instructions not yet taken, oldest first: pc, and the next
pc where it is known. -/
structure Follow where
  lead    : Nat
  traps   : Nat
  since   : Nat
  matched : Bool
  seen    : List (Word × Option Word)
deriving DecidableEq, Repr

/-- A thread slot (R49, R55). `traps` counts traps and interrupts taken (R40, R376); `barWait` is the barrier of a BARWT or
BARSYN that waits, or that was abandoned while it waited, with its pc (R160, R335). -/
structure Slot where
  x        : Vector Word 32
  v        : Vector VWord 16
  p        : Vector PWord 8
  pc       : Word
  level    : Level
  status   : Status
  running  : Running
  trav     : Option Trav
  fmt      : Word
  sptra    : Word
  sptrb    : Word
  rnd      : Word
  fflags   : BitVec 6
  loopc    : Word
  loops    : Word
  loope    : Word
  qbind    : Vector Word 8
  dxe      : Word
  bsrd     : BitVec 20
  bswr     : BitVec 20
  sprio    : BitVec 2
  cbatch   : BitVec 32
  ckchk    : Bool
  step     : Word
  leaderc  : Word
  coord    : Word
  teamid   : Word
  shape    : Word
  cdlvl    : Nat
  errc     : BitVec 32
  kstatus  : Word
  kcause   : Word
  kepc     : Word
  ktval    : Word
  ktval2   : Word
  kvec     : Word
  kscratch : Word
  asid     : Word
  ptbase   : Word
  teamctx  : Word
  safeb    : Word
  ien      : BitVec 6
  preqReq  : Bool
  instants : List (Nat × Word)
  winbase  : Word
  winlen   : Word
  mstatus  : Word
  mcause   : Word
  mepc     : Word
  mvec     : Word
  dmapIdx  : BitVec 4
  spCount  : Nat
  safeAt   : Option Nat
  due      : List Trap
  sliceAt  : Option Nat
  timerAt  : Option Nat
  pending  : List PendRep
  mcast    : Option Mcast
  openCopies : Nat
  batches  : List Batch
  barRec   : List (Nat × Bool)
  streams  : List (Nat × Stream)
  qksf     : List (Nat × KsfSel)
  fifos    : Vector ResFifo 3
  brq      : List Word
  doms     : List Dom
  domSerial : Nat
  cdEsc    : Nat
  cdRetry  : Nat
  cdLcause : Nat
  cdLdepth : Nat
  heldAbort : List (Nat × Nat)
  delegSeq : Nat
  barWait  : Option (Nat × Word)
  follow   : Option Follow
  traps    : Nat
  savedAway : Bool
  refusals : Nat
  retryAt  : Nat
  frame    : Option (Nat × List PendRep)
  saved    : BitVec 2
  ckArr    : Bool
deriving DecidableEq, Repr

/-- An empty result FIFO. -/
def ResFifo.init : ResFifo := { recs := [], seq := 0, reserved := 0 }

/-- The first address of the own local-store window (R61). -/
def lsBase : Word := 0x00F000000000#64

/-- A slot at module reset: R55 where it states a value, else zero (log entry 4); pc at the own local store. -/
def Slot.init : Slot :=
  { x := Vector.replicate 32 0, v := Vector.replicate 16 0, p := Vector.replicate 8 0, pc := lsBase,
    level := .task, status := .idle, running := .user, trav := none, fmt := 0x049, sptra := 0, sptrb := 0,
    rnd := 0, fflags := 0, loopc := 0, loops := 0, loope := 0, qbind := Vector.replicate 8 0, dxe := 0,
    bsrd := 0, bswr := 0, sprio := 0, cbatch := 0, ckchk := false, step := 0, leaderc := 0, coord := 0,
    teamid := 0, shape := 0, cdlvl := 0, errc := 0, kstatus := 0, kcause := 0, kepc := 0, ktval := 0,
    ktval2 := 0, kvec := 0, kscratch := 0, asid := 0, ptbase := 0, teamctx := 0, safeb := 4096, ien := 0,
    preqReq := false, instants := [], winbase := 0, winlen := 0, mstatus := 0, mcause := 0, mepc := 0,
    mvec := 0, dmapIdx := 0, spCount := 0, safeAt := none, due := [], sliceAt := none, timerAt := none,
    pending := [], mcast := none, openCopies := 0, batches := [], barRec := [], streams := [], qksf := [],
    fifos := Vector.replicate 3 ResFifo.init, brq := [], doms := [], domSerial := 0, cdEsc := 0, cdRetry := 0,
    cdLcause := 0, cdLdepth := 0, heldAbort := [], delegSeq := 0, barWait := none, follow := none, traps := 0,
    savedAway := false, refusals := 0, retryAt := 0, frame := none, saved := 0, ckArr := false }

/-- A copy on a porter channel (R153, R154, R262): kind 0 CPY, 1 CPY2D, 2 CPYG, 3 CPYS; `len` source bytes in all,
`done` of them delivered; `onRead`: the source is the HBM end of a graph (R236); `at'`: the element in delivery and its index
as read (R154). -/
structure Copy where
  sid     : Nat
  kind    : Nat
  dst     : Word
  src     : Word
  len     : Nat
  rowBytes : Nat
  sstride : Word
  dstride : Word
  idx     : Nat
  done    : Nat
  bar     : Option Nat
  batch   : Option (BitVec 32)
  ticket  : Nat
  dom     : Nat
  asid    : Word
  ptb     : Word
  level   : Level
  ksf     : Option KsfBind
  num     : Nat
  den     : Nat
  regs    : KsfRegs
  seed    : Option (VWord × Bool)
  flags   : BitVec 6
  susp    : Option (Word × Word)
  onRead  : Bool
  at'     : Option (Nat × Nat)
deriving DecidableEq, Repr

/-- A range of addresses, `hi` exclusive. -/
structure Range where
  lo : Nat
  hi : Nat
deriving DecidableEq, Repr

/-- An entry of the dependence tracker (R177, R178). `since`: the cycle at which the last dependence was completed, or
of its entry. -/
structure Track where
  ticket : Nat
  reads  : List Range
  write  : Option Range
  since  : Nat
deriving DecidableEq, Repr

/-- An accepted tile command with its sampled state (R193), and, once started, its progress: `accepted`, `ready`
(the slot's earlier stores are performed and R197 holds no start back) and `start` are cycles, `endAt` the cycle at which an MVB writes its rows or a loader command is complete, `rowsR` and `rowsW`
accumulator rows read and written, `buf` values read or formed and not yet written, `step` the step of R207, `fold` the
largest magnitude of an MSTC in FP32, `vec` the index vector of an MPERM and `e` the exponent of an SCMM's output, both read at
the start (R220, R397). `flags` are those of the record with PAR in bit 6; `poisonOp` is the operand
whose poison was met first, 0 for none; `dom` the serial number of the innermost domain open at its ENQ, 0 for none;
`held` by the checking scoreboard, which `checked` passes by. -/
structure Cmd where
  ticket  : Nat
  sid     : Nat
  eng     : Nat
  w       : BitVec 256
  ins     : Instr
  inner   : List Instr
  fmt     : Word
  sptra   : Word
  sptrb   : Word
  dxe     : Word
  ckchk   : Bool
  asid    : Word
  ptb     : Word
  level   : Level
  dom     : Nat
  accepted : Nat
  ready   : Option Nat
  start   : Option Nat
  endAt   : Option Nat
  rowsR   : Nat
  rowsW   : Nat
  buf     : List (List Nat)
  step    : Nat
  fold    : Nat
  vec     : List (Nat × Bool)
  e       : Int
  flags   : BitVec 7
  poisonOp : Nat
  status  : Nat
  detail  : Nat
  susp    : Option (Word × Word)
  held    : Bool
  checked : Bool
deriving DecidableEq, Repr

/-- A translation cached in a TLB (R140). -/
structure TlbEnt where
  asid   : Word
  global : Bool
  vpn    : Nat
  leaf   : Word
  level  : Nat
deriving DecidableEq, Repr

/-- One barrier of a cluster (R159): team scope, participating cores, arrivals expected, and per core the leaf's
phase, count and whether it has reported; whether the cluster's root has reported to the relay tree. -/
structure Bar where
  team     : Bool
  mask     : BitVec 16
  expect   : Nat
  phase    : BitVec 16
  counts   : Vector Nat 16
  reported : BitVec 16
  rootDone : Bool
deriving DecidableEq, Repr

/-- A barrier at team start (R159). -/
def Bar.init (expect : Nat) : Bar :=
  { team := true, mask := 0xFFFF, expect := expect, phase := 0, counts := Vector.replicate 16 0,
    reported := 0, rootDone := false }

/-- A run-queue entry: the packet and the cycle of its arrival (R37). -/
structure RunEnt where
  p       : Packet
  arrived : Nat
deriving DecidableEq, Repr

/-- A core, or a channel core (R148, R149, R153 to R158, R227, R251). -/
structure CoreSt where
  links     : Vector (List Word) 4
  holes     : Vector (List Msg) 16
  flight    : Vector Nat 16
  chans     : Vector (List Copy) 4
  wptr      : Vector Word 4
  bcnt      : Vector Word 8
  cksf      : List (Nat × KsfSel)
  trel      : Bool
  tlb       : List TlbEnt
  poolTop   : Nat
  runq      : List RunEnt
  busy      : Option Packet
  waits     : List PresReq
  porterStop : Bool
  reserved  : Nat
deriving DecidableEq, Repr

/-- A core with nothing on it. -/
def CoreSt.init : CoreSt :=
  { links := Vector.replicate 4 [], holes := Vector.replicate 16 [], flight := Vector.replicate 16 0,
    chans := Vector.replicate 4 [], wptr := Vector.replicate 4 0, bcnt := Vector.replicate 8 0, cksf := [],
    trel := false, tlb := [], poolTop := 0, runq := [], busy := none, waits := [],
    porterStop := false, reserved := 0 }

/-- The parts of a done status word that a cluster gathers (R41, R43). -/
structure Done where
  reexec : Nat
  cls    : Nat
  err    : BitVec 12
  exits  : Nat
deriving DecidableEq, Repr

/-- A cluster (R159, R178, R190 to R192, R202). -/
structure ClusterSt where
  team      : Option Nat
  logical   : Nat
  scrubbing : Bool
  broken    : Bool
  holder    : Option Nat
  leaseCount : Nat
  leaseWaits : List Nat
  queues    : Vector (List Cmd) 3
  running   : List Cmd
  aclock    : Nat
  lastStart : Option Nat
  unitFree  : Vector Nat 4
  tracker   : List Track
  nextTicket : Nat
  bars      : Vector Bar 8
  vcs       : BitVec 2
  vcache    : List Nat
  vfills    : List Nat
  tlb       : List TlbEnt
  refs      : List (Range × Nat × Nat)
  writers   : List (Nat × Nat × Nat)
  vq        : List RunEnt
  vbusy     : Option Packet
  vwaits    : List PresReq
  done      : Done
  spawned   : Nat
  doneSent  : Bool
  quiesced  : Bool
deriving DecidableEq, Repr

/-- A cluster with nothing on it. -/
def ClusterSt.init : ClusterSt :=
  { team := none, logical := 0, scrubbing := false, broken := false, holder := none, leaseCount := 0,
    leaseWaits := [], queues := Vector.replicate 3 [], running := [], aclock := 0, lastStart := none,
    unitFree := Vector.replicate 4 0, tracker := [], nextTicket := 1, bars := Vector.replicate 8 (Bar.init 0),
    vcs := 0, vcache := [], vfills := [], tlb := [], refs := [], writers := [], vq := [], vbusy := none, vwaits := [],
    done := { reexec := 0, cls := 0, err := 0, exits := 0 }, spawned := 0, doneSent := false, quiesced := false }

/-- A configuration image resident at an instance: team, generation, slot, load generation, and the 5,440 bytes of
the image as a number (R234). -/
structure KsfImage where
  team : Nat
  gen  : Nat
  slot : Nat
  load : Nat
  image : Nat
deriving DecidableEq, Repr

/-- A memory channel beside its channel core (R229, R234, R245, R246). -/
structure ChanSt where
  fbuf     : List (Word × Nat × VWord)
  images   : List KsfImage
  thermal  : Bool
  lane     : Bool
  clearAt  : Option Nat
  rows     : List (Nat × Nat)
  neigh    : Nat
  corrupt  : Nat
  mappedOut : Bool
deriving DecidableEq, Repr

/-- A channel at reset: full width, nothing resident. -/
def ChanSt.init : ChanSt :=
  { fbuf := [], images := [], thermal := false, lane := false, clearAt := none, rows := [], neigh := 0,
    corrupt := 0, mappedOut := false }

/-- What the device saves of a team beside its memory images: the device-private parts of the cluster records
(R260), with the clusters that they were saved from: slots' private state, queue blocks and engine records. -/
structure Saved where
  place : List Nat
  slots : List (Nat × Nat × Slot)
  cores : List (Nat × Nat × CoreSt)
  clusters : List (Nat × ClusterSt)
deriving DecidableEq, Repr

/-- A team from the acceptance of its record until its end (R22 to R28, R260 to R266, R284). `state` is STATE of the
team record, `stop` the mode of a stop in progress, `regions` the region entries of the launch record, 32 bytes each as a
number. -/
structure Team where
  gen      : Nat
  lid      : Word
  record   : Word
  seq      : Nat
  s        : Nat
  c        : Nat
  smask    : BitVec 16
  prio     : Nat
  cap      : Nat
  flags    : BitVec 8
  deadline : Nat
  asid     : Word
  deps     : List Word
  save     : Word
  ptb      : Word
  winb     : Word
  winl     : Word
  arg      : Word
  safeb    : Word
  kvec     : Word
  vcsh     : BitVec 2
  entries  : List Word
  state    : Nat
  place    : List Nat
  started  : Bool
  stop     : Option Nat
  resume   : Bool
  tstart   : Nat
  moves    : Nat
  late     : Nat
  tflags   : BitVec 6
  poison   : Nat
  corrupt  : Nat
  rejects  : Nat
  stale    : Nat
  ksfGen   : Vector Nat 8
  ksfHas   : BitVec 8
  reports  : List Nat
  done     : Done
  ckWant   : Option Nat
  ckRun    : Bool
  ckUnits  : List Nat
  ckWritten : List Nat
  ckCount  : Nat
  ckDone   : List (Nat × Nat)
  ckMap    : List (Nat × Nat)
  ckAt     : Nat
  regions  : List Nat
  saved    : Option Saved
deriving DecidableEq, Repr

/-- One entry of the die maps (R12). `held` while the stewards change it (R14). -/
structure DmapEnt where
  gen  : BitVec 8
  pkg  : BitVec 16
  v    : Bool
  pdie : BitVec 4
  held : Bool
deriving DecidableEq, Repr

/-- Where placement homes a 64 KiB page of HBM: the channels that it is spread over, and the first of the 64 usable rows of a
row-local page (R23, R241). -/
structure Home where
  chans : List Nat
  row   : Option Nat
deriving DecidableEq, Repr

/-- A flit in a replay buffer, with the packets that it carries and whether they have been sent before (R302). -/
structure Sent where
  f     : Flit
  items : List Event
  again : Bool
deriving DecidableEq, Repr

/-- A key slot of one direction of a link: its key and its salt (R301). -/
structure KeySlot where
  key  : Nat
  salt : BitVec 32
deriving DecidableEq, Repr

/-- One Druale link of this package, both directions at this end (R300 to R302). Sender: next LSEQ, live key slot, its
counter, the rekey threshold, the replay buffer, slots whose key awaits installation, the key slots. Receiver: next LSEQ
expected, live key slot, slots whose key awaits installation, its key slots, consecutive authentication failures, whether it
is discarding until a retry. -/
structure LinkSt where
  seq      : Nat
  live     : Nat
  ctr      : Nat
  threshold : Nat
  replay   : List Sent
  freed    : List Nat
  keys     : Vector KeySlot 2
  expect   : Nat
  rlive    : Nat
  rfreed   : List Nat
  rkeys    : Vector KeySlot 2
  fails    : Nat
  discard  : Bool
  authFails : Nat
  crcFails : Nat
  drops    : Nat
deriving DecidableEq, Repr

/-- A link at reset: counters at 0, both key slots keyed, the default threshold 2^40 (R301). -/
def LinkSt.init : LinkSt :=
  { seq := 0, live := 0, ctr := 0, threshold := 2 ^ 40, replay := [], freed := [], keys := Vector.replicate 2 ⟨0, 0⟩,
    expect := 0, rlive := 0, rfreed := [], rkeys := Vector.replicate 2 ⟨0, 0⟩, fails := 0, discard := false,
    authFails := 0, crcFails := 0, drops := 0 }

/-- What leaves the package. -/
inductive Out where
  | flit (link : Nat) (f : Flit)                -- a flit sent or resent (R302)
  | net (peer : Nat) (m : NetMsg)               -- a message between network interfaces, or the answer to one (R298)
  | retry (link lseq : Nat)                     -- a retry request
  | ack (link lseq : Nat) (dropped : Bool)      -- an acknowledgement, of a flit whose packets are discarded too
  | d2h (addr : Word) (m : VWord)               -- a message written into the host's D2H ring (R305)
  | msix (vector : Nat)                         -- MSI-X (R305)
  | bootReport (dies : BitVec 9)                -- failing dies reported at boot (R10)
  | imageRefused                                -- a refused image reported (R307)
  | bootPage (bytes : List Byte)                -- the boot report sent to the management interface (R310)
  | packageStopped                              -- thermal shutdown, seen by peers as a package loss (R19)
deriving DecidableEq, Repr

/-- The package. -/
structure State where
  cycle    : Nat
  cores    : List Nat
  phase    : Nat
  plan     : List Nat
  agenda   : List Event
  beat     : Bool
  free     : Nat
  slots    : List (Nat × Slot)
  coreTab  : List (Nat × CoreSt)
  clusters : List (Nat × ClusterSt)
  chans    : List (Nat × ChanSt)
  mem      : List Host.Cell
  empty    : List Nat
  poison   : List Nat
  lost     : List Nat
  badPar   : List Nat
  flips    : List Nat
  teams    : List (Nat × Team)
  nextSeq  : Nat
  ended    : List (Word × Nat)
  working  : List Nat
  irqs     : List (Nat × Word × Word)
  dmap     : Vector DmapEnt 16
  ownPkg   : BitVec 16
  dieOk    : BitVec 9
  tested   : Bool
  booted   : Bool
  kernelOk : Bool
  images   : List (List Byte × BitVec 32)
  hubA     : Bool
  hubB     : Bool
  hostHub  : Nat
  misroute : List (Nat × Nat)
  ptpBase  : Nat
  ptpOff   : List (Nat × Int)
  tight    : Bool
  holdDispatch : Bool
  alarms   : List (Nat × Nat)
  stopped  : Bool
  amap     : Nat
  remap    : Option (Nat × Nat × List Nat)
  noticeSeq : Nat
  noticeBase : Nat
  hostPage : Nat
  traceBase : Nat
  traceIdx : List (Nat × Nat)
  reserveBase : Nat
  reserveSize : Nat
  group    : List Nat
  lostPieces : List Nat
  homes    : List (Nat × Home)
  rowLimit : Nat
  stewardA : Bool
  stewardB : Bool
  standing : List (Nat × Nat)
  unitLog  : List (Nat × List Nat)
  links    : List (Nat × LinkSt)
  h2dStops : Nat
  h2dHalt  : Bool
  epoch    : BitVec 32
  bootCount : BitVec 32
  dicts    : List (Nat × Nat × List Byte)
  sdicts   : List (Nat × Nat × List Byte)
  netOut   : List (Nat × List Byte)
  netIn    : List (Nat × List Byte)
  remStores : List RemReq
  outbox   : List Out
deriving DecidableEq, Repr

/-- The die map at boot: logical dies 0 to 7 on physical dies 0 to 7 of the own package, entries 8 to 15 invalid
(R10, R12; the boot assignment and the own fabric id 0 are log entry 4). -/
def dmapInit : Vector DmapEnt 16 :=
  Vector.ofFn fun i =>
    { gen := 0, pkg := 0, v := decide (i.val < 8), pdie := if i.val < 8 then BitVec.ofNat 4 i.val else 0,
      held := false }

/-- The clusters of the advertised dies, 512 numbers die * 64 + cluster (R15). -/
def allClusters : List Nat := List.range 512

/-- The first byte of the boot report (R310). -/
def bootReportPa : Nat := 0xBFFFFFF000

/-- The reserve memory: 48 GiB just below the boot report (R287). -/
def reservePa : Nat := bootReportPa - 0xC00000000

/-- The package right after module reset: every word 0 and full (R131), every slot idle (R33), counters at zero.
Values the spec does not give are those of log entries 1, 4, 8 and 12. -/
def State.reset : State :=
  { cycle := 0, cores := [0], phase := 0, plan := [], agenda := [], beat := false, free := 0, slots := [],
    coreTab := [], clusters := [], chans := [], mem := [], empty := [], poison := [], lost := [], badPar := [], flips := [],
    teams := [], nextSeq := 0, ended := [], working := allClusters, irqs := [], dmap := dmapInit, ownPkg := 0,
    dieOk := 0x1FF, tested := false, booted := false, kernelOk := false, images := [], hubA := true, hubB := true, hostHub := 0, misroute := [], ptpBase := 0,
    ptpOff := [], tight := false, holdDispatch := false, alarms := [], stopped := false, amap := 0, remap := none,
    noticeSeq := 0, noticeBase := reservePa - 0x4000, hostPage := reservePa - 0x5000,
    traceBase := reservePa - 0x6000000, traceIdx := [], reserveBase := reservePa, reserveSize := 0xC00000000, group := [], lostPieces := [], homes := [], rowLimit := 2048,
    stewardA := true, stewardB := true, standing := [],
    unitLog := [], links := [], h2dStops := 0, h2dHalt := false, epoch := 0, bootCount := 0, dicts := [], sdicts := [], netOut := [], netIn := [], remStores := [], outbox := [] }

end Sys2Proof.Machine
end

