-- ==== Sys2Proof/Machine/Ops.lean ====
section
/-! DEFINITION. The named operations over slots, cores, clusters and memory that every meaning uses: reading and
writing registers, memory words with their presence and poison marks, retiring, parking, taking a trap and returning
from one. -/

namespace Sys2Proof.Machine

/-- The outcome of a step of this machine. -/
abbrev Outcome := Host.Outcome State Fault Refusal

/-! ### Tables -/

/-- The entry of key k, or `d`. -/
def tget {α : Type} (d : α) : List (Nat × α) → Nat → α
  | [], _ => d
  | (k', v) :: r, k => if k' = k then v else tget d r k

/-- The table with entry k set, keys rising. -/
def tset {α : Type} : List (Nat × α) → Nat → α → List (Nat × α)
  | [], k, v => [(k, v)]
  | (k', v') :: r, k, v =>
    if k' < k then (k', v') :: tset r k v
    else if k' = k then (k, v) :: r
    else (k, v) :: (k', v') :: r

/-- The table without key k. -/
def tdel {α : Type} (t : List (Nat × α)) (k : Nat) : List (Nat × α) := t.filter (fun e => e.1 != k)

/-- The entry of key k, if there is one. -/
def tfind {α : Type} : List (Nat × α) → Nat → Option α
  | [], _ => none
  | (k', v) :: r, k => if k' = k then some v else tfind r k

/-- A sorted list of numbers with k put into it. -/
def markOn (l : List Nat) (k : Nat) : List Nat :=
  match l with
  | [] => [k]
  | a :: r => if a < k then a :: markOn r k else if a = k then a :: r else k :: a :: r

/-- A sorted list of numbers with k in it (`on`) or not. -/
def mark (l : List Nat) (k : Nat) (on : Bool) : List Nat := if on then markOn l k else l.filter (· != k)

/-! ### Numbers of units -/

/-- Channel cores are numbered from here, after the 9,216 cores of nine dies. -/
def chanCore0 : Nat := 9216

/-- The core of a slot. -/
def coreOf (sid : Nat) : Nat := sid / 16
/-- The cluster of a core. -/
def clusterOf (core : Nat) : Nat := core / 16
/-- A channel core (R227). -/
def isChan (core : Nat) : Bool := decide (chanCore0 ≤ core ∧ core < chanCore0 + 480)

/-- Physical address of a core's local store (R126). -/
def lsPa (core : Nat) : Nat := 0x200000000000 + (core / 1024) * 0x10000000 + (core % 1024) * 0x20000
/-- Physical address of a cluster's vault (R126). -/
def vaultPa (cluster : Nat) : Nat := 0x100000000000 + cluster * 0x400000
/-- The model's address of a channel-core slot's scratch (log entry 6). -/
def scratchPa (sid : Nat) : Nat := 2 ^ 50 + (sid - chanCore0 * 16) * 4096
/-- The model's address of a weight buffer (log entry 6). -/
def weightPa (cluster : Nat) : Nat := 2 ^ 51 + cluster * 0x100000
/-- The model's address of an accumulator word, in FA56 form in 8 bytes (R260; log entry 6). -/
def accPa (cluster bank row col : Nat) : Nat := 2 ^ 52 + cluster * 0x20000 + ((bank * 64 + row) * 64 + col) * 8
/-- The model's address of element k of a resident vector, an exact FP32 value in 8 bytes (log entry 6). -/
def resPa (cluster v k : Nat) : Nat := 2 ^ 53 + cluster * 4096 + v * 512 + 8 * k
/-- The model's address of the tinker's private buffer (log entry 6). -/
def tinkPa (cluster : Nat) : Nat := 2 ^ 54 + cluster * 0x10000

/-- Who owns a physical address (R126, R164). -/
inductive Owner where
  | hbm
  | vault (cluster : Nat)
  | ls (core : Nat)
  | scratch (sid : Nat)
  | none
deriving DecidableEq, Repr

/-- The owner of a physical address; `none` outside every listed range (R126). -/
def ownerOf (pa : Nat) : Owner :=
  if pa < 0xC000000000 then .hbm
  else if 0x100000000000 ≤ pa ∧ pa < 0x100000000000 + 9 * 0x10000000 then .vault ((pa - 0x100000000000) / 0x400000)
  else if 0x200000000000 ≤ pa ∧ pa < 0x200000000000 + 9 * 0x10000000 ∧ (pa - 0x200000000000) % 0x10000000 < 0x8000000
    then .ls ((pa - 0x200000000000) / 0x10000000 * 1024 + (pa - 0x200000000000) % 0x10000000 / 0x20000)
  else if 2 ^ 50 ≤ pa ∧ pa < 2 ^ 50 + 480 * 16 * 4096 then .scratch (chanCore0 * 16 + (pa - 2 ^ 50) / 4096)
  else .none

/-- The address map version that serves a page: during a remap the new one below the boundary and for pages moved
early (R243). -/
def State.mapOf (s : State) (page : Nat) : Nat :=
  match s.remap with
  | some (v, b, early) => if page < b ∨ early.contains page = true then v else s.amap
  | none => s.amap

/-- Bytes of a piece of a checkpoint unit, and of the reserve memory that lies on one stack (R285, R287; log entry 96). -/
def pieceBytes : Nat := 0x2000
def State.stackShare (s : State) : Nat := s.reserveSize / 12 / pieceBytes * pieceBytes

/-- The channel core of an HBM address (R243): of a page that placement has homed, one of its home's channels, a row-local page
lying in one (R23, R241); of reserve memory, one of the stack that it lies on (log entry 96). -/
def State.chanOf (s : State) (pa : Nat) : Nat :=
  let h := Config.channelOf (s.mapOf (pa / 0x10000)) (pa / 256)
  match s.homes.find? fun e => e.1 == pa / 0x10000 with
  | some e => e.2.chans.getD (h % max 1 e.2.chans.length) 0 % 480
  | none =>
    if s.reserveBase ≤ pa ∧ pa < s.reserveBase + 12 * s.stackShare then
      (pa - s.reserveBase) / max 1 s.stackShare * 40 + pa / 256 % 40
    else h % 480

/-! ### Slots, cores, clusters, channels, teams -/

/-- The core whose turn it is. -/
def State.core (s : State) : Nat := s.cores.getD s.phase 0
/-- The slot whose turn it is: slot i owns the cycles congruent to i modulo 16 (R32). -/
def State.sid (s : State) : Nat := s.core * 16 + s.cycle % 16
/-- The cluster whose turn it is. -/
def State.cluster (s : State) : Nat := clusterOf s.core

def State.slot (s : State) (sid : Nat) : Slot := tget Slot.init s.slots sid
def State.setSlot (s : State) (sid : Nat) (sl : Slot) : State := { s with slots := tset s.slots sid sl }
def State.modSlot (s : State) (sid : Nat) (f : Slot → Slot) : State := s.setSlot sid (f (s.slot sid))
/-- The slot whose turn it is. -/
def State.me (s : State) : Slot := s.slot s.sid
/-- A change of the slot whose turn it is. -/
def State.upd (s : State) (f : Slot → Slot) : State := s.modSlot s.sid f

def State.coreSt (s : State) (c : Nat) : CoreSt := tget CoreSt.init s.coreTab c
def State.modCore (s : State) (c : Nat) (f : CoreSt → CoreSt) : State :=
  { s with coreTab := tset s.coreTab c (f (s.coreSt c)) }
def State.clusterSt (s : State) (c : Nat) : ClusterSt := tget ClusterSt.init s.clusters c
def State.modCluster (s : State) (c : Nat) (f : ClusterSt → ClusterSt) : State :=
  { s with clusters := tset s.clusters c (f (s.clusterSt c)) }
def State.chan (s : State) (c : Nat) : ChanSt := tget ChanSt.init s.chans c
def State.modChan (s : State) (c : Nat) (f : ChanSt → ChanSt) : State :=
  { s with chans := tset s.chans c (f (s.chan c)) }
def State.team? (s : State) (tid : Nat) : Option Team := tfind s.teams tid
def State.modTeam (s : State) (tid : Nat) (f : Team → Team) : State :=
  match s.team? tid with
  | some t => { s with teams := tset s.teams tid (f t) }
  | none => s
/-- An event or request placed at the end of the agenda. -/
def State.post (s : State) (i : Event) : State := { s with agenda := s.agenda ++ [i] }
/-- Something that leaves the package. -/
def State.send (s : State) (o : Out) : State := { s with outbox := s.outbox ++ [o] }
/-- A free value, and the counter advanced (log entry 5). -/
def State.fresh (s : State) : Word × State := (Config.freeValue s.free, { s with free := s.free + 1 })

/-- The leader slot of a slot in follow mode: the slot of its index on the leader core of its cluster (R40). -/
def Slot.leader (sl : Slot) (sid : Nat) : Option Nat := sl.follow.map fun f => (sid / 256 * 16 + f.lead) * 16 + sid % 16
/-- The slot numbered `sid` follows the slot `lead`. -/
def Slot.follows (sl : Slot) (sid lead : Nat) : Bool := sl.leader sid == some lead

/-- The team id of a slot (R22). -/
def Slot.team (sl : Slot) : Nat := (sl.teamid.extractLsb' 0 16).toNat
/-- The team of a slot, while it has one. -/
def State.teamOf (s : State) (sl : Slot) : Option Team := s.team? sl.team

/-! ### Registers (R49 to R52) -/

/-- Reads an x register: x0 reads 0. -/
def Slot.rx (sl : Slot) (r : XReg) : Word := if r = 0 then 0 else sl.x[r.toNat]
/-- Writes an x register: a write of x0 is discarded. -/
def Slot.wx (sl : Slot) (r : XReg) (w : Word) : Slot := if r = 0 then sl else { sl with x := sl.x.set r.toNat w }
def Slot.rv (sl : Slot) (r : VReg) : VWord := sl.v[r.toNat]
def Slot.wv (sl : Slot) (r : VReg) (w : VWord) : Slot := { sl with v := sl.v.set r.toNat w }
def Slot.rp (sl : Slot) (r : PReg) : PWord := sl.p[r.toNat]
def Slot.wp (sl : Slot) (r : PReg) (w : PWord) : Slot := { sl with p := sl.p.set r.toNat w }
/-- ORs flags into fflags. -/
def Slot.orFlags (sl : Slot) (f : BitVec 6) : Slot := { sl with fflags := sl.fflags ||| f }

/-! ### Retiring and parking (R33, R249, R255, R383) -/

/-- Parked on an implicit safe point (R256). -/
def Status.safePark : Status → Bool
  | .parked (.retry b) => b
  | .parked .atom | .parked .pres | .parked (.until _) | .parked .step => true
  | .away => true
  | _ => false

/-- A value as pc holds it: bits [1:0] and [63:57] are always zero (R49). -/
def pcOf (w : Word) : Word := w &&& 0x01FFFFFFFFFFFFFC

/-- The slot after the instruction at pc retires with the given next pc. It stands at a safe point when the
instruction was parked on an implicit safe point (R255). -/
def Slot.retireTo (sl : Slot) (npc : Word) : Slot :=
  { sl with pc := pcOf npc, status := .ready, safeAt := if sl.status.safePark then some 0x1000 else none }

/-- The slot after the instruction at pc retires and falls through; at task level the hardware loop counts at
`loope` (R249, R383). -/
def Slot.retire (sl : Slot) : Slot :=
  if sl.level = .task ∧ sl.pc = sl.loope ∧ sl.loopc ≠ 0 then
    let c := sl.loopc - 1
    { sl.retireTo (if c ≠ 0 then sl.loops else sl.pc + 4) with loopc := c }
  else sl.retireTo (sl.pc + 4)

/-- Retire with a result in an x register. -/
def Slot.retireX (sl : Slot) (rd : XReg) (w : Word) : Slot := (sl.wx rd w).retire
/-- Retire with a result in a v register. -/
def Slot.retireV (sl : Slot) (vd : VReg) (w : VWord) : Slot := (sl.wv vd w).retire
/-- Retire with a result in a p register. -/
def Slot.retireP (sl : Slot) (pd : PReg) (w : PWord) : Slot := (sl.wp pd w).retire

/-- The slot parked at the instruction at pc, which is evaluated again at every turn; reaching an implicit safe point
resets the safe-point counter (R256, R259). -/
def Slot.parkRetry (sl : Slot) (safe : Bool) : Slot :=
  { sl with status := .parked (.retry safe), spCount := if safe then 0 else sl.spCount }

/-- The slot parked on an event. -/
def Slot.parkOn (sl : Slot) (w : Wait) : Slot :=
  { sl with status := .parked w, spCount := if (Status.parked w).safePark then 0 else sl.spCount }

/-! ### Traps (R247 to R250) -/

/-- A synchronous trap. -/
def Trap.sync (c : Nat) (v1 : Word) (v2 : Word := 0) : Trap := { int := false, code := c, v1 := v1, v2 := v2 }
/-- An interrupt. -/
def Trap.irq (c : Nat) (v1 : Word) (v2 : Word := 0) : Trap := { int := true, code := c, v1 := v1, v2 := v2 }

/-- The level's code in PPL (R249). -/
def Level.code : Level → Word
  | .task => 0 | .kernel => 1 | .monitor => 3

/-- A status register at a trap: PPL ← level, PIE ← IE, IE ← 0 (R247, R249). -/
def statusEnter (st : Word) (l : Level) : Word := l.code ||| (if st.getLsbD 2 then 8 else 0)

/-- A status register at a return: IE ← PIE, PIE ← 1 (R248). PPL is kept. -/
def statusReturn (st : Word) : Word := (st &&& 3) ||| (if st.getLsbD 3 then 4 else 0) ||| 8

/-- The offset of a trap's vector (R247). -/
def Trap.offset (t : Trap) : Word := if t.int then 0x800 + BitVec.ofNat 64 (t.code * 0x40) else BitVec.ofNat 64 (t.code * 0x40)
/-- The code a trap leaves in kcause or mcause (R247). -/
def Trap.causeWord (t : Trap) : Word := if t.int then (1 <<< 63) ||| BitVec.ofNat 64 t.code else BitVec.ofNat 64 t.code

/-- Taking a trap (R247): which registers save pc, cause and status, the new level, the vector; the slot leaves follow
mode and its park. -/
def Slot.enter (sl : Slot) (t : Trap) : Slot :=
  if sl.level = .monitor ∨ (t.int = false ∧ t.code = 9) then
    { sl with mepc := sl.pc, mcause := t.causeWord, mstatus := statusEnter sl.mstatus sl.level, ktval := t.v1,
              ktval2 := t.v2, level := .monitor, follow := none, traps := sl.traps + 1, pc := pcOf (sl.mvec + t.offset), status := .ready,
              safeAt := none }
  else
    { sl with kepc := sl.pc, kcause := t.causeWord, kstatus := statusEnter sl.kstatus sl.level, ktval := t.v1,
              ktval2 := t.v2, level := .kernel, follow := none, traps := sl.traps + 1, pc := pcOf (sl.kvec + t.offset), status := .ready,
              safeAt := none }

/-- The slot whose turn it is takes a trap. -/
def State.trap (s : State) (t : Trap) : State := s.upd (·.enter t)

/-- The level that a PPL names, if it is one and not above the present level (R248). -/
def pplLevel (ppl : Nat) (cur : Level) : Option Level :=
  match ppl with
  | 0 => some .task
  | 1 => if cur = .task then none else some .kernel
  | 3 => if cur = .monitor then some .monitor else none
  | _ => none

/-- Returning from a trap (R248): pc, level and status from the level's registers; a safe point that resets the
counter. A loaded frame of an away slot leaves the slot away (R264). -/
def Slot.leave (sl : Slot) : Option Slot :=
  let m := sl.level = .monitor
  let st := if m then sl.mstatus else sl.kstatus
  let epc := if m then sl.mepc else sl.kepc
  match pplLevel (st.extractLsb' 0 2).toNat sl.level with
  | none => none
  | some l =>
    let sl := if m then { sl with mstatus := statusReturn st } else { sl with kstatus := statusReturn st }
    some { sl with pc := pcOf epc, level := l, spCount := 0, safeAt := some 0x1000,
                   status := if sl.savedAway then .away else .ready, savedAway := false, frame := none, saved := 0 }

/-- How an instruction ends: it has its effect, traps with no effect, or parks. -/
inductive Res where
  | done (s : State)
  | trap (t : Trap)
  | park (safe : Bool)
deriving DecidableEq, Repr

/-- The next state of an instruction of the slot whose turn it is. -/
def State.finish (s : State) : Res → Outcome
  | .done s' => .next s'
  | .trap t => .next (s.trap t)
  | .park safe => .next (s.upd (·.parkRetry safe))

/-- The instruction word at a slot's pc is not at hand in a meaning; an illegal operand or level takes cause 2 with
the word, which the caller passes (R78). -/
def illegal (w : Word) : Res := .trap (Trap.sync 2 w)

/-- The slot whose turn it is retires after a change. -/
def State.ret (s : State) (f : Slot → Slot := id) : Res := .done (s.upd fun sl => (f sl).retire)

/-! ### Memory bytes -/

/-- The byte at an address: 0 where nothing is listed (R131; log entry 7). -/
def memGet : List Host.Cell → Nat → Byte
  | [], _ => 0
  | (k, b) :: r, a => if k = a then b else memGet r a

/-- Memory with one listed byte, addresses rising. -/
def memPut : List Host.Cell → Nat → Byte → List Host.Cell
  | [], a, b => [(a, b)]
  | (k, c) :: r, a, b =>
    if k < a then (k, c) :: memPut r a b
    else if k = a then (a, b) :: r
    else (a, b) :: (k, c) :: r

/-- Memory with one byte written: addresses rising, zero bytes not listed. -/
def memSet (m : List Host.Cell) (a : Nat) (b : Byte) : List Host.Cell :=
  if b = 0 then m.filter (fun c => c.1 != a) else memPut m a b

/-- The canonical form: addresses strictly rise from `lo` on, and no listed byte is 0. -/
def memWfFrom : Nat → List Host.Cell → Bool
  | _, [] => true
  | lo, (k, b) :: r => decide (lo ≤ k) && b != 0 && memWfFrom (k + 1) r

/-- The canonical form of memory. -/
def Memory.wf (m : List Host.Cell) : Bool := memWfFrom 0 m

/-- The number in n bytes from an address, little-endian (R2). -/
def memRead (m : List Host.Cell) (a : Nat) : Nat → Nat
  | 0 => 0
  | n + 1 => (memGet m a).toNat + 256 * memRead m (a + 1) n

/-- n bytes of a number written from an address, little-endian (R2). -/
def memWrite (m : List Host.Cell) (a : Nat) (v : Nat) : Nat → List Host.Cell
  | 0 => m
  | n + 1 => memWrite (memSet m a (BitVec.ofNat 8 v)) (a + 1) (v / 256) n

/-- The byte of physical memory at an address. -/
def State.byte (s : State) (pa : Nat) : Byte := memGet s.mem pa
/-- n bytes of physical memory. -/
def State.rd (s : State) (pa n : Nat) : Nat := memRead s.mem pa n
/-- n bytes of physical memory written; marks are left alone. -/
def State.wr (s : State) (pa n v : Nat) : State := { s with mem := memWrite s.mem pa v n }

/-- Physical memory with a list of bytes written. -/
def State.wrBytes (s : State) (pa : Nat) : List Byte → State
  | [] => s
  | b :: bs => State.wrBytes { s with mem := memSet s.mem pa b } (pa + 1) bs

/-- n bytes of physical memory as a list. -/
def State.rdBytes (s : State) (pa : Nat) : Nat → List Byte
  | 0 => []
  | n + 1 => s.byte pa :: State.rdBytes s (pa + 1) n

/-- The presence bit of a word number (address / 8) is full (R131). -/
def State.full (s : State) (w : Nat) : Bool := !s.empty.contains w
def State.setFull (s : State) (w : Nat) (on : Bool) : State := { s with empty := mark s.empty w (!on) }
/-- A word number is marked poison (R280). -/
def State.bad (s : State) (w : Nat) : Bool := s.poison.contains w
def State.setBad (s : State) (w : Nat) (on : Bool) : State := { s with poison := mark s.poison w on }

/-- Some word of the n bytes at an address is poisoned. -/
def State.badAt (s : State) (pa n : Nat) : Bool :=
  s.poison.any fun w => decide (pa / 8 ≤ w ∧ w < (pa + n + 7) / 8)

/-- Every word wholly inside the n bytes at an address is good, its flips overwritten; a word only partly covered keeps
its marks. -/
def State.clearBadAt (s : State) (pa n : Nat) : State :=
  let outer := fun w => !decide (pa ≤ 8 * w ∧ 8 * w + 8 ≤ pa + n)
  { s with poison := s.poison.filter outer, flips := s.flips.filter outer }

/-- n bytes at an address become 0, full and good (R131, R434). -/
def State.zero (s : State) (pa n : Nat) : State :=
  { s with mem := s.mem.filter (fun c => !decide (pa ≤ c.1 ∧ c.1 < pa + n)),
           empty := s.empty.filter (fun w => !decide (pa ≤ 8 * w ∧ 8 * w < pa + n)),
           poison := s.poison.filter (fun w => !decide (pa ≤ 8 * w ∧ 8 * w < pa + n)),
           flips := s.flips.filter (fun w => !decide (pa ≤ 8 * w ∧ 8 * w < pa + n)) }

/-- n bytes copied from one place to another with their presence bits and poison marks; the source is read whole
first. Addresses and length are multiples of 8. -/
def State.move (s : State) (dst src n : Nat) : State :=
  let cells := s.mem.filter fun c => decide (src ≤ c.1 ∧ c.1 < src + n)
  let ws := fun (l : List Nat) => l.filter fun w => decide (src ≤ 8 * w ∧ 8 * w < src + n)
  let e := ws s.empty
  let p := ws s.poison
  let s := s.zero dst n
  { s with mem := cells.foldl (fun m c => memSet m (c.1 - src + dst) c.2) s.mem,
           empty := e.foldl (fun l w => mark l (w - src / 8 + dst / 8) true) s.empty,
           poison := p.foldl (fun l w => mark l (w - src / 8 + dst / 8) true) s.poison }

/-- n bytes copied with their poison marks but not their presence bits. -/
def State.moveData (s : State) (dst src n : Nat) : State :=
  let inside := fun w => decide (dst ≤ 8 * w ∧ 8 * w < dst + n)
  let kept := s.empty.filter inside
  let s := s.move dst src n
  let outer := s.empty.filter fun w => !inside w
  { s with empty := kept.foldl (fun l w => mark l w true) outer }

/-! ### Interrupts of the package (R251) -/

/-- A kernel slot: a started slot of team 0 (R252). -/
def Slot.isKernelSlot (sl : Slot) : Bool :=
  decide (sl.team = 0) && decide (sl.status ≠ .idle) && decide (sl.status ≠ .exited)
    && decide (sl.running = .user)

/-- The slot that takes icause c (3 to 6): the lowest in physical order among kernel slots with the cause enabled. -/
def State.irqSlot (s : State) (c : Nat) : Option Nat :=
  (s.slots.find? fun e => e.2.isKernelSlot && decide (e.1 < chanCore0 * 16) && e.2.ien.getLsbD (c - 1)).map (·.1)

/-- Icause c (3 to 6) is raised with its values; the newest values stand (log entry 11). -/
def State.raise (s : State) (c : Nat) (v1 : Word) (v2 : Word := 0) : State :=
  { s with irqs := tset s.irqs c (v1, v2) }

/-- The pending interrupts 1 to 6 of a slot: instants of its own, and those of the package that it takes. -/
def State.pendOf (s : State) (sid : Nat) : List (Nat × Word × Word) :=
  let own := (s.slot sid).instants.map fun e => (e.1, e.2, (0 : Word))
  own ++ s.irqs.filter fun e => s.irqSlot e.1 == some sid

/-- PTP time in nanoseconds: 1.5 cycles of the core clock per nanosecond (R16, R17). -/
def State.ptp (s : State) : Nat := s.ptpBase + s.cycle * 2 / 3

/-- A fault of a slot that cannot take it goes to the kernel as icause 5 (R251). -/
def State.notifyFault (s : State) (coord : Word) (cause : Nat) : State := s.raise 5 coord (BitVec.ofNat 64 cause)

/-- The slot is saved: its team is stopping, and its handler has stored the control block and the pending-reply records
with CTXST (R263; log entry 16). -/
def State.isSaved (s : State) (sid : Nat) : Bool :=
  let sl := s.slot sid
  sl.saved == 3 && (match s.teamOf sl with | some t => t.stop.isSome | none => false)

/-- A trap that a slot takes at its next turn; for a slot that has exited or is saved it becomes icause 5 (R251). -/
def State.later (s : State) (sid : Nat) (t : Trap) : State :=
  let sl := s.slot sid
  if sl.status = .exited ∨ sl.status = .idle ∨ s.isSaved sid = true then s.notifyFault sl.coord t.code
  else s.modSlot sid fun sl => { sl with due := sl.due ++ [t] }

/-! ### Done words (R43) -/

/-- Bits of ERR in the done word. -/
def errBit (n : Nat) : BitVec 12 := 1#12 <<< n

/-- A cluster's done word gathers bits of ERR and a class. -/
def State.gather (s : State) (cluster : Nat) (err : BitVec 12) (cls : Nat) : State :=
  s.modCluster cluster fun c => { c with done := { c.done with err := c.done.err ||| err, cls := max c.done.cls cls } }

/-- The team uses the strict poison policy (R23). -/
def State.strict (s : State) (tid : Nat) : Bool :=
  match s.team? tid with
  | some t => t.flags.getLsbD 2
  | none => false

end Sys2Proof.Machine
end

