-- ==== Sys2Proof/Machine/Network.lean ====
section
/-! DEFINITION. Messages between the network interfaces of packages, and their compression (spec 14 R298, R299). -/

namespace Sys2Proof.Machine

/-! ### Compression (R298, R299) -/

/-- The bytes of a token stream on a dictionary: literals, and matches in the dictionary and the output so far; none for
a distance before the dictionary or a token cut short. `fuel` bounds the tokens. -/
def inflate (dict : List Byte) : Nat → List Byte → List Byte → Option (List Byte)
  | 0, _, out => some out
  | _ + 1, [], out => some out
  | fuel + 1, t :: r, out =>
    if t.toNat < 0x80 then
      if r.length < t.toNat + 1 then none else inflate dict fuel (r.drop (t.toNat + 1)) (out ++ r.take (t.toNat + 1))
    else
      match r with
      | lo :: hi :: r' =>
        let d := (lo.toNat + 256 * hi.toNat) % 4096 + 1
        if 16 ≤ hi.toNat ∨ (dict ++ out).length < d then none
        else inflate dict fuel r' (copyBack d (t.toNat - 0x80 + 4) dict out)
      | _ => none
where
  /-- n bytes appended, each from d bytes back. -/
  copyBack (d : Nat) : Nat → List Byte → List Byte → List Byte
    | 0, _, out => out
    | n + 1, dict, out => copyBack d n dict (out ++ [(dict ++ out).getD ((dict ++ out).length - d) 0])

/-- The dictionary of a peer in a table: its generation and at most 4,096 bytes. -/
def dictOf (t : List (Nat × Nat × List Byte)) (peer : Nat) : Nat × List Byte :=
  match t.find? fun e => e.1 == peer with | some e => e.2 | none => (0, [])

/-- A dictionary set, most recently used last; of 256 the least recently used one goes (R298). -/
def dictSet (t : List (Nat × Nat × List Byte)) (peer : Nat) (d : Nat × List Byte) : List (Nat × Nat × List Byte) :=
  let l := t.filter (fun e => e.1 != peer) ++ [(peer, d)]
  l.drop (l.length - 256)

/-- A dictionary after an accepted message: the last 4,096 bytes. -/
def dictGrow (d : Nat × List Byte) (b : List Byte) : Nat × List Byte :=
  let all := d.2 ++ b
  (d.1, all.drop (all.length - 4096))

/-- A dictionary after a refusal: empty, of the next generation (R299). -/
def dictReset (d : Nat × List Byte) : Nat × List Byte := ((d.1 + 1) % 256, [])

/-- A message that arrives from a peer, compressed when a generation is given: accepted, and its bytes enter the
dictionary; or refused, with the dictionary reset and its generation raised (R298, R299). -/
def State.netMessage (s : State) (peer : Nat) (gen : Option Nat) (payload : List Byte) (len : Nat) (crcOk : Bool) :
    Option (List Byte) × State :=
  let d := dictOf s.dicts peer
  let plain := match gen with
    | none => some payload
    | some k => if k = d.1 then inflate d.2 payload.length payload [] else none
  match plain with
  | some b =>
    if b.length = len ∧ crcOk = true then (some b, { s with dicts := dictSet s.dicts peer (dictGrow d b) })
    else (none, { s with dicts := dictSet s.dicts peer (dictReset d) })
  | none => (none, { s with dicts := dictSet s.dicts peer (dictReset d) })

/-- The form in which a message goes out: compressed on the peer's dictionary when it has 256 bytes or more and a shorter form
is found that gives it back (R298), else as it is. -/
def netForm (d : Nat × List Byte) (b : List Byte) : NetMsg :=
  let c := Config.deflate d.2 b
  if 256 ≤ b.length ∧ c.length < b.length ∧ inflate d.2 c.length c [] = some b then .message (some d.1) c b.length true
  else .message none b b.length true

/-- The first message that waits for a peer goes out. -/
def State.netNext (s : State) (peer : Nat) : State :=
  match s.netOut.find? fun e => e.1 == peer with
  | some e => s.send (.net peer (netForm (dictOf s.sdicts peer) e.2))
  | none => s

/-- A message for a peer's network interface: it goes out once the earlier ones to that peer are accepted, so that both
ends append to the dictionary in one order (R298). -/
def State.netSend (s : State) (peer : Nat) (b : List Byte) : State :=
  let idle := !s.netOut.any fun e => e.1 == peer
  let s := { s with netOut := s.netOut ++ [(peer, b)] }
  if idle then s.netNext peer else s

/-- What a network interface does with a message or an answer from a peer (R298, R299). A refused message is sent again
uncompressed, and the sender's dictionary is reset as the receiver's is. -/
def State.netArrive (s : State) (peer : Nat) (m : NetMsg) : State :=
  match m with
  | .message gen payload len crcOk =>
    match s.netMessage peer gen payload len crcOk with
    | (some b, s) => { s with netIn := s.netIn ++ [(peer, b)] }.send (.net peer .accepted)
    | (none, s) => s.send (.net peer .refused)
  | .accepted =>
    match s.netOut.find? fun e => e.1 == peer with
    | some e =>
      { s with netOut := s.netOut.erase e, sdicts := dictSet s.sdicts peer (dictGrow (dictOf s.sdicts peer) e.2) }.netNext peer
    | none => s
  | .refused =>
    match s.netOut.find? fun e => e.1 == peer with
    | some e =>
      { s with sdicts := dictSet s.sdicts peer (dictReset (dictOf s.sdicts peer)) }.send (.net peer (.message none e.2 e.2.length true))
    | none => s

end Sys2Proof.Machine
end

