-- ==== Sys2Proof/Machine/Holds.lean ====
section
/-! DEFINITION. What a write to HBM sets off before its bytes: the copy of a unit for a running checkpoint, the move of a
page for a running remap, the invalidation of vault copies (spec 06 R130; 11 R243; 13 R284 to R287). -/

namespace Sys2Proof.Machine

/-! ### Checkpoint and remap holds (R243, R284 to R286) -/

/-- The packages of the checkpoint groups, this one first (R287). -/
def State.packages (s : State) : List Nat := s.ownPkg.toNat :: s.group

/-- The package that piece i of a unit lies in: ten distinct ones where there are so many, else as even a spread as the count
allows (R287). -/
def State.piecePkg (s : State) (i : Nat) : Nat := s.packages.getD (i % s.packages.length) 0

/-- The address of piece i of the unit at place k of the reserve memory: the ten pieces of a unit lie on ten of the twelve stacks
(R287). A peer's reserve memory has addresses of the model's own (log entry 96). -/
def State.piecePa (s : State) (k i : Nat) : Nat :=
  let n := 10 * k + i
  let off := n % 12 * s.stackShare + n / 12 * pieceBytes
  if s.piecePkg i = s.ownPkg.toNat then s.reserveBase + off else 2 ^ 56 + s.piecePkg i * 2 ^ 40 + off

/-- Piece i of ten of a unit's 64 KiB of data: eight of data, two of parity (R285). -/
def pieceOf (data : List Byte) (i : Nat) : List Byte :=
  if i < 8 then (data.drop (i * pieceBytes)).take pieceBytes
  else (List.range pieceBytes).map fun b => Config.parityByte data ((i - 8) * pieceBytes + b)

/-- A piece put in its place, or sent to its package (R285). -/
def State.putPiece (s : State) (unit k : Nat) (data : List Byte) (i : Nat) : State :=
  let pa := s.piecePa k i
  let s := if i < 8 then s.moveData pa (unit * 0x10000 + i * pieceBytes) pieceBytes else s.wrBytes pa (pieceOf data i)
  let s := { s with lostPieces := s.lostPieces.filter (· != pa) }
  if s.piecePkg i = s.ownPkg.toNat then s else s.netSend (s.piecePkg i) (pieceOf data i)

/-- The ten pieces of a 64 KiB unit written to place k (R285, R287). -/
def State.writePieces (s : State) (unit k : Nat) : State :=
  let data := s.rdBytes (unit * 0x10000) 0x10000
  (List.range 10).foldl (fun s i => s.putPiece unit k data i) s

/-- Places of units in the reserve memory that a committed or running checkpoint of a team holds (R285, R287). -/
def State.reserveTaken (s : State) : List Nat := s.teams.flatMap fun e => (e.2.ckDone ++ e.2.ckMap).map (·.2)

/-- The lowest free place for a unit's pieces, if the reserve memory has one. -/
def State.reserveFree (s : State) : Option Nat :=
  let taken := s.reserveTaken
  ((List.range (taken.length + 1)).find? fun k => !taken.contains k).bind fun k =>
    if ((10 * k + 9) / 12 + 1) * pieceBytes ≤ s.stackShare then some k else none

/-- A unit of a running checkpoint is copied: it leaves the list of units to copy, and the place of its pieces is
kept until the commit. With no place left, the unit is not copied and stays among those of the next one (R287). -/
def State.copyUnit (s : State) (tid unit : Nat) : State :=
  match s.reserveFree with
  | some k => (s.writePieces unit k).modTeam tid fun t =>
      { t with ckUnits := t.ckUnits.filter (· != unit), ckDone := t.ckDone ++ [(unit, k)] }
  | none => s.modTeam tid fun t =>
      { t with ckUnits := t.ckUnits.filter (· != unit), ckWritten := mark t.ckWritten unit true }

/-- Presence-wait entries of a page go to the channel cores that own their words in `s'`, in their order (R135). -/
def State.moveWaits (s s' : State) (page : Nat) : State :=
  let here := fun (r : PresReq) => r.pa / 0x10000 == page
  let all := s.coreTab.flatMap fun e => if isChan e.1 then e.2.waits.filter here else []
  let cut := fun (e : Nat × CoreSt) =>
    if isChan e.1 then (e.1, { e.2 with waits := e.2.waits.filter fun r => !here r }) else e
  all.foldl (fun (s : State) r => s.modCore (chanCore0 + s.chanOf r.pa) fun k => { k with waits := k.waits ++ [r] })
    { s' with coreTab := s'.coreTab.map cut }

/-- The first usable row of a page that lies in the rows of one bank (R241). -/
def State.rowOf (s : State) (page : Nat) : Option Nat := (s.homes.find? fun e => e.1 == page).bind (·.2.row)

/-- A page that a remap has not yet moved is moved at once; a row-local page is never moved (R241, R243). -/
def State.moveEarly (s : State) (page : Nat) : State :=
  match s.remap with
  | some (v, b, early) =>
    if page < b ∨ early.contains page = true ∨ (s.rowOf page).isSome = true then s
    else s.moveWaits { s with remap := some (v, b, mark early page true) } page
  | none => s

/-- A write reaches an HBM page: a running checkpoint that has not copied it copies it first, a remap that has not
moved it moves it first (R243, R286). -/
def State.holdWrite (s : State) (pa : Nat) : State :=
  let s := s.moveEarly (pa / 0x10000)
  s.teams.foldl (fun s e =>
    if e.2.ckRun && e.2.ckUnits.contains (pa / 0x10000) then s.copyUnit e.1 (pa / 0x10000) else s) s

/-! ### Vault copies (R129, R130) -/

/-- Every vault's copy of a 64-byte HBM line is removed, and fills on their way are not installed. -/
def State.invalidate (s : State) (pa : Nat) : State :=
  { s with clusters := s.clusters.map fun e =>
      (e.1, { e.2 with vcache := mark e.2.vcache (pa / 64) false, vfills := mark e.2.vfills (pa / 64) false }) }

/-- What every write of n bytes to physical memory does beside the bytes: holds, vault copies. -/
def State.beforeWrite (s : State) (pa n : Nat) : State :=
  match ownerOf pa with
  | .hbm => (List.range ((pa + n + 63) / 64 - pa / 64)).foldl (fun s i => s.invalidate ((pa / 64 + i) * 64)) (s.holdWrite pa)
  | _ => s

end Sys2Proof.Machine
end

