-- ==== Sys2Proof/Machine/Operands.lean ====
section
/-! DEFINITION. The operand forms: pointers, team windows, the physical window, translation and its faults; lanes of
vector registers and the predicates that govern them (spec 03 R50, R51, R60 to R63; 06 R126, R127, R136 to R142). -/

namespace Sys2Proof.Machine

/-! ### Illegal operands and levels -/

/-- The word of an instruction, as ktval holds it for cause 2 (R78). -/
def wordOf (i : Instr) : Word := ((encode i).getD 0).zeroExtend 64

/-- Cause 2 for an instruction. -/
def illegalI (i : Instr) : Res := .trap (Trap.sync 2 (wordOf i))

/-- A kernel-level instruction takes cause 2 at task level (R54). -/
def State.kernelOnly (s : State) (i : Instr) (k : Unit → Res) : Outcome :=
  s.finish (if s.me.level = .task then illegalI i else k ())

/-- An instruction that needs a cluster takes cause 2 on a channel core (R228). -/
def State.clusterOnly (s : State) (i : Instr) (k : Unit → Res) : Outcome :=
  s.finish (if isChan s.core then illegalI i else k ())

/-! ### Who makes an access -/

/-- Whose access it is: slot, core, level, address space. `thread` is false for engines and copies (R129, R139). -/
structure Ctx where
  sid    : Nat
  core   : Nat
  level  : Level
  asid   : Word
  ptb    : Word
  team   : Nat
  thread : Bool
deriving DecidableEq, Repr

/-- A thread access of a slot. -/
def State.ctx (s : State) (sid : Nat) : Ctx :=
  let sl := s.slot sid
  { sid := sid, core := coreOf sid, level := sl.level, asid := sl.asid, ptb := sl.ptbase, team := sl.team, thread := true }

/-- An access by the device itself for a team, at kernel level under the team's tables. -/
def Team.ctx (t : Team) (tid : Nat) : Ctx :=
  { sid := 0, core := 0, level := .kernel, asid := t.asid, ptb := t.ptb, team := tid, thread := false }

/-- The cause of an access's direction (R142). -/
def dirCause : Dir → Nat
  | .fetch => 1 | .load => 5 | .store => 7

/-- ktval2 of a translation fault (R142). -/
def detail (reason level : Nat) (eng : Bool := false) : Word :=
  BitVec.ofNat 64 (reason * 16 + level + (if eng then 256 else 0))

/-! ### Pointers and windows (R60 to R62, R127) -/

/-- A remote pointer: bit 63 is set (R60). -/
def isRemote (a : Word) : Bool := a.getLsbD 63
/-- A malformed pointer: bit 63 clear and some of [62:57] set (R60). -/
def isMalformed (a : Word) : Bool := !a.getLsbD 63 && a.extractLsb' 57 6 != 0
/-- An address in the team window range (R61). -/
def inWindows (a : Word) : Bool := decide (0xF000000000 ≤ a.toNat ∧ a.toNat < 0xF800000000)
/-- An address in the physical window: bit 56 set and [55:50] zero (R127). -/
def inPhysWindow (a : Word) : Bool := a.getLsbD 56 && a.extractLsb' 50 6 == 0 && a.extractLsb' 57 7 == 0
/-- The physical address of a physical-window address. -/
def physOf (a : Word) : Nat := a.toNat % 2 ^ 50

/-- Bytes of a cluster's vault that are not read-only cache (R128). -/
def State.vaultExtent (s : State) (cluster : Nat) : Nat := 0x400000 - (s.clusterSt cluster).vcs.toNat * 0x100000

/-- The physical address behind a team-window access of `size` bytes; none outside every valid extent or across the
end of one (R61, R228). -/
def State.window (s : State) (c : Ctx) (a size : Nat) : Option Nat :=
  let fits := fun (base ext pa : Nat) => if base ≤ a ∧ a + size ≤ base + ext then some (pa + (a - base)) else none
  let place := match s.team? c.team with | some t => t.place | none => []
  if a < 0xF100000000 then
    if isChan c.core then fits 0xF000000000 4096 (scratchPa c.sid) else fits 0xF000000000 0x20000 (lsPa c.core)
  else if isChan c.core then none
  else if a < 0xF200000000 then fits 0xF100000000 (s.vaultExtent (clusterOf c.core)) (vaultPa (clusterOf c.core))
  else if a < 0xF400000000 then
    let i := (a - 0xF200000000) / 0x20000
    match place[i / 16]? with
    | some ph => fits (0xF200000000 + i * 0x20000) 0x20000 (lsPa (ph * 16 + i % 16))
    | none => none
  else
    let i := (a - 0xF400000000) / 0x400000
    match place[i]? with
    | some ph => fits (0xF400000000 + i * 0x400000) (s.vaultExtent ph) (vaultPa ph)
    | none => none

/-! ### Translation (R136 to R142) -/

/-- The bits of a page-table entry. -/
def pteV (e : Word) : Bool := e.getLsbD 0
def pteR (e : Word) : Bool := e.getLsbD 1
def pteW (e : Word) : Bool := e.getLsbD 2
def pteX (e : Word) : Bool := e.getLsbD 3
def pteU (e : Word) : Bool := e.getLsbD 4
def pteG (e : Word) : Bool := e.getLsbD 5
def pteA (e : Word) : Bool := e.getLsbD 6
def pteD (e : Word) : Bool := e.getLsbD 7
def pteVC (e : Word) : Bool := e.getLsbD 8
def pteRL (e : Word) : Bool := e.getLsbD 9
def pteCK (e : Word) : Bool := e.getLsbD 10
/-- The table or page address of an entry, bits [49:16]. -/
def ptePa (e : Word) : Nat := (e.extractLsb' 16 34).toNat * 0x10000

/-- The reason a leaf refuses an access, in the order of R138, step 4. -/
def leafRefuses (e : Word) (level : Level) (dir : Dir) (thread : Bool) : Option Nat :=
  if (if level = .task then !pteU e else (dir == .fetch && pteU e)) then some 6
  else if !(match dir with | .load => pteR e | .store => pteW e | .fetch => pteX e) then some 2
  else if dir == .store && pteVC e && thread then some 4
  else none

/-- What an entry at a level is (R138, steps 1 to 3): a next table, a leaf, or the reason the walk ends. -/
inductive PteKind where
  | table (pa : Nat)
  | leaf
  | bad (reason : Nat)
deriving DecidableEq, Repr

/-- Steps 1 to 3 of R138 for an entry read at a level. -/
def pteKind (e : Word) (level : Nat) : PteKind :=
  if !pteV e then .bad 1
  else if !pteR e && !pteW e && !pteX e then
    if e.extractLsb' 4 7 != 0 || level == 2 then .bad 3 else .table (ptePa e)
  else if level == 0 || (!pteR e && pteW e) || e.extractLsb' 11 5 != 0 then .bad 3
  else if level == 1 && e.extractLsb' 16 13 != 0 then .bad 5
  else .leaf

/-- The index of a virtual address at a level (R137). -/
def vaIndex (va : Word) : Nat → Nat
  | 0 => (va.extractLsb' 42 15).toNat
  | 1 => (va.extractLsb' 29 13).toNat
  | _ => (va.extractLsb' 16 13).toNat

/-- A walk from a table at a level: the leaf's address, the leaf and its level, or reason and level (R138). An entry at a
physical address outside every listed range reads as 0, so that the walk ends there with reason 1 (the model's choice, log
entry 88). -/
def State.walkFrom (s : State) (va : Word) : Nat → Nat → Nat → Except (Nat × Nat) (Nat × Word × Nat)
  | 0, level, _ => .error (3, level)
  | fuel + 1, level, table =>
    let pa := table + vaIndex va level * 8
    let e : Word := BitVec.ofNat 64 (s.rd pa 8)
    match pteKind e level with
    | .bad r => .error (r, level)
    | .table t => State.walkFrom s va fuel (level + 1) t
    | .leaf => .ok (pa, e, level)

/-- The L0 table that `ptbase` names: bits [17:0] are taken as zero (R137). -/
def ptRoot (ptb : Word) : Nat := ptb.toNat % 2 ^ 50 / 0x40000 * 0x40000

/-- The page number that a leaf at a level maps. -/
def pageNo (va : Word) (level : Nat) : Nat := (va.extractLsb' 0 57).toNat / (if level = 1 then 2 ^ 29 else 2 ^ 16)

/-- The physical address that a leaf at a level gives. -/
def leafPa (e : Word) (level : Nat) (va : Word) : Nat :=
  ptePa e + va.toNat % (if level = 1 then 2 ^ 29 else 2 ^ 16)

/-- The TLB entry that covers an address for an address space. -/
def tlbFind (t : List TlbEnt) (asid va : Word) : Option TlbEnt :=
  t.find? fun e => (e.global || e.asid == asid) && e.vpn == pageNo va e.level

/-- A TLB with an entry added, at most n entries, the oldest leaving (R140; log entry 13). -/
def tlbAdd (t : List TlbEnt) (e : TlbEnt) (n : Nat) : List TlbEnt :=
  let t := t.filter (fun o => !(o.vpn == e.vpn && o.level == e.level && o.asid == e.asid && o.global == e.global)) ++ [e]
  t.drop (t.length - n)

/-- A walk for an access, with A and D set in an allowed leaf and the entry installed in the TLBs of core and
cluster; or reason and level (R138 to R140). -/
def State.walk (s : State) (c : Ctx) (va : Word) (dir : Dir) : Except (Nat × Nat) (Nat × Word × State) :=
  match s.walkFrom va 3 0 (ptRoot c.ptb) with
  | .error e => .error e
  | .ok (lpa, e, level) =>
    match leafRefuses e c.level dir c.thread with
    | some r => .error (r, level)
    | none =>
      let e' : Word := e ||| 0x40 ||| (if dir == .store then 0x80 else 0)
      let s := if e' = e then s else (s.beforeWrite lpa 8).wr lpa 8 e'.toNat
      let ent : TlbEnt := { asid := c.asid, global := pteG e', vpn := pageNo va level, leaf := e', level := level }
      let s := s.modCore c.core fun k => { k with tlb := tlbAdd k.tlb ent 64 }
      let s := if isChan c.core then s
        else s.modCluster (clusterOf c.core) fun k => { k with tlb := tlbAdd k.tlb ent 1024 }
      .ok (leafPa e' level va, e', s)

/-- Translation through the TLBs, with a walk on a miss, on a refusal, and where A or D must still be set (R140). -/
def State.translate (s : State) (c : Ctx) (va : Word) (dir : Dir) : Except (Nat × Nat) (Nat × Word × State) :=
  let hit := (tlbFind (s.coreSt c.core).tlb c.asid va).or (tlbFind (s.clusterSt (clusterOf c.core)).tlb c.asid va)
  match hit with
  | some e =>
    if (leafRefuses e.leaf c.level dir c.thread).isNone && pteA e.leaf && (dir != .store || pteD e.leaf) then
      .ok (leafPa e.leaf e.level va, e.leaf, s)
    else s.walk c va dir
  | none => s.walk c va dir

/-- Where a local access goes: its physical address and its leaf (0 in a window), or the detail of its fault. -/
structure Hit where
  pa   : Nat
  leaf : Word
  st   : State
deriving DecidableEq, Repr

/-- A local pointer resolved for an access of `size` bytes: team windows, physical window, translation (R61, R62,
R126, R127, R136). An address outside every listed range faults with detail 0 (the model's choice, log entry 88). -/
def State.resolve (s : State) (c : Ctx) (a : Word) (size : Nat) (dir : Dir) : Except Word Hit :=
  if inWindows a then
    match s.window c a.toNat size with
    | some pa => if dir == .fetch && !decide (a.toNat < 0xF100000000) then .error 0
      else .ok { pa := pa, leaf := 0, st := s }
    | none => .error (detail 9 0)
  else if inPhysWindow a then
    if c.level = .task then .error (detail 7 0)
    else if dir == .fetch then .error 0
    else match ownerOf (physOf a) with
      | .none => .error 0
      | .scratch _ => .error 0
      | _ => .ok { pa := physOf a, leaf := 0, st := s }
  else match s.translate c a dir with
    | .error (r, l) => .error (detail r l)
    | .ok (pa, leaf, s') => if ownerOf pa = .none then .error 0 else .ok { pa := pa, leaf := leaf, st := s' }

/-- A thread's pointer resolved, with the trap of its direction: a remote or malformed pointer faults (R60, R63). -/
def State.locate (s : State) (sid : Nat) (a : Word) (size : Nat) (dir : Dir) : Except Trap Hit :=
  if a.extractLsb' 57 7 != 0 then .error (Trap.sync (dirCause dir) a)
  else match s.resolve (s.ctx sid) a size dir with
    | .error d => .error (Trap.sync (dirCause dir) a d)
    | .ok h => .ok h

/-! ### Counters of a team in its save area (R260, R280) -/

/-- The 64 bytes at offset 0x40 of the save area: tflags, poison count, corruption count, load generations. -/
def Team.counters (t : Team) : Nat :=
  t.tflags.toNat + t.poison % 2 ^ 64 * 2 ^ 64 + t.corrupt % 2 ^ 64 * 2 ^ 128
    + 2 ^ 192 * (t.ksfGen.toList.foldr (fun g a => g % 65536 + 65536 * a) 0)

/-- The counters are written where the kernel reads them. -/
def State.publish (s : State) (tid : Nat) : State :=
  match s.team? tid with
  | none => s
  | some t =>
    match s.resolve (t.ctx tid) (t.save + 0x40) 64 .store with
    | .ok h => (h.st.beforeWrite h.pa 64).wr h.pa 64 t.counters
    | .error _ => s

/-- A change of a team's counters. -/
def State.count (s : State) (tid : Nat) (f : Team → Team) : State := (s.modTeam tid f).publish tid

/-- The team's poison count rises (R280). -/
def State.countPoison (s : State) (tid : Nat) : State := s.count tid fun t => { t with poison := t.poison + 1 }

/-- Flags are ORed into the team's tflags (R188). -/
def State.orTflags (s : State) (tid : Nat) (f : BitVec 6) : State := s.count tid fun t => { t with tflags := t.tflags ||| f }

/-- A traveller packet of the team was corrupt (R35, R39). -/
def State.countCorrupt (s : State) (tid : Nat) : State := s.count tid fun t => { t with corrupt := t.corrupt + 1 }

/-! ### Protected ranges (R271, R273) -/

/-- Two ranges share a byte. -/
def Range.meets (a b : Range) : Bool := decide (a.lo < b.hi ∧ b.lo < a.hi)

/-- The addresses, as a context's team writes them, that lead to a byte of local store: own window, team window,
physical window (R61, R127). -/
def State.lsVas (s : State) (c : Ctx) (core off : Nat) : List Nat :=
  let place := match s.team? c.team with | some t => t.place | none => []
  (if core = c.core then [0xF000000000 + off] else [])
    ++ (match place.findIdx? (· == clusterOf core) with
        | some i => [0xF200000000 + (i * 16 + core % 16) * 0x20000 + off]
        | none => [])
    ++ [2 ^ 56 + lsPa core + off]

/-- Physical address of snapshot record r of a core, and whether it is in use: bit 63 of its word at +0x600 (R271). -/
def recPa (core r : Nat) : Nat := lsPa core + 0x1C000 + r * 0x800
def State.recUsed (s : State) (core r : Nat) : Bool := (s.byte (recPa core r + 0x607)).getLsbD 7

/-- n bytes at a physical address meet a snapshot record in use (R271). -/
def State.recordAt (s : State) (pa n : Nat) : Bool :=
  match ownerOf pa with
  | .ls core => (List.range 8).any fun r => (Range.mk pa (pa + n)).meets ⟨recPa core r, recPa core r + 0x800⟩ && s.recUsed core r
  | _ => false

/-- The cores whose local store an address of a context can reach: all through the physical window, else its own and those of
its team (R61, R127). -/
def State.reachable (s : State) (c : Ctx) (a : Word) : List Nat :=
  if inPhysWindow a then List.range chanCore0
  else c.core :: (match s.team? c.team with | some t => t.place | none => []).flatMap fun k => (List.range 16).map (k * 16 + ·)

/-- The first address of [a, a+n), in a footprint, that lies in a snapshot record in use (R271). -/
def State.recordHit (s : State) (c : Ctx) (a : Word) (n : Nat) : Option Nat :=
  let k := a.toNat
  let hits := (s.reachable c a).flatMap fun core => ((List.range 8).filter (s.recUsed core)).flatMap fun i =>
    (s.lsVas c core (0x1C000 + i * 0x800)).filterMap fun lo =>
      if (Range.mk k (k + n)).meets ⟨lo, lo + 0x800⟩ then some (max lo k) else none
  match hits with
  | [] => none
  | o :: os => some (os.foldl min o)

/-- [a, a+n) meets a range that the cluster of an access preserves by reference, compared as written (R273, R369). -/
def State.refHit (s : State) (c : Ctx) (a : Word) (n : Nat) : Bool :=
  (s.clusterSt (clusterOf c.core)).refs.any fun e => e.1.meets ⟨a.toNat, a.toNat + n⟩

/-- The address to report when the footprint [a, a+n) of a copy or command may not be written: the range's own first address
where it meets a range preserved by reference (R179, R273, R369), else the first address in a snapshot record in use. -/
def State.protectedAt (s : State) (c : Ctx) (a : Word) (n : Nat) : Option Word :=
  if s.refHit c a n then some a else (s.recordHit c a n).map fun k => BitVec.ofNat 64 k

/-- A write of n bytes at a virtual address that leads to pa may not be made by a slot, copy or engine of the cluster
(R271, R273). -/
def State.guarded (s : State) (c : Ctx) (a : Word) (pa n : Nat) : Bool := s.refHit c a n || s.recordAt pa n

/-- A thread store's pointer resolved: R61, R127, R138, then the protected ranges with reason 8 (R427). -/
def State.locateStore (s : State) (sid : Nat) (a : Word) (size : Nat) : Except Trap Hit :=
  match s.locate sid a size .store with
  | .error t => .error t
  | .ok h => if s.guarded (s.ctx sid) a h.pa size then .error (Trap.sync 7 a (detail 8 0)) else .ok h

/-! ### Lanes and predicates (R50, R51) -/

/-- Bits of a lane of a type. -/
def laneBits : LaneTy → Nat
  | .f32 | .i32 | .c16 => 32
  | .bf16 | .fp16 | .i16 => 16
  | .i8 | .u8 => 8

/-- Lane i of width w as a number (R50). -/
def lane (v : VWord) (w i : Nat) : Nat := (v.extractLsb' (w * i) w).toNat

/-- A vector from its lanes, lane 0 in the low bits. -/
def ofLanes (w : Nat) : List Nat → VWord
  | [] => 0
  | l :: r => BitVec.ofNat 512 (l % 2 ^ w) ||| (ofLanes w r <<< w)

/-- The predicate bit that governs lane i of width w: one bit for two 8-bit lanes (R51). -/
def laneOn (p : PWord) (w i : Nat) : Bool := if w = 8 then p.getLsbD (i / 2) else p.getLsbD i

/-- The governing predicate of the DV field: 0 is unpredicated (R83). -/
def Slot.gov (sl : Slot) (pred : PReg) : PWord := if pred = 0 then BitVec.allOnes 32 else sl.rp pred

end Sys2Proof.Machine
end

