-- ==== Sys2Proof/Machine/Alu.lean ====
section
/-! DEFINITION. The meanings of the register and immediate ALU instructions, multiply and divide, LUI and AUIPC
(spec 20 R329, R333; 21 R366, R384; 22 R402; 23 R407, R421; 24 R436, R437, R442; 25 R470). None of them traps or sets
a flag (R80). -/

namespace Sys2Proof.Machine

/-- A 12-bit immediate, sign-extended. -/
def sext12 (i : BitVec 12) : Word := i.signExtend 64
/-- The low 32 bits of a register. -/
def low32 (w : Word) : BitVec 32 := w.extractLsb' 0 32
/-- A 32-bit result, sign-extended. -/
def sext32 (w : BitVec 32) : Word := w.signExtend 64
/-- Bits [127:64] of a product. -/
def high64 (p : BitVec 128) : Word := p.extractLsb' 64 64
/-- 1 or 0. -/
def bit (b : Bool) : Word := if b then 1 else 0
/-- A shift amount in bits [5:0]. -/
def shift6 (w : Word) : Nat := (w.extractLsb' 0 6).toNat
/-- A shift amount in bits [4:0]. -/
def shift5 (w : Word) : Nat := (w.extractLsb' 0 5).toNat

/-- Signed quotient: division by zero gives all ones, overflow the dividend (R366). -/
def divS {w : Nat} (a b : BitVec w) : BitVec w :=
  if b = 0 then BitVec.allOnes w else if b = BitVec.allOnes w then -a else a.sdiv b
/-- Unsigned quotient: division by zero gives all ones (R366). -/
def divU {w : Nat} (a b : BitVec w) : BitVec w := if b = 0 then BitVec.allOnes w else a.udiv b
/-- Signed remainder: division by zero gives the dividend, overflow 0 (R421). -/
def remS {w : Nat} (a b : BitVec w) : BitVec w :=
  if b = 0 then a else if b = BitVec.allOnes w then 0 else a.srem b
/-- Unsigned remainder: division by zero gives the dividend (R421). -/
def remU {w : Nat} (a b : BitVec w) : BitVec w := if b = 0 then a else a.umod b

/-- The slot whose turn it is writes a result and retires. -/
def State.alu (s : State) (rd : XReg) (w : Word) : Outcome := .next (s.upd (·.retireX rd w))

/-- ADD (R329). -/
def execAdd (rd rs1 rs2 : XReg) (s : State) : Outcome :=
  s.alu rd (s.me.rx rs1 + s.me.rx rs2)
/-- SUB (R442). -/
def execSub (rd rs1 rs2 : XReg) (s : State) : Outcome :=
  s.alu rd (s.me.rx rs1 - s.me.rx rs2)
/-- SLL (R436). -/
def execSll (rd rs1 rs2 : XReg) (s : State) : Outcome :=
  s.alu rd (s.me.rx rs1 <<< shift6 (s.me.rx rs2))
/-- SLT (R437). -/
def execSlt (rd rs1 rs2 : XReg) (s : State) : Outcome :=
  s.alu rd (bit (BitVec.slt (s.me.rx rs1) (s.me.rx rs2)))
/-- SLTU (R437). -/
def execSltu (rd rs1 rs2 : XReg) (s : State) : Outcome :=
  s.alu rd (bit (BitVec.ult (s.me.rx rs1) (s.me.rx rs2)))
/-- XOR (R470). -/
def execXor (rd rs1 rs2 : XReg) (s : State) : Outcome :=
  s.alu rd (s.me.rx rs1 ^^^ s.me.rx rs2)
/-- SRL (R436). -/
def execSrl (rd rs1 rs2 : XReg) (s : State) : Outcome :=
  s.alu rd (s.me.rx rs1 >>> shift6 (s.me.rx rs2))
/-- SRA (R436). -/
def execSra (rd rs1 rs2 : XReg) (s : State) : Outcome :=
  s.alu rd ((s.me.rx rs1).sshiftRight (shift6 (s.me.rx rs2)))
/-- OR (R407). -/
def execOr (rd rs1 rs2 : XReg) (s : State) : Outcome :=
  s.alu rd (s.me.rx rs1 ||| s.me.rx rs2)
/-- AND (R329). -/
def execAnd (rd rs1 rs2 : XReg) (s : State) : Outcome :=
  s.alu rd (s.me.rx rs1 &&& s.me.rx rs2)
/-- ADDW (R329). -/
def execAddw (rd rs1 rs2 : XReg) (s : State) : Outcome :=
  s.alu rd (sext32 (low32 (s.me.rx rs1) + low32 (s.me.rx rs2)))
/-- SUBW (R442). -/
def execSubw (rd rs1 rs2 : XReg) (s : State) : Outcome :=
  s.alu rd (sext32 (low32 (s.me.rx rs1) - low32 (s.me.rx rs2)))
/-- SLLW (R436). -/
def execSllw (rd rs1 rs2 : XReg) (s : State) : Outcome :=
  s.alu rd (sext32 (low32 (s.me.rx rs1) <<< shift5 (s.me.rx rs2)))
/-- SRLW (R436). -/
def execSrlw (rd rs1 rs2 : XReg) (s : State) : Outcome :=
  s.alu rd (sext32 (low32 (s.me.rx rs1) >>> shift5 (s.me.rx rs2)))
/-- SRAW (R436). -/
def execSraw (rd rs1 rs2 : XReg) (s : State) : Outcome :=
  s.alu rd (sext32 ((low32 (s.me.rx rs1)).sshiftRight (shift5 (s.me.rx rs2))))
/-- MUL (R402). -/
def execMul (rd rs1 rs2 : XReg) (s : State) : Outcome :=
  s.alu rd (s.me.rx rs1 * s.me.rx rs2)
/-- MULH (R402). -/
def execMulh (rd rs1 rs2 : XReg) (s : State) : Outcome :=
  s.alu rd (high64 ((s.me.rx rs1).signExtend 128 * (s.me.rx rs2).signExtend 128))
/-- MULHSU (R402). -/
def execMulhsu (rd rs1 rs2 : XReg) (s : State) : Outcome :=
  s.alu rd (high64 ((s.me.rx rs1).signExtend 128 * (s.me.rx rs2).zeroExtend 128))
/-- MULHU (R402). -/
def execMulhu (rd rs1 rs2 : XReg) (s : State) : Outcome :=
  s.alu rd (high64 ((s.me.rx rs1).zeroExtend 128 * (s.me.rx rs2).zeroExtend 128))
/-- DIV (R366). -/
def execDiv (rd rs1 rs2 : XReg) (s : State) : Outcome :=
  s.alu rd (divS (s.me.rx rs1) (s.me.rx rs2))
/-- DIVU (R366). -/
def execDivu (rd rs1 rs2 : XReg) (s : State) : Outcome :=
  s.alu rd (divU (s.me.rx rs1) (s.me.rx rs2))
/-- REM (R421). -/
def execRem (rd rs1 rs2 : XReg) (s : State) : Outcome :=
  s.alu rd (remS (s.me.rx rs1) (s.me.rx rs2))
/-- REMU (R421). -/
def execRemu (rd rs1 rs2 : XReg) (s : State) : Outcome :=
  s.alu rd (remU (s.me.rx rs1) (s.me.rx rs2))
/-- MULW (R402). -/
def execMulw (rd rs1 rs2 : XReg) (s : State) : Outcome :=
  s.alu rd (sext32 (low32 (s.me.rx rs1) * low32 (s.me.rx rs2)))
/-- DIVW (R366). -/
def execDivw (rd rs1 rs2 : XReg) (s : State) : Outcome :=
  s.alu rd (sext32 (divS (low32 (s.me.rx rs1)) (low32 (s.me.rx rs2))))
/-- DIVUW (R366). -/
def execDivuw (rd rs1 rs2 : XReg) (s : State) : Outcome :=
  s.alu rd (sext32 (divU (low32 (s.me.rx rs1)) (low32 (s.me.rx rs2))))
/-- REMW (R421). -/
def execRemw (rd rs1 rs2 : XReg) (s : State) : Outcome :=
  s.alu rd (sext32 (remS (low32 (s.me.rx rs1)) (low32 (s.me.rx rs2))))
/-- REMUW (R421). -/
def execRemuw (rd rs1 rs2 : XReg) (s : State) : Outcome :=
  s.alu rd (sext32 (remU (low32 (s.me.rx rs1)) (low32 (s.me.rx rs2))))
/-- ADDI (R329). -/
def execAddi (rd rs1 : XReg) (imm : BitVec 12) (s : State) : Outcome :=
  s.alu rd (s.me.rx rs1 + sext12 imm)
/-- SLTI (R437). -/
def execSlti (rd rs1 : XReg) (imm : BitVec 12) (s : State) : Outcome :=
  s.alu rd (bit (BitVec.slt (s.me.rx rs1) (sext12 imm)))
/-- SLTIU (R437). -/
def execSltiu (rd rs1 : XReg) (imm : BitVec 12) (s : State) : Outcome :=
  s.alu rd (bit (BitVec.ult (s.me.rx rs1) (sext12 imm)))
/-- XORI (R470). -/
def execXori (rd rs1 : XReg) (imm : BitVec 12) (s : State) : Outcome :=
  s.alu rd (s.me.rx rs1 ^^^ sext12 imm)
/-- ORI (R407). -/
def execOri (rd rs1 : XReg) (imm : BitVec 12) (s : State) : Outcome :=
  s.alu rd (s.me.rx rs1 ||| sext12 imm)
/-- ANDI (R329). -/
def execAndi (rd rs1 : XReg) (imm : BitVec 12) (s : State) : Outcome :=
  s.alu rd (s.me.rx rs1 &&& sext12 imm)
/-- ADDIW (R329). -/
def execAddiw (rd rs1 : XReg) (imm : BitVec 12) (s : State) : Outcome :=
  s.alu rd (sext32 (low32 (s.me.rx rs1 + sext12 imm)))
/-- SLLI (R436). -/
def execSlli (rd rs1 : XReg) (sh : BitVec 6) (s : State) : Outcome :=
  s.alu rd (s.me.rx rs1 <<< sh.toNat)
/-- SRLI (R436). -/
def execSrli (rd rs1 : XReg) (sh : BitVec 6) (s : State) : Outcome :=
  s.alu rd (s.me.rx rs1 >>> sh.toNat)
/-- SRAI (R436). -/
def execSrai (rd rs1 : XReg) (sh : BitVec 6) (s : State) : Outcome :=
  s.alu rd ((s.me.rx rs1).sshiftRight sh.toNat)
/-- SLLIW (R436). -/
def execSlliw (rd rs1 : XReg) (sh : BitVec 5) (s : State) : Outcome :=
  s.alu rd (sext32 (low32 (s.me.rx rs1) <<< sh.toNat))
/-- SRLIW (R436). -/
def execSrliw (rd rs1 : XReg) (sh : BitVec 5) (s : State) : Outcome :=
  s.alu rd (sext32 (low32 (s.me.rx rs1) >>> sh.toNat))
/-- SRAIW (R436). -/
def execSraiw (rd rs1 : XReg) (sh : BitVec 5) (s : State) : Outcome :=
  s.alu rd (sext32 ((low32 (s.me.rx rs1)).sshiftRight sh.toNat))
/-- LUI (R384). -/
def execLui (rd : XReg) (imm : BitVec 20) (s : State) : Outcome :=
  s.alu rd ((imm ++ 0#12).signExtend 64)
/-- AUIPC (R333). -/
def execAuipc (rd : XReg) (imm : BitVec 20) (s : State) : Outcome :=
  s.alu rd (s.me.pc + (imm ++ 0#12).signExtend 64)

end Sys2Proof.Machine
end

