-- ==== Sys2Proof/Machine/Flags.lean ====
section
/-! DEFINITION. Number formats, exact arithmetic, the one rounding of a result and its flags, conversions, estimates
and dual-exponent blocks (spec 05). -/

namespace Sys2Proof.Machine

/-! ### Flags (R59) -/

def fNX : BitVec 6 := 1
def fUF : BitVec 6 := 2
def fOF : BitVec 6 := 4
def fDZ : BitVec 6 := 8
def fNV : BitVec 6 := 16
def fPO : BitVec 6 := 32

/-- A flag when a condition holds. -/
def fIf (c : Bool) (f : BitVec 6) : BitVec 6 := if c then f else 0

/-! ### Formats and values (R98, R99) -/

/-- An IEEE format: exponent bits and fraction bits. -/
structure Fmt where
  eb : Nat
  fb : Nat
deriving DecidableEq, Repr

def fp32 : Fmt := ⟨8, 23⟩
def bf16 : Fmt := ⟨8, 7⟩
def fp16 : Fmt := ⟨5, 10⟩
def fa56 : Fmt := ⟨10, 45⟩

/-- The bias. -/
def Fmt.bias (f : Fmt) : Nat := 2 ^ (f.eb - 1) - 1
/-- The exponent field of infinities and NaNs. -/
def Fmt.ones (f : Fmt) : Nat := 2 ^ f.eb - 1
/-- The weight of the lowest fraction bit of a subnormal, as a power of two. -/
def Fmt.qmin (f : Fmt) : Int := 1 - (f.bias : Int) - f.fb

/-- A value: NaN, infinity, or (-1)^neg × m × 2^e, with the sign of a zero kept. -/
inductive Num where
  | nan (signalling : Bool)
  | inf (neg : Bool)
  | fin (neg : Bool) (m : Nat) (e : Int)
deriving DecidableEq, Repr

/-- Decoding by IEEE 754 (R99). -/
def decodeF (f : Fmt) (b : Nat) : Num :=
  let neg := b / 2 ^ (f.eb + f.fb) % 2 == 1
  let ex := b / 2 ^ f.fb % 2 ^ f.eb
  let fr := b % 2 ^ f.fb
  if ex = f.ones then (if fr = 0 then .inf neg else .nan (fr / 2 ^ (f.fb - 1) == 0))
  else if ex = 0 then .fin neg fr f.qmin
  else .fin neg (2 ^ f.fb + fr) (f.qmin + (ex - 1 : Nat))

/-- The canonical quiet NaN (R110). -/
def canonNaN (f : Fmt) : Nat := f.ones * 2 ^ f.fb + 2 ^ (f.fb - 1)
/-- The sign bit. -/
def signBit (f : Fmt) (neg : Bool) : Nat := if neg then 2 ^ (f.eb + f.fb) else 0

/-! ### Rounding (R106, R108, R109) -/

/-- The rounding modes by their codes in `rnd`: 0 RNE, 1 RTZ, 2 RDN, 3 RUP. -/
abbrev Mode := Nat

/-- m × 2^-sh rounded to an integer by a mode; and whether it was inexact. -/
def roundShift (mode : Mode) (neg : Bool) (m sh : Nat) : Nat × Bool :=
  let q := m / 2 ^ sh
  let r := m % 2 ^ sh
  let up := match mode with
    | 0 => decide (2 * r > 2 ^ sh) || (decide (2 * r = 2 ^ sh) && q % 2 == 1)
    | 1 => false
    | 2 => neg && r != 0
    | _ => !neg && r != 0
  (if up then q + 1 else q, r != 0)

/-- m × 2^e rounded to a multiple of 2^q, as the multiplier. -/
def roundAt (mode : Mode) (neg : Bool) (m : Nat) (e q : Int) : Nat × Bool :=
  if q ≤ e then (m * 2 ^ (e - q).toNat, false) else roundShift mode neg m (q - e).toNat

/-- The overflowed result of a mode (R108). -/
def overflowed (f : Fmt) (mode : Mode) (neg : Bool) : Nat :=
  let inf := f.ones * 2 ^ f.fb
  let toInf := match mode with
    | 0 => true | 1 => false | 2 => neg | _ => !neg
  signBit f neg + (if toInf then inf else inf - 1)

/-- One rounding of an exact finite value to a format, with OF, UF and NX; tininess is detected after rounding. -/
def roundFin (f : Fmt) (mode : Mode) (neg : Bool) (m : Nat) (e : Int) : Nat × BitVec 6 :=
  if m = 0 then (signBit f neg, 0) else
  let ex : Int := (Nat.log2 m : Int) + e
  let q := max (ex - f.fb) f.qmin
  let (n, inexact) := roundAt mode neg m e q
  let bits := (q - f.qmin).toNat * 2 ^ f.fb + n
  let emin : Int := 1 - (f.bias : Int)
  let tiny := decide (ex < emin)
    && !((roundAt mode neg m e (ex - f.fb)).1 == 2 ^ (f.fb + 1) && decide (ex + 1 = emin))
  if f.ones * 2 ^ f.fb ≤ bits then (overflowed f mode neg, fOF ||| fNX)
  else (signBit f neg + bits, fIf inexact fNX ||| fIf (inexact && tiny) fUF)

/-- One rounding of any value to a format. -/
def roundTo (f : Fmt) (mode : Mode) : Num → Nat × BitVec 6
  | .nan _ => (canonNaN f, 0)
  | .inf neg => (signBit f neg + f.ones * 2 ^ f.fb, 0)
  | .fin neg m e => roundFin f mode neg m e

/-! ### Exact arithmetic (R107, R110, R111) -/

def Num.isSNaN : Num → Bool | .nan s => s | _ => false
def Num.isNaN : Num → Bool | .nan _ => true | _ => false
def Num.isZero : Num → Bool | .fin _ 0 _ => true | _ => false
def Num.isInf : Num → Bool | .inf _ => true | _ => false
def Num.neg? : Num → Bool | .nan _ => false | .inf n => n | .fin n _ _ => n

/-- The value with its sign changed. -/
def Num.negate : Num → Num
  | .nan s => .nan s
  | .inf n => .inf (!n)
  | .fin n m e => .fin (!n) m e
/-- The value with its sign cleared. -/
def Num.abs : Num → Num
  | .nan s => .nan s
  | .inf _ => .inf false
  | .fin _ m e => .fin false m e

/-- The signed integer m scaled to exponent e' ≤ e. -/
def scaled (neg : Bool) (m : Nat) (e e' : Int) : Int := (if neg then -1 else 1) * ((m * 2 ^ (e - e').toNat : Nat) : Int)

/-- Exact sum; an exact zero sum of opposite signs is +0, or -0 under RDN (R111). -/
def numAdd (mode : Mode) (a b : Num) : Num × BitVec 6 :=
  match a, b with
  | .nan s, .nan t => (.nan false, fIf (s || t) fNV)
  | .nan s, _ => (.nan false, fIf s fNV)
  | _, .nan t => (.nan false, fIf t fNV)
  | .inf n, .inf n' => if n = n' then (.inf n, 0) else (.nan false, fNV)
  | .inf n, _ => (.inf n, 0)
  | _, .inf n => (.inf n, 0)
  | .fin n m e, .fin n' m' e' =>
    let lo := min e e'
    let v := scaled n m e lo + scaled n' m' e' lo
    if v = 0 then (.fin (if n = n' then n else decide (mode = 2)) 0 lo, 0)
    else (.fin (decide (v < 0)) v.natAbs lo, 0)

/-- Exact product. -/
def numMul (a b : Num) : Num × BitVec 6 :=
  match a, b with
  | .nan s, .nan t => (.nan false, fIf (s || t) fNV)
  | .nan s, _ => (.nan false, fIf s fNV)
  | _, .nan t => (.nan false, fIf t fNV)
  | .inf n, .inf n' => (.inf (n != n'), 0)
  | .inf n, .fin n' m _ => if m = 0 then (.nan false, fNV) else (.inf (n != n'), 0)
  | .fin n m _, .inf n' => if m = 0 then (.nan false, fNV) else (.inf (n != n'), 0)
  | .fin n m e, .fin n' m' e' => (.fin (n != n') (m * m') (e + e'), 0)

/-- a × b + c with no rounding between. -/
def numFma (mode : Mode) (a b c : Num) : Num × BitVec 6 :=
  let (p, f) := numMul a b
  let (r, g) := numAdd mode p c
  (r, f ||| g)

/-- A result rounded once to a format, with the flags of both steps. -/
def finishF (f : Fmt) (mode : Mode) (r : Num × BitVec 6) : Nat × BitVec 6 :=
  let (b, g) := roundTo f mode r.1
  (b, r.2 ||| g)

/-- a < b for values that are not NaN. -/
def numLt (a b : Num) : Bool :=
  match a, b with
  | .inf n, .inf n' => n && !n'
  | .inf n, .fin _ _ _ => n
  | .fin _ _ _, .inf n => !n
  | .fin n m e, .fin n' m' e' =>
    let lo := min e e'
    decide (scaled n m e lo < scaled n' m' e' lo)
  | _, _ => false

/-- a = b for values that are not NaN. -/
def numEq (a b : Num) : Bool := !a.isNaN && !b.isNaN && !numLt a b && !numLt b a

/-- a comes before b in the order with -0 below +0 (R112). -/
def numBefore (a b : Num) : Bool := numLt a b || (numEq a b && a.isZero && b.isZero && a.neg? && !b.neg?)

/-- VMAX (R112). -/
def numMax (a b : Num) : Num × BitVec 6 :=
  if a.isNaN || b.isNaN then (.nan false, fIf (a.isSNaN || b.isSNaN) fNV)
  else (if numBefore a b then b else a, 0)
/-- VMIN (R112). -/
def numMin (a b : Num) : Num × BitVec 6 :=
  if a.isNaN || b.isNaN then (.nan false, fIf (a.isSNaN || b.isSNaN) fNV)
  else (if numBefore b a then b else a, 0)

/-! ### Integers (R113) -/

/-- Two's complement value of w bits. -/
def toSigned (w n : Nat) : Int := if 2 * n < 2 ^ w then n else (n : Int) - 2 ^ w
/-- The w bits of an integer. -/
def ofInt (w : Nat) (i : Int) : Nat := (i % 2 ^ w).toNat

/-- Bounds of an integer lane type (R113). -/
def intBounds (ty : LaneTy) : Int × Int :=
  match ty with
  | .i32 => (-2147483648, 2147483647)
  | .i16 => (-32768, 32767)
  | .i8 => (-128, 127)
  | _ => (0, 255)

/-- An integer as a value. -/
def Num.ofInt (i : Int) : Num := .fin (decide (i < 0)) i.natAbs 0

/-- Floating to integer (R113): saturation and NaN set NV alone. -/
def toInt (lo hi : Int) (mode : Mode) : Num → Int × BitVec 6
  | .nan _ => (0, fNV)
  | .inf n => (if n then lo else hi, fNV)
  | .fin n m e =>
    let (k, inexact) := roundAt mode n m e 0
    let v : Int := if n then -(k : Int) else k
    if v < lo then (lo, fNV) else if hi < v then (hi, fNV) else (v, fIf inexact fNX)

/-- An integer saturated to bounds, setting NV when it changes (R113). -/
def saturate (lo hi v : Int) : Int × BitVec 6 := if v < lo then (lo, fNV) else if hi < v then (hi, fNV) else (v, 0)

/-! ### Estimates (R114) -/

/-- The format of a floating lane type. -/
def laneFmt : LaneTy → Fmt
  | .f32 => fp32 | .fp16 => fp16 | _ => bf16

/-- a / b rounded to an integer, ties to even. -/
def divNe (a b : Nat) : Nat :=
  let q := a / b
  let r := a % b
  if 2 * r > b ∨ (2 * r = b ∧ q % 2 = 1) then q + 1 else q

/-- Exponent and the top 7 fraction bits of the normalised significand of a finite value that is not 0. -/
def sigTop (m : Nat) (e : Int) : Int × Nat :=
  let l := Nat.log2 m
  ((l : Int) + e, if l ≥ 7 then (m - 2 ^ l) / 2 ^ (l - 7) else (m - 2 ^ l) * 2 ^ (7 - l))

/-- VRCPE before the last rounding. -/
def numRcpe : Num → Num × BitVec 6
  | .nan s => (.nan false, fIf s fNV)
  | .inf n => (.fin n 0 0, 0)
  | .fin n m e =>
    if m = 0 then (.inf n, fDZ) else
    let (x, k) := sigTop m e
    (.fin n (divNe 65536 (257 + 2 * k)) (-8 - x), 0)

/-- VRSQE before the last rounding. -/
def numRsqe : Num → Num × BitVec 6
  | .nan s => (.nan false, fIf s fNV)
  | .inf n => if n then (.nan false, fNV) else (.fin false 0 0, 0)
  | .fin n m e =>
    if m = 0 then (.inf n, fDZ) else if n then (.nan false, fNV) else
    let (x, k) := sigTop m e
    let a := x % 2
    let d := (257 + 2 * k) * 2 ^ a.toNat
    (.fin false ((Nat.sqrt (8192 * 8192 / d) + 1) / 2) (-8 - (x - a) / 2), 0)

/-- rne8 of 2^((2k+1)/256) as a multiple of 2^-7: the count of n from 128 with (2n-1)^256 ≤ 2^(2048+2k+1). -/
def exp2Sig (k : Nat) : Nat :=
  127 + ((List.range 129).filter fun i => decide ((2 * (128 + i) - 1) ^ 256 ≤ 2 ^ (2048 + 2 * k + 1))).length

/-- VEXP2E before the last rounding; -0 is taken as +0. -/
def numExp2e : Num → Num × BitVec 6
  | .nan s => (.nan false, fIf s fNV)
  | .inf n => if n then (.fin false 0 0, 0) else (.inf false, 0)
  | .fin n m e =>
    let big := decide ((Nat.log2 m : Int) + e > 20) && m != 0
    if big then (.fin false 1 (if n then -2000000 else 2000000), 0) else
    -- floor of x and of 128 × x
    let fl := fun (s : Int) => if 0 ≤ e + s then (if n then -1 else 1) * ((m * 2 ^ (e + s).toNat : Nat) : Int)
      else ((if n then -(m : Int) else (m : Int)) / 2 ^ (-(e + s)).toNat)
    let x := fl 0
    let k := (fl 7 - 128 * x).toNat
    (.fin false (exp2Sig k) (x - 7), 0)

/-! ### Element formats of the array (R59, R98, R100 to R104) -/

/-- Codes 3, 4 and 5 are the DX formats. -/
def isDx (code : Nat) : Bool := decide (3 ≤ code ∧ code ≤ 5)
/-- Bits of an element of a format code. -/
def elemBits : Nat → Nat
  | 0 => 32 | 1 => 16 | 2 => 16 | 3 => 8 | 4 => 6 | 5 => 4 | _ => 8
/-- Bytes of n elements of a format code. -/
def elemBytes (code n : Nat) : Nat := n * elemBits code / 8
/-- The IEEE format of codes 0 to 2. -/
def codeFmt : Nat → Fmt
  | 0 => fp32 | 2 => fp16 | _ => bf16

/-- Magnitude bits of a DX element: 6, 4 or 2. -/
def dxMag (code : Nat) : Nat := elemBits code - 2
/-- The table of R101: mmax. -/
def dxMax (code : Nat) : Nat := 2 ^ dxMag code - 1
/-- The table of R101: f. -/
def dxF (code : Nat) : Nat := dxMag code - 1
/-- The table of R101: D. -/
def dxD : Nat → Nat
  | 3 => 4 | 4 => 3 | _ => 2

/-- The value of a DX element with its block's exponents (R101, R102). -/
def decodeDx (code e0 e1 b : Nat) : Num :=
  if e0 = 0xFF ∨ e1 = 0xFF then .nan false else
  let m := b % 2 ^ dxMag code
  let neg := b / 2 ^ dxMag code % 2 == 1
  let ex := if b / 2 ^ (dxMag code + 1) % 2 = 1 then e1 else e0
  if m = 0 then .fin false 0 0 else .fin neg m ((ex : Int) - 127 - dxF code)

/-- The value of an element that is not DX; INT8 is its integer (R100). -/
def decodeElem (code b : Nat) : Num :=
  if code = 6 then Num.ofInt (toSigned 8 b) else decodeF (codeFmt code) b

/-- |x| / 2^q rounded to nearest even. -/
def divPow (m : Nat) (e q : Int) : Nat := (roundAt 0 false m e q).1

/-- Quantising one block of 32 values (R104): E0, E1, elements, flags. -/
def quantise (code : Nat) (xs : List Num) : Nat × Nat × List Nat × BitVec 6 :=
  if xs.any (fun x => x.isNaN || x.isInf) then (0xFF, 0xFF, xs.map fun _ => 0, fNV) else
  let f : Int := dxF code
  let fits := fun (ex : Nat) => xs.all fun x => !numLt (.fin false (dxMax code) ((ex : Int) - 127 - f)) x.abs
  let ovf := !fits 0xFE
  let e1 := if ovf then 0xFE else ((List.range 0xFF).find? fits).getD 0xFE
  let e0 := e1 - dxD code
  let enc := fun (x : Num) => match x with
    | .fin neg m e =>
      let q := divPow m e ((e0 : Int) - 127 - f)
      let (s, k) := if q ≤ dxMax code then (0, q) else (1, min (divPow m e ((e1 : Int) - 127 - f)) (dxMax code))
      let b := s * 2 ^ (dxMag code + 1) + (if k = 0 then 0 else if neg then 2 ^ dxMag code else 0) + k
      (b, fIf (!numEq (decodeDx code e0 e1 b) x) fNX ||| fIf (m != 0 && k == 0) fUF)
    | _ => (0, 0)
  let es := xs.map enc
  (e0, e1, es.map (·.1), es.foldl (fun a x => a ||| x.2) (fIf ovf (fOF ||| fNX)))

/-! ### Sums of the array (R115 to R117) -/

/-- The exact sum of a group of products, with the special values of R117; `r32` rounds each product to FA56 first,
which is when both formats are FP32 (R115). -/
def groupSum (r32 : Bool) (ps : List (Num × Num)) : Num × BitVec 6 :=
  let prods := ps.map fun p =>
    let (x, f) := numMul p.1 p.2
    if r32 then let (b, g) := roundTo fa56 0 x; (decodeF fa56 b, f ||| g) else (x, f)
  let fl := prods.foldl (fun a x => a ||| x.2) 0
  let pos := prods.any fun x => x.1.isInf && !x.1.neg?
  let neg := prods.any fun x => x.1.isInf && x.1.neg?
  if prods.any (fun x => x.1.isNaN) || (pos && neg) then (.nan false, fl ||| fIf (pos && neg) fNV)
  else match prods with
    | [] => (.fin false 0 0, fl)
    | p :: r => (r.foldl (fun a x => (numAdd 0 a x.1).1) p.1, fl)

/-- One group added into an FA56 accumulator (R116). -/
def accGroup (acc : Nat) (g : Num × BitVec 6) : Nat × BitVec 6 :=
  let (sb, f1) := roundTo fa56 0 g.1
  let (r, f2) := finishF fa56 0 (numAdd 0 (decodeF fa56 acc) (decodeF fa56 sb))
  (r, g.2 ||| f1 ||| f2)

/-- One output element from an accumulator and its products, in groups of 32 (R116). -/
def accSum (r32 : Bool) (acc : Nat) : List (List (Num × Num)) → Nat × BitVec 6
  | [] => (acc, 0)
  | g :: gs =>
    let (a, f) := accGroup acc (groupSum r32 g)
    let (r, f') := accSum r32 a gs
    (r, f ||| f')

/-! ### FP32 atomics (R188) -/

/-- AMFADD: RNE; any NaN stores the canonical NaN and sets NV. -/
def amFadd (old b : Nat) : Nat × BitVec 6 :=
  let x := decodeF fp32 old
  let y := decodeF fp32 b
  if x.isNaN || y.isNaN then (canonNaN fp32, fNV) else finishF fp32 0 (numAdd 0 x y)

/-- AMFMAX: -0 below +0; any NaN stores the canonical NaN and sets NV. -/
def amFmax (old b : Nat) : Nat × BitVec 6 :=
  let x := decodeF fp32 old
  let y := decodeF fp32 b
  if x.isNaN || y.isNaN then (canonNaN fp32, fNV) else (if numBefore x y then b else old, 0)

end Sys2Proof.Machine
end

