-- ==== Sys2Proof/Machine/Packets.lean ====
section
/-! DEFINITION. Packets and the network: the bytes of a traveller packet and its CRC, owners and their queues, which words
an access in flight touches and what must wait for it, and the die map that routes packets (spec 01 R12, R14, R20; 02 R35
to R39; 08 R167 to R174; 14 R288, R290). -/

namespace Sys2Proof

/-! ### Bytes of a packet (R35) -/

/-- A number in n bytes, little-endian (R2). -/
def leBytes : Nat → Nat → List Byte
  | 0, _ => []
  | n + 1, v => BitVec.ofNat 8 v :: leBytes n (v / 256)

/-- The number that bytes hold, little-endian (R2). -/
def leNat : List Byte → Nat
  | [] => 0
  | b :: r => b.toNat + 256 * leNat r

/-- Bytes cut or filled with zeros to a length. -/
def fit (n : Nat) (l : List Byte) : List Byte := (l ++ List.replicate n 0).take n

/-- One bit of the IEEE 802.3 CRC-32, least significant bit first. -/
def crcBit (c : BitVec 32) : BitVec 32 := if c.getLsbD 0 then (c >>> 1) ^^^ 0xEDB88320 else c >>> 1

/-- One byte of it. -/
def crcByte (c : BitVec 32) (b : Byte) : BitVec 32 := (List.range 8).foldl (fun c _ => crcBit c) (c ^^^ b.zeroExtend 32)

/-- The CRC-32 of bytes with the IEEE 802.3 polynomial (R35; log entry 43). -/
def crc32 (l : List Byte) : BitVec 32 := l.foldl crcByte 0xFFFFFFFF ^^^ 0xFFFFFFFF

/-- The fifteen words at 0x00 to 0x77 of a traveller packet (R35). -/
def Packet.words (p : Packet) : List Nat :=
  [p.team % 2 ^ 16 + p.gen % 2 ^ 16 * 2 ^ 16 + p.kind % 16 * 2 ^ 32 + p.prio % 16 * 2 ^ 36 + p.cap % 16 * 2 ^ 40,
   p.origin.toNat, p.target.toNat, p.pc.toNat]
    ++ (List.range 8).map (fun i => (p.a.getD i 0).toNat)
    ++ [p.t0.toNat, p.t1.toNat, p.p0.toNat + p.reply.toNat * 2 ^ 32]

/-- Bytes 0x00 to 0x77 of a traveller packet. -/
def Packet.body (p : Packet) : List Byte := p.words.flatMap (leBytes 8)

/-- The CRC that a sender puts into a packet (R35). -/
def Packet.crc (p : Packet) : BitVec 32 := crc32 p.body

/-- The 128 bytes of a traveller packet (R35). -/
def Packet.bytes (p : Packet) : List Byte := p.body ++ leBytes 8 p.crc.toNat

/-- The packet that 128 bytes hold. -/
def Packet.ofBytes (l : List Byte) : Packet :=
  let w := fun (i : Nat) => leNat ((l.drop (8 * i)).take 8)
  let h := w 0
  { team := h % 2 ^ 16, gen := h / 2 ^ 16 % 2 ^ 16, kind := h / 2 ^ 32 % 16, prio := h / 2 ^ 36 % 16, cap := h / 2 ^ 40 % 16,
    origin := BitVec.ofNat 64 (w 1), target := BitVec.ofNat 64 (w 2), pc := BitVec.ofNat 64 (w 3),
    a := (List.range 8).map fun i => BitVec.ofNat 64 (w (4 + i)), t0 := BitVec.ofNat 64 (w 12), t1 := BitVec.ofNat 64 (w 13),
    p0 := BitVec.ofNat 32 (w 14), reply := BitVec.ofNat 32 (w 14 / 2 ^ 32), exitMark := false }

/-! ### Kinds of requests and entries -/

/-- A presence instruction that is posted where its word is not its slot's own (R132, R166). -/
def PresOp.posts (op : PresOp) : Bool := op == .stfl || op == .feput

/-- A presence instruction that changes word or bit (R132). -/
def PresOp.writes (op : PresOp) : Bool := op != .ldfk && op != .feget

/-- Work of the porter on a core: it waits for the core's earlier posted stores (R153). -/
def Event.porterOf : Event → Option Nat
  | .copyBurstDeliver core _ => some core
  | .ksfStreamUnit core _ => some core
  | _ => none

/-- An access that its owner performs as it arrives, without a queue. -/
def Event.direct : Event → Bool
  | .storeAtOwner _ | .loadAtOwner _ | .presenceRequest _ | .presenceRetry _ _ | .remoteAccessArrival _ => true
  | _ => false

end Sys2Proof

namespace Sys2Proof.Machine

/-! ### Senders, coordinates, owners -/

/-- The packet fields that a slot's thread carries (R35). -/
def State.packetOf (s : State) (sid : Nat) (kind : Nat) (target pc : Word) : Packet :=
  let sl := s.slot sid
  let t := s.teamOf sl
  { team := sl.team, gen := (sl.teamid.extractLsb' 16 16).toNat, kind := kind,
    prio := match sl.trav with | some v => v.prio | none => (t.map (·.prio)).getD 0,
    cap := match sl.trav with | some v => v.cap | none => (t.map (·.cap)).getD 0,
    origin := sl.coord, target := target, pc := pc,
    a := (List.range 8).map fun i => sl.rx (BitVec.ofNat 5 (10 + i)), t0 := sl.rx 5, t1 := sl.rx 6,
    p0 := sl.rp 0, reply := 0, exitMark := false }

/-- The packet of an active message, or the implicit frame of a returning atomic: it carries no register of the thread
(R38, R125). -/
def State.activePacket (s : State) (sid : Nat) (va : Word) (a : Active) : Packet :=
  { s.packetOf sid 2 va 0 with a := List.replicate 8 0, t0 := 0, t1 := 0, p0 := 0, act := some a }

/-- The physical slot that a logical coordinate names in a team (R22, R29). -/
def State.slotAt (s : State) (tid : Nat) (coord : Word) : Option Nat :=
  match s.team? tid with
  | none => none
  | some t =>
    let i := (coord.extractLsb' 48 16).toNat * t.c + (coord.extractLsb' 32 16).toNat
    (t.place[i]?).map fun ph => (ph * 16 + (coord.extractLsb' 16 16).toNat % 16) * 16 + (coord.extractLsb' 0 8).toNat % 16

/-- The physical cluster of a coordinate. -/
def State.clusterAt (s : State) (tid : Nat) (coord : Word) : Option Nat :=
  (s.slotAt tid coord).map fun sid => clusterOf (coreOf sid)

/-- The core that runs travellers aimed at an address (R36). -/
def State.ownerCore (s : State) (pa : Nat) : Nat :=
  match ownerOf pa with
  | .ls c => c
  | .vault c => c * 16
  | .hbm => chanCore0 + s.chanOf pa
  | .scratch sid => coreOf sid
  | .none => 0

/-- Vault controllers are numbered from here where an owner is named by a number. -/
def vaultOwner0 : Nat := 10000

/-- The owner of an atomic's or remote update's word: a core, a channel core, or a vault controller (R185, R187). -/
def State.atomOwner (s : State) (pa : Nat) : Nat :=
  match ownerOf pa with
  | .vault c => vaultOwner0 + c
  | _ => s.ownerCore pa

/-- The queue of an owner: a run queue, or a vault controller's 64-entry queue (R37, R187). -/
def State.queueOf (s : State) (owner : Nat) : List RunEnt :=
  if vaultOwner0 ≤ owner then (s.clusterSt (owner - vaultOwner0)).vq else (s.coreSt owner).runq

def State.setQueue (s : State) (owner : Nat) (q : List RunEnt) : State :=
  if vaultOwner0 ≤ owner then s.modCluster (owner - vaultOwner0) fun c => { c with vq := q }
  else s.modCore owner fun c => { c with runq := q }

/-- The packet that an innkeeper or a vault controller is at work on. -/
def State.busyOf (s : State) (owner : Nat) : Option Packet :=
  if vaultOwner0 ≤ owner then (s.clusterSt (owner - vaultOwner0)).vbusy else (s.coreSt owner).busy

def State.setBusy (s : State) (owner : Nat) (p : Option Packet) : State :=
  if vaultOwner0 ≤ owner then s.modCluster (owner - vaultOwner0) fun c => { c with vbusy := p }
  else s.modCore owner fun c => { c with busy := p }

/-- Entries of an owner's queue: 64 at a channel core and a vault controller, 16 at a cluster core (R37, R187). -/
def queueSize (owner : Nat) : Nat := if chanCore0 ≤ owner then 64 else 16

/-- The core whose innkeeper runs an access to its local store for a slot of another core (R125). -/
def innkeeperOf (sid pa : Nat) : Option Nat :=
  match ownerOf pa with
  | .ls c => if c = coreOf sid then none else some c
  | _ => none

/-! ### What an access in flight touches (R167 to R169) -/

/-- The words, first and last, that an access of a core touches; whether it writes; whether its slot goes on before it
is performed. -/
structure Touch where
  core   : Nat
  lo     : Nat
  hi     : Nat
  wr     : Bool
  posted : Bool
deriving DecidableEq, Repr

/-- Two accesses of one core share a word and one of them writes it. -/
def Touch.clash (a b : Touch) : Bool :=
  a.core == b.core && decide (a.lo ≤ b.hi ∧ b.lo ≤ a.hi) && (a.wr || b.wr)

/-- The words of n bytes at an address. -/
def touchOf (core pa n : Nat) (wr posted : Bool) : Touch := ⟨core, pa / 8, (pa + n - 1) / 8, wr, posted⟩

/-- What a request touches. -/
def activeTouch : Active → Option Touch
  | .load r => r.els.head?.map fun e => touchOf (coreOf r.sid) e.1 r.size false false
  | .store r => some (touchOf (coreOf r.sid) r.pa r.size true true)
  | .atom r => some (touchOf (coreOf r.sid) r.pa 8 true r.nr)
  | .pres r => some (touchOf (coreOf r.sid) r.pa 8 r.op.writes r.op.posts)

/-- What a packet in flight or in a queue touches: its request, or the word of a remote update (R39). -/
def State.packetTouch (s : State) (p : Packet) : Option Touch :=
  match p.act with
  | some a => activeTouch a
  | none =>
    if p.kind ≠ 3 then none else
    match s.team? p.team, s.slotAt p.team p.origin with
    | some t, some sid =>
      match s.resolve { t.ctx p.team with core := coreOf sid, sid := sid } p.target 1 .store with
      | .ok h => some (touchOf (coreOf sid) h.pa 1 true true)
      | .error _ => none
    | _, _ => none

/-- The physical address of a remote access to this package (R292, R294). -/
def State.remWord (s : State) (r : RemReq) : Option Nat :=
  if r.pkg ≠ s.ownPkg.toNat then none else
  match s.team? r.team with
  | none => none
  | some t =>
    match s.resolve { t.ctx r.team with level := .task, thread := true } r.addr r.size (if r.store then .store else .load) with
    | .ok h => some h.pa
    | .error _ => none

/-- What a remote access of this package to this package touches. -/
def State.remTouch (s : State) (r : RemReq) : Option Touch :=
  if r.src ≠ s.ownPkg.toNat then none
  else (s.remWord r).map fun pa => touchOf (coreOf r.sid) pa r.size r.store r.store

/-- What an entry of the agenda touches. -/
def State.touch (s : State) : Event → Option Touch
  | .storeAtOwner r => activeTouch (.store r)
  | .loadAtOwner r => activeTouch (.load r)
  | .atomicAtOwner r => activeTouch (.atom r)
  | .presenceRequest r => activeTouch (.pres r)
  | .presenceRetry r _ => activeTouch (.pres r)
  | .travellerArrival p _ _ _ _ => s.packetTouch p
  | .travellerRetry p _ _ _ _ => s.packetTouch p
  | .remoteUpdate p _ => s.packetTouch p
  | .remoteAccessArrival r => s.remTouch r
  | _ => none

/-- Packets that wait in a run queue or a vault controller's queue, or that are being worked on (R37). -/
def State.queued (s : State) : List Packet :=
  (s.coreTab.flatMap fun e => e.2.runq.map (·.p) ++ e.2.busy.toList)
    ++ s.clusters.flatMap fun e => e.2.vq.map (·.p) ++ e.2.vbusy.toList

/-- What those packets touch. -/
def State.queuedTouch (s : State) : List Touch := s.queued.filterMap s.packetTouch

/-- Everything that accesses on their way touch. -/
def State.touches (s : State) : List Touch := s.agenda.filterMap s.touch ++ s.queuedTouch

/-- An access in flight of a core keeps an access of the core to n bytes at an address waiting (R167 to R169). -/
def State.inFlight (s : State) (core pa n : Nat) (wr : Bool) : Bool :=
  s.touches.any (·.clash (touchOf core pa n wr false))

/-! ### Releases and acquires (R174) -/

/-- Some store that the core's slots may have observed is not yet performed at the scope (codes of R164). A store becomes
visible to another core only by being performed at its owner (R170), so scopes 2 to 4 wait alike (log entry 86); at system
scope a store through a window waits for its acknowledgement as well. -/
def State.unreleased (s : State) (core scope : Nat) : Bool :=
  decide (2 ≤ scope) && s.touches.any (fun t => t.core == core && t.posted)
    || (decide (5 ≤ scope) && s.remStores.any fun r => coreOf r.sid == core)

/-- Earlier loads of the slot have not all returned (R174: replies of RLD, RLDV and of atomics included). -/
def Slot.unacquired (sl : Slot) : Bool := !sl.pending.isEmpty

/-- A release at device scope still waits for accesses of the slot whose turn it is. -/
def State.releaseWaits (s : State) : Bool := s.unreleased s.core 4 || s.me.unacquired

/-! ### The die map (R12, R14, R20) -/

/-- The die of a unit behind a physical address, if it lies on a core die; dies from 16 on are identities that a peer
package serves (log entry 68). -/
def dieOfPa (pa : Nat) : Option Nat :=
  if 0x100000000000 ≤ pa ∧ pa < 0x180000000000 then some ((pa - 0x100000000000) / 0x10000000)
  else if 0x200000000000 ≤ pa ∧ pa < 0x280000000000 then some ((pa - 0x200000000000) / 0x10000000)
  else none

/-- The die of an owner given by its number. -/
def dieOfOwner (owner : Nat) : Option Nat :=
  if isChan owner then none
  else if vaultOwner0 ≤ owner ∧ owner < vaultOwner0 + 576 then some ((owner - vaultOwner0) / 64)
  else some (owner / 1024)

/-- The core die of a logical cluster of a team. -/
def State.logicalDie (s : State) (tid cluster : Nat) : Option Nat := ((s.team? tid).bind fun t => t.place[cluster]?).map (· / 64)

/-- The core die that a packet in the agenda goes to. -/
def State.destDie (s : State) : Event → Option Nat
  | .storeAtOwner r => dieOfPa r.pa
  | .loadAtOwner r => r.els.head?.bind fun e => dieOfPa e.1
  | .presenceRequest r => dieOfPa r.pa
  | .presenceRetry r _ => dieOfPa r.pa
  | .travellerArrival _ owner _ _ _ => dieOfOwner owner
  | .travellerRetry _ owner _ _ _ => dieOfOwner owner
  | .homePacketArrival ⟨p, _⟩ => (s.slotAt p.team p.origin).map fun sid => coreOf sid / 1024
  | .messageArrival _ core _ (.hole _) => dieOfOwner core
  | .barrierRootReport t _ cluster _ _ | .barrierPhaseFlip t _ cluster _ => s.logicalDie t cluster
  | _ => none

/-- An entry of the die maps for a logical die, not valid beyond the sixteen (R12). -/
def State.dmapAt (s : State) (die : Nat) : DmapEnt :=
  s.dmap.toList.getD die { gen := 0, pkg := 0, v := false, pdie := 0, held := false }

/-- The logical die that packets to a die carry: the identity it serves; a die that serves none is named by entry 8,
which is not valid (R12; log entry 68). -/
def State.identityOf (s : State) (die : Nat) : Nat :=
  if 16 ≤ die then die - 16
  else (s.dmap.toList.findIdx? fun e => e.v && e.pkg == s.ownPkg && e.pdie.toNat == die).getD 8

/-- What the routers' lookups of a packet's logical die come to. -/
inductive Route where
  | deliver
  | hold
  | drop
  | away (pkg : Nat)
deriving DecidableEq, Repr

/-- The package that a packet between packages goes to (R292, R294). -/
def State.destPkg (s : State) : Event → Option Nat
  | .remoteAccessArrival r => if r.pkg = s.ownPkg.toNat then none else some r.pkg
  | .remoteReplyArrival r _ _ => if r.src = s.ownPkg.toNat then none else some r.src
  | .remoteRejectReport r => if r.src = s.ownPkg.toNat then none else some r.src
  | .remoteStoreAcknowledge r => if r.src = s.ownPkg.toNat then none else some r.src
  | _ => none

/-- What an agenda entry carries: the packet in the network, or itself. -/
def carried : Event → Event
  | .packetRoute _ _ _ e => e
  | e => e

/-- The lookups of a packet (R12, R14, R20): a held entry keeps it at its router, an entry that is not valid drops it, an
entry of a peer package sends it there. -/
def State.route (s : State) (e : Event) : Route :=
  match s.destPkg e with
  | some pkg => .away pkg
  | none =>
    match s.destDie e with
    | none => .deliver
    | some d =>
      let m := s.dmapAt (s.identityOf d)
      if m.held then .hold
      else if !m.v then .drop
      else if m.pkg = s.ownPkg then .deliver
      else .away m.pkg.toNat

/-! ### Order among agenda entries (R153, R167 to R169, R290) -/

/-- The sender of a packet and where it goes: packets of one slot to one owner arrive in issue order (R169, R290). -/
def State.laneOf (s : State) : Event → Option (Nat × Nat)
  | .travellerArrival _ owner sid _ _ => some (sid, owner)
  | .messageArrival _ core hole (.hole _) => some (2 ^ 40 + hole, core)
  | .remoteAccessArrival r => some (2 ^ 41 + r.src * 2 ^ 20 + r.sid, (s.remWord r).elim (2 ^ 50 + r.pkg) s.atomOwner)
  | _ => none

/-- An entry must wait for an earlier one. -/
def State.mustFollow (s : State) (earlier e : Event) : Bool :=
  (match s.touch earlier, s.touch e with
    | some a, some b => a.clash b
    | _, _ => false)
  || (match s.laneOf earlier, s.laneOf e with
    | some a, some b => a == b
    | _, _ => false)
  || (match Event.porterOf e, s.touch earlier with
    | some c, some t => t.core == c && t.posted
    | _, _ => false)

/-- An entry stays where it is: its die's entry is held; an access of its core that waits in a queue goes before it; it is
porter work and posted work of its core waits in a queue; or its pigeonhole is full, as after a resume that delivers logged
messages (R149, R264). -/
def State.holdsBack (s : State) (e : Event) : Bool :=
  s.route (carried e) == .hold
  || (e.direct && (match s.touch e with | some t => s.queuedTouch.any (·.clash t) | none => false))
  || (match Event.porterOf e with
    | some c => s.queuedTouch.any fun t => t.core == c && t.posted
    | none => false)
  || (match e with
    | .messageArrival tid core hole (.hole _) =>
      decide (8 ≤ ((s.coreSt core).holes.toList.getD hole []).length)
        && (match s.team? tid with | some t => t.state == 1 && t.stop.isNone | none => false)
    | _ => false)

end Sys2Proof.Machine
end

