-- ==== Sys2Proof/Machine/Effects.lean ====
section
/-! DEFINITION. Effects that many meanings share: releases and acquires, poison, attributed errors, the performing of a
store at its word's owner with all that hangs on it (spec 06 R129, R130; 08 R165 to R174, R184; 13 R277, R280, R286;
24 R428). -/

namespace Sys2Proof.Machine

/-! ### Attributed errors (R277) -/

/-- The depth of the outermost domain of a list, which begins with the innermost, whose abort has begun by cycle t; 0 for
none. -/
def abortDepth : List Dom → Nat → Nat
  | [], _ => 0
  | d :: ds, t =>
    if abortDepth ds t = 0 then (if d.aborting.isSome && decide (d.abortAt ≤ t) then ds.length + 1 else 0) else abortDepth ds t

/-- The depth of the domain of a serial number, 0 if it is not open. -/
def domDepth : List Dom → Nat → Nat
  | [], _ => 0
  | d :: ds, n => if d.serial = n then ds.length + 1 else domDepth ds n

/-- The depth of the domain, aborting by cycle t, that a domain is or lies in: work of that domain belongs to the aborted
attempt (R278). -/
def Slot.abortedBy (sl : Slot) (serial t : Nat) : Option Nat :=
  let k := abortDepth sl.doms t
  if 0 < k ∧ k ≤ domDepth sl.doms serial then some k else none

/-- An error met in cycle t is attributed to an open domain of a slot: its abort begins, or is held until KRET above task
level (R277). A domain that an abort under way discards or restores takes no further one. The slot issues nothing while a
domain aborts. -/
def State.abortDomAt (s : State) (sid serial reason t : Nat) : State :=
  let sl := s.slot sid
  let n := domDepth sl.doms serial
  if n = 0 then s
  else if sl.level ≠ .task then s.modSlot sid fun sl => { sl with heldAbort := sl.heldAbort ++ [(serial, reason)] }
  else if (sl.abortedBy serial s.cycle).isSome then s
  else (s.modSlot sid fun sl =>
    { sl with doms := sl.doms.map fun d => if d.serial = serial then { d with aborting := some reason, abortAt := t } else d }).post
      (.domainAbort sid n reason)

/-- An error attributed to an open domain of a slot in the present cycle. -/
def State.abortDom (s : State) (sid serial reason : Nat) : State := s.abortDomAt sid serial reason s.cycle

/-- An error met in cycle t is attributed to a slot: to its innermost open domain, if it has one (R277). -/
def State.blameAt (s : State) (sid reason t : Nat) : State :=
  match (s.slot sid).doms with
  | [] => s
  | d :: _ => s.abortDomAt sid d.serial reason t

/-- An error attributed to a slot in the present cycle. -/
def State.blame (s : State) (sid reason : Nat) : State := s.blameAt sid reason s.cycle

/-- What a slot's access to a poisoned word does (R277, R280): the domain aborts; the abort is held because the slot is
above task level, and the word reads as a free value (log entry 5); cause 15; or zero is used with PO set and the event
counted. -/
inductive Poisoned where
  | abort (s : State)
  | held (v : Word) (s : State)
  | trap (t : Trap)
  | zero (s : State)
deriving DecidableEq, Repr

/-- A slot consumes a poisoned word at an address. -/
def State.consume (s : State) (sid : Nat) (va : Word) : Poisoned :=
  let sl := s.slot sid
  if sl.doms ≠ [] then
    if sl.level = .task then .abort ((s.modSlot sid fun sl => { sl with status := .ready }).blame sid 2)
    else let (v, s) := s.fresh; .held v (s.blame sid 2)
  else if s.strict sl.team then .trap (Trap.sync 15 va)
  else .zero ((s.countPoison sl.team).modSlot sid (·.orFlags fPO))

/-! ### Checkpoint marks (R139, R285) -/

/-- A write of a team through a CK mapping is recorded for its next checkpoint (R139, R285). -/
def State.markCk (s : State) (tid : Nat) (va : Word) (pa : Nat) : State :=
  match s.team? tid with
  | none => s
  | some t =>
    if inWindows va || inPhysWindow va then s
    else match s.walkFrom va 3 0 (ptRoot t.ptb) with
      | .ok (_, e, _) =>
        if pteCK e then s.modTeam tid fun t => { t with ckWritten := mark t.ckWritten (pa / 0x10000) true } else s
      | .error _ => s

/-! ### Trace rings (R184, R310) -/

/-- The number of the trace unit that serves an address: a channel core or a vault controller. -/
def State.traceUnit (s : State) (pa : Nat) : Option Nat :=
  match ownerOf pa with
  | .hbm => some (s.chanOf pa)
  | .vault c => some (480 + c)
  | _ => none

/-- A store or atomic of a team that arrives from a core other than the owner is recorded, with its origin, when the team
traces. A unit has one ring (R184, R310). -/
def State.traceFor (s : State) (tid : Nat) (coord : Word) (core pa : Nat) (va : Word) (atomic : Bool) : State :=
  match s.team? tid with
  | none => s
  | some t =>
    if !t.flags.getLsbD 5 || (ownerOf pa == .hbm && s.ownerCore pa == core) then s else
    match s.traceUnit pa with
    | none => s
    | some u =>
      let n := tget 0 s.traceIdx u
      let ring := s.traceBase + u * 0x10040
      let e := ring + n % 4096 * 16
      let s := ((s.beforeWrite e 16).wr e 8 (va.toNat % 2 ^ 57 + (if atomic then 2 ^ 63 else 0))).wr (e + 8) 8 coord.toNat
      let s := { s with traceIdx := tset s.traceIdx u (n + 1) }
      if n < 4096 then s
      else (s.beforeWrite (ring + 0x10000) 4).wr (ring + 0x10000) 4 (s.rd (ring + 0x10000) 4 + 1)

/-- The record of a slot's own store or atomic. -/
def State.trace (s : State) (sid pa : Nat) (va : Word) (atomic : Bool) : State :=
  s.traceFor (s.slot sid).team (s.slot sid).coord (coreOf sid) pa va atomic

/-! ### Performing a store (R124, R428) -/

/-- The low n bytes of a vector's worth of data as a number. -/
def dataNat (d : VWord) (n : Nat) : Nat := d.toNat % 2 ^ (8 * n)

/-- A byte of the host port page that the kernel writes: DH2D, DD2H, CMP and PROD (R304). -/
def kernelByte (off : Nat) : Bool := decide ((0x18 ≤ off ∧ off < 0x28) ∨ (0x30 ≤ off ∧ off < 0x38))

/-- The data of a write as it is performed: in the host port page a store of the kernel changes the kernel's fields
alone, and any other writer nothing (R304). -/
def State.allowed (s : State) (kern : Bool) (pa n v : Nat) : Nat :=
  if pa / 64 = s.hostPage / 64 then
    (List.range n).foldl (fun a i =>
      a + (if kern && kernelByte ((pa + i) % 64) then v / 2 ^ (8 * i) % 256 else (s.byte (pa + i)).toNat) * 2 ^ (8 * i)) 0
  else v

/-- A write of PROD by the kernel sets the host port's engine going (R305). -/
def State.afterPut (s : State) (kern : Bool) (pa n : Nat) : State :=
  if kern && decide (pa < s.hostPage + 0x38 ∧ s.hostPage + 0x34 < pa + n) then s.post .d2hSend else s

/-- n bytes written over good words by the kernel or by another party; words wholly covered become good. -/
def State.putBy (s : State) (kern : Bool) (pa n v : Nat) : State :=
  (((s.beforeWrite pa n).wr pa n (s.allowed kern pa n v)).clearBadAt pa n).afterPut kern pa n

/-- n bytes written by another party than the kernel. -/
def State.put (s : State) (pa n v : Nat) : State := s.putBy false pa n v

/-- A thread's write is the kernel's: a thread of team 0, or one at kernel level in the physical window (R127, R304; log
entry 87). -/
def kernelWrites (tid : Nat) (va : Word) : Bool := tid == 0 || inPhysWindow va

/-- A state after a page operation on n bytes at an address, with the host port page's bytes as they were (R304). -/
def State.keepHost (s t : State) (pa n : Nat) : State :=
  if pa ≤ s.hostPage ∧ s.hostPage + 64 ≤ pa + n then t.wr s.hostPage 64 (s.rd s.hostPage 64) else t

/-- n bytes of a page operation or a SCRUB become 0, full and good, but for the host port page (R131, R304, R434). -/
def State.zeroPage (s : State) (pa n : Nat) : State := s.keepHost ((s.beforeWrite pa n).zero pa n) pa n

/-! ### Correctable flips (R281) -/

/-- The key of a unit of a scope of R253 in the stewards' log. -/
def unitKey (scope unit : Nat) : Nat := scope * 2 ^ 16 + unit

/-- An event of a unit enters the stewards' log with its time (R281). -/
def State.logUnit (s : State) (scope unit : Nat) : State :=
  { s with unitLog := tset s.unitLog (unitKey scope unit) (tget [] s.unitLog (unitKey scope unit) ++ [s.ptp]) }

/-- Events of a unit within the stewards' window (R253). -/
def State.rateCount (s : State) (scope unit : Nat) : Nat :=
  ((tget [] s.unitLog (unitKey scope unit)).filter fun t => decide (s.ptp ≤ t + Config.rateWindow * 1000000)).length

/-- A steward notice of kind 10 about a unit: its events in the window, and the window (R253). -/
def State.tellRate (s : State) (scope unit : Nat) : State :=
  s.post (.stewardNotice
    { kind := 10, scope := scope, unit := unit, team := 0, arg0 := BitVec.ofNat 64 (s.rateCount scope unit),
      arg1 := BitVec.ofNat 64 Config.rateWindow })

/-- An event that counts toward its unit's rate threshold: one that passes it is told (R253, R281). -/
def State.logRate (s : State) (scope unit : Nat) : State :=
  let s := s.logUnit scope unit
  if s.rateCount scope unit = Config.rateLimit + 1 then s.tellRate scope unit else s

/-- The unit that holds a word, as scope and number of R253. -/
def State.unitOf (s : State) (pa : Nat) : Nat × Nat :=
  match ownerOf pa with
  | .hbm => (4, s.chanOf pa)
  | .vault c => (2, c * 16)
  | .ls c => (3, c)
  | .scratch sid => (4, coreOf sid - chanCore0)
  | .none => (0, 0)

/-- A corrected error attributed to a slot: `errc` saturating, and ERR bit 6 with class 1 in its cluster's done word
(R43, R281). -/
def State.countCorrected (s : State) (sid : Nat) : State :=
  let s := s.modSlot sid fun sl => { sl with errc := if sl.errc = BitVec.allOnes 32 then sl.errc else sl.errc + 1 }
  if isChan (coreOf sid) then s else s.gather (clusterOf (coreOf sid)) (errBit 6) 1

/-- SINGLE_BIT_CORRECTION (R281): flips in the words of n bytes at an address are corrected, for the slot that read
them. -/
def State.correctAt (s : State) (sid pa n : Nat) : State :=
  if s.flips.isEmpty then s
  else
    let here := fun w => decide (pa / 8 ≤ w ∧ w < (pa + n + 7) / 8)
    (s.flips.filter here).foldl (fun (s : State) w =>
      ({ s with flips := mark s.flips w false }.countCorrected sid).logRate (s.unitOf (8 * w)).1 (s.unitOf (8 * w)).2) s

/-- A narrow store to a poisoned word under a team's poison policy: it merges into 0 under the lenient one, counting the event in
tflags, and leaves the word under the strict one, telling the kernel the coordinate of the storing slot (R428). -/
def State.storeBad (s : State) (tid : Nat) (coord : Word) (pa n : Nat) (d : VWord) (va : Word) : State :=
  if s.strict tid then s.notifyFault coord 15
  else
    let s := (s.countPoison tid).orTflags tid fPO
    let v := s.allowed (kernelWrites tid va) pa n (dataNat d n)
    (((s.beforeWrite pa n).wr (pa / 8 * 8) 8 0).setBad (pa / 8) false).wr pa n v

/-- A store of a team's data performed at its word's owner (R428). -/
def State.storeIn (s : State) (tid : Nat) (coord : Word) (pa n : Nat) (d : VWord) (va : Word) : State :=
  let s := s.markCk tid va pa
  if n < 8 ∧ s.bad (pa / 8) then s.storeBad tid coord pa n d va
  else s.putBy (kernelWrites tid va) pa n (dataNat d n)

/-- A posted store performed at its word's owner (R183, R428). A narrow one that meets a poisoned word while its slot has a
domain open aborts the domain and writes nothing (R277). -/
def State.perform (s : State) (r : StoreReq) : State :=
  let sl := s.slot r.sid
  let s := s.trace r.sid r.pa r.va false
  if r.size < 8 ∧ s.bad (r.pa / 8) ∧ sl.doms ≠ [] then s.blame r.sid 2
  else s.storeIn sl.team sl.coord r.pa r.size r.data r.va

/-! ### Replies that reach a slot, and its frame once CTXST has stored it (R263 step 7, R359) -/

/-- A reply for a pending register is written into its record of the frame that CTXST stored, whose outstanding bit is
cleared; an RLDV reply goes into the frame's image of its register. With no value the record becomes invalid. -/
def State.frameReply (s : State) (sid : Nat) (p : PendRep) (v : Option VWord) : State :=
  match (s.slot sid).frame with
  | none => s
  | some (pa, recs) =>
    match recs.findIdx? (· == p) with
    | none => s
    | some i =>
      let at' := pa + 0x600 + 16 * i
      let s := match v with
        | none => s.put at' 8 0
        | some w =>
          let s := (s.put at' 8 (2 ^ 63 + p.kind * 256 + p.dest)).put (at' + 8) 8 (w.toNat % 2 ^ 64)
          if p.kind = 2 then s.put (pa + 0x200 + 64 * (p.dest - 32)) 64 w.toNat else s
      s.modSlot sid fun sl => { sl with frame := some (pa, recs.set i ⟨0, 0⟩) }

/-- Flags delivered to a slot by a copy or an atomic: into fflags, and into the frame that CTXST stored (R155, R263). -/
def State.giveFlags (s : State) (sid : Nat) (f : BitVec 6) : State :=
  let s := s.modSlot sid (·.orFlags f)
  match (s.slot sid).frame with
  | none => s
  | some (pa, _) => if f = 0 then s else s.put (pa + 0x148) 8 ((BitVec.ofNat 64 (s.rd (pa + 0x148) 8) ||| f.zeroExtend 64).toNat)

end Sys2Proof.Machine
end

