-- ==== Sys2Proof/Machine/Window.lean ====
section
/-! DEFINITION. The sender's side of remote accesses: window table entries, the checks of R293, and the sending of a
request (spec 03 R63; 14 R292, R293, R295). -/

namespace Sys2Proof.Machine

/-- An entry of a window table (R292). -/
structure WinEnt where
  base  : Word
  limit : Nat
  pkg   : Nat
  team  : Nat
  key   : Nat
  v     : Bool
  rd    : Bool
  wr    : Bool
  mc    : Bool
  nmem  : Nat
  zeroOk : Bool
deriving DecidableEq, Repr

/-- Entry h of the table at `winb`, read untranslated; bits [4:0] and [63:50] of the base are ignored (R292). -/
def State.winEntry (s : State) (winb : Word) (h : Nat) : WinEnt :=
  let pa := winb.toNat % 2 ^ 50 / 32 * 32 + 32 * h
  let w0 : Word := BitVec.ofNat 64 (s.rd pa 8)
  let w1 : Word := BitVec.ofNat 64 (s.rd (pa + 8) 8)
  let w2 : Word := BitVec.ofNat 64 (s.rd (pa + 16) 8)
  let w3 : Word := BitVec.ofNat 64 (s.rd (pa + 24) 8)
  { base := w0 &&& BitVec.ofNat 64 (2 ^ 57 - 1), limit := (w1.extractLsb' 0 47).toNat,
    pkg := (w2.extractLsb' 0 16).toNat, team := (w2.extractLsb' 16 16).toNat, key := (w2.extractLsb' 32 32).toNat,
    v := w3.getLsbD 0, rd := w3.getLsbD 1, wr := w3.getLsbD 2, mc := w3.getLsbD 3,
    nmem := (w3.extractLsb' 8 7).toNat,
    zeroOk := w0.extractLsb' 57 7 == 0 && w1.extractLsb' 47 17 == 0 && w3.extractLsb' 4 4 == 0
      && w3.extractLsb' 15 49 == 0 && (w3.getLsbD 3 || w3.extractLsb' 8 7 == 0) }

/-- The handle of a remote pointer (R60). -/
def ptrHandle (a : Word) : Nat := (a.extractLsb' 47 16).toNat
/-- The offset of a remote pointer (R60). -/
def ptrOff (a : Word) : Nat := (a.extractLsb' 0 47).toNat

/-- The sender's check of an access of `size` bytes at an offset through handle h (R293). -/
def State.senderOk (s : State) (sl : Slot) (h off size : Nat) (store mc : Bool) : Bool :=
  let e := s.winEntry sl.winbase h
  h != 0 && decide (h < sl.winlen.toNat) && e.v && e.zeroOk && (if store then e.wr else e.rd) && (e.mc == mc)
    && decide (off + size ≤ e.limit)

/-- The request of an access through handle h. -/
def State.remReq (s : State) (sid : Nat) (u : RemUse) (h off size : Nat) (store : Bool) (data : VWord) (ptr : Word) :
    RemReq :=
  let e := s.winEntry (s.slot sid).winbase h
  { src := s.ownPkg.toNat, sid := sid, use := u, pkg := e.pkg, team := e.team, key := e.key, addr := e.base + BitVec.ofNat 64 off,
    size := size, store := store, data := data, ptr := ptr }

/-- A packet enters the network of the package on an adaptive channel of its class; which of the four is left open (R288;
log entry 5). -/
def State.inject (s : State) (reply : Bool) (e : Event) : State :=
  let (v, s) := s.fresh
  s.post (.packetRoute { reply := reply, vc := v.toNat % 4, up := 0 } 0 false e)

/-- Places for replies of the fabric that a core has reserved (R288). -/
def State.reserve (s : State) (r : RemReq) (f : Nat → Nat) : State :=
  if r.pkg = s.ownPkg.toNat then s else s.modCore (coreOf r.sid) fun k => { k with reserved := f k.reserved }

/-- A request leaves: to the own package's hub, or into the network with a place reserved for its reply (R288); a store is
outstanding until its acknowledgement (R174, R295). -/
def State.sendRem (s : State) (r : RemReq) : State :=
  let s := if r.store then { s with remStores := s.remStores ++ [r] } else s
  if r.pkg = s.ownPkg.toNat then s.post (.remoteAccessArrival r)
  else (s.reserve r (· + 1)).inject false (.remoteAccessArrival r)

/-- A load or store given a remote pointer (R63): the sender's check, the request, and the slot parked for the reply
or the acknowledgement. -/
def State.remoteAccess (s : State) (a : Word) (size : Nat) (store : Bool) (data : VWord) (u : RemUse) : Res :=
  if s.senderOk s.me (ptrHandle a) (ptrOff a) size store false then
    .done ((s.sendRem (s.remReq s.sid u (ptrHandle a) (ptrOff a) size store data a)).upd (·.parkOn .reply))
  else .trap (Trap.sync 10 a)

end Sys2Proof.Machine
end

