-- ==== Sys2Proof/Machine/Memory.lean ====
section
/-! DEFINITION. The meanings of scalar loads and stores, VLD and VST, of the served load and the performed store, and
of the fences (spec 03 R60 to R63; 06 R122 to R124; 08 R165 to R174; 21 R375, R382; 24 R427, R428, R433; 25 R463). -/

namespace Sys2Proof.Machine

/-- Own storage: the local store of the slot's core, or its own scratch on a channel core (R32, R228). -/
def isOwn (sid pa : Nat) : Bool :=
  match ownerOf pa with
  | .ls c => c == coreOf sid
  | .scratch k => k == sid
  | _ => false

/-- The value that a load of n bytes delivers to an x register. -/
def extend (n v : Nat) (signed : Bool) : Word :=
  if signed then BitVec.ofInt 64 (toSigned (8 * n) (v % 2 ^ (8 * n))) else BitVec.ofNat 64 (v % 2 ^ (8 * n))

/-- A loaded value goes to its destination. -/
def Slot.deliver (sl : Slot) (dst : LoadDst) (n v : Nat) : Slot :=
  match dst with
  | .scalar rd signed => sl.wx rd (extend n v signed)
  | .vector vd => sl.wv vd (BitVec.ofNat 512 v)

/-- n bytes at an address with poisoned words read as zero (R280). -/
def State.rdClean (s : State) (pa n : Nat) : Nat :=
  if s.badAt pa n then
    (List.range n).foldl (fun a i => a + (if s.bad ((pa + i) / 8) then 0 else (s.byte (pa + i)).toNat * 2 ^ (8 * i))) 0
  else s.rd pa n

/-- One element read for a slot: its value, or none where poison aborts a domain or traps (R277, R280). -/
def State.readElem (s : State) (sid pa size : Nat) (va : Word) : State × Option Nat :=
  let s := s.correctAt sid pa size
  if s.badAt pa size then
    match s.consume sid va with
    | .abort s => (s, none)
    | .trap t => (s.modSlot sid (·.enter t), none)
    | .held v s' => (s', some (v.toNat % 2 ^ (8 * size)))
    | .zero s' => (s', some (s.rdClean pa size))
  else (s, some (s.rd pa size))

/-- A request after one more element. -/
def takeElem (r : LoadReq) (v : Nat) : LoadReq :=
  { r with els := r.els.drop 1, got := r.got + v * 2 ^ (8 * r.size * r.n), n := r.n + 1 }

/-- The load is complete: its value goes to the destination and the instruction at pc retires. -/
def State.loadDone (s : State) (r : LoadReq) : State :=
  s.modSlot r.sid fun sl => (sl.deliver r.dst r.size r.got).retire

/-- Every element read at once, as from the own local store within the turn. -/
def State.loadAll (s : State) (r : LoadReq) : List (Nat × Word) → State
  | [] => s.loadDone r
  | (pa, va) :: els =>
    match s.readElem r.sid pa r.size va with
    | (s, none) => s
    | (s, some v) => State.loadAll s (takeElem r v) els

/-- A load from a VC page looks in the own cluster's cache; a miss fills the line (R129). -/
def State.vcLoad (s : State) (sid : Nat) (h : Hit) : State :=
  let cl := clusterOf (coreOf sid)
  if pteVC h.leaf && !isChan (coreOf sid) && ownerOf h.pa == .hbm && decide ((s.clusterSt cl).vcs.toNat ≠ 0)
      && !(s.clusterSt cl).vcache.contains (h.pa / 64) then
    (s.modCluster cl fun c => { c with vfills := mark c.vfills (h.pa / 64) true }).post (.vaultCacheFill cl (h.pa / 64))
  else s

/-- A request goes to its word's owner: to another core's local store as an active message for that core's innkeeper
(R125), to any other owner as it is. -/
def State.request (s : State) (sid pa : Nat) (va : Word) (a : Active) (e : Event) : State :=
  match innkeeperOf sid pa with
  | some c =>
    let p := s.activePacket sid va a
    s.post (.travellerArrival p c sid 0 p.crc)
  | none => s.post e

/-- The next element of a load goes to its owner. -/
def State.sendLoad (s : State) (r : LoadReq) : State :=
  match r.els with
  | (pa, va) :: _ => s.request r.sid pa va (.load r) (.loadAtOwner r)
  | [] => s.post (.loadAtOwner r)

/-- A store goes to its word's owner. -/
def State.sendStore (s : State) (r : StoreReq) : State := s.request r.sid r.pa r.va (.store r) (.storeAtOwner r)

/-- A load of n bytes: alignment, pointer, then the own local store within the turn, once no access of the core to its
words is on its way (R168); anything else through its owner while the slot parks (R122, R382, R463). -/
def State.loadRes (s : State) (a : Word) (n : Nat) (dst : LoadDst) (u : RemUse) : Res :=
  if a.toNat % n ≠ 0 then .trap (Trap.sync 4 a)
  else if isRemote a then s.remoteAccess a n false 0 u
  else match s.locate s.sid a n .load with
    | .error t => .trap t
    | .ok h =>
      let r : LoadReq := { sid := s.sid, els := [(h.pa, a)], size := n, dst := dst, got := 0, n := 0 }
      if isOwn s.sid h.pa then
        if s.inFlight s.core h.pa n false then .park false else .done (h.st.loadAll r r.els)
      else .done (((h.st.vcLoad s.sid h).sendLoad r).upd (·.parkOn .reply))

/-- The slot whose turn it is stores to its own local store within the turn; a narrow store to a poisoned word follows
R277 and R428. -/
def State.storeOwn (s : State) (h : Hit) (a : Word) (n : Nat) (data : VWord) : Res :=
  if n < 8 ∧ s.bad (h.pa / 8) then
    match s.consume s.sid a with
    | .abort s => .done s
    | .trap t => .trap t
    | .held v s => (((s.wr (h.pa / 8 * 8) 8 v.toNat).setBad (h.pa / 8) false).wr h.pa n (dataNat data n)).ret
    | .zero s => (((s.wr (h.pa / 8 * 8) 8 0).setBad (h.pa / 8) false).wr h.pa n (dataNat data n)).ret
  else (s.put h.pa n (dataNat data n)).ret

/-- A store of n bytes: alignment, pointer, protection, then the own local store within the turn, once no access of the
core to its words is on its way (R168); anything else posted (R166, R427, R463). -/
def State.storeRes (s : State) (a : Word) (n : Nat) (data : VWord) : Res :=
  if a.toNat % n ≠ 0 then .trap (Trap.sync 6 a)
  else if isRemote a then s.remoteAccess a n true data .waitS
  else match s.locateStore s.sid a n with
    | .error t => .trap t
    | .ok h =>
      if isOwn s.sid h.pa then
        if s.inFlight s.core h.pa n true then .park false else h.st.storeOwn h a n data
      else (h.st.sendStore { sid := s.sid, pa := h.pa, size := n, data := data, va := a }).ret

/-- A scalar load instruction. -/
def State.scalarLoad (s : State) (rd rs1 : XReg) (imm : BitVec 12) (n : Nat) (signed : Bool) : Outcome :=
  s.finish (s.loadRes (s.me.rx rs1 + sext12 imm) n (.scalar rd signed) (.waitX rd signed))

/-- A scalar store instruction. -/
def State.scalarStore (s : State) (rs2 rs1 : XReg) (imm : BitVec 12) (n : Nat) : Outcome :=
  s.finish (s.storeRes (s.me.rx rs1 + sext12 imm) n ((s.me.rx rs2).zeroExtend 512))

/-- LB (R382). -/
def execLb (rd rs1 : XReg) (imm : BitVec 12) (s : State) : Outcome := s.scalarLoad rd rs1 imm 1 true
/-- LH (R382). -/
def execLh (rd rs1 : XReg) (imm : BitVec 12) (s : State) : Outcome := s.scalarLoad rd rs1 imm 2 true
/-- LW (R382). -/
def execLw (rd rs1 : XReg) (imm : BitVec 12) (s : State) : Outcome := s.scalarLoad rd rs1 imm 4 true
/-- LD (R382). -/
def execLd (rd rs1 : XReg) (imm : BitVec 12) (s : State) : Outcome := s.scalarLoad rd rs1 imm 8 false
/-- LBU (R382). -/
def execLbu (rd rs1 : XReg) (imm : BitVec 12) (s : State) : Outcome := s.scalarLoad rd rs1 imm 1 false
/-- LHU (R382). -/
def execLhu (rd rs1 : XReg) (imm : BitVec 12) (s : State) : Outcome := s.scalarLoad rd rs1 imm 2 false
/-- LWU (R382). -/
def execLwu (rd rs1 : XReg) (imm : BitVec 12) (s : State) : Outcome := s.scalarLoad rd rs1 imm 4 false
/-- SB (R427). -/
def execSb (rs2 rs1 : XReg) (imm : BitVec 12) (s : State) : Outcome := s.scalarStore rs2 rs1 imm 1
/-- SH (R427). -/
def execSh (rs2 rs1 : XReg) (imm : BitVec 12) (s : State) : Outcome := s.scalarStore rs2 rs1 imm 2
/-- SW (R427). -/
def execSw (rs2 rs1 : XReg) (imm : BitVec 12) (s : State) : Outcome := s.scalarStore rs2 rs1 imm 4
/-- SD (R427). -/
def execSd (rs2 rs1 : XReg) (imm : BitVec 12) (s : State) : Outcome := s.scalarStore rs2 rs1 imm 8
/-- VLD (R463). -/
def execVld (vd : VReg) (rs1 : XReg) (s : State) : Outcome :=
  s.finish (s.loadRes (s.me.rx rs1) 64 (.vector vd) (.waitV vd))
/-- VST (R463). -/
def execVst (vs2 : VReg) (rs1 : XReg) (s : State) : Outcome :=
  s.finish (s.storeRes (s.me.rx rs1) 64 (s.me.rv vs2))

/-- STORE_AT_OWNER (R183): a posted store is performed at its word's owner, in the order of arrival there. -/
def execStoreAtOwner (r : StoreReq) (s : State) : Outcome := .next (s.perform r)

/-- The next element of a parked slot's load is served at its owner; after the last the slot goes on. -/
def State.serveLoad (s : State) (r : LoadReq) : State :=
  if (s.slot r.sid).status = .parked .reply then
    match r.els with
    | [] => s.loadDone r
    | (pa, va) :: els =>
      match s.readElem r.sid pa r.size va with
      | (s, none) => s
      | (s, some v) => if els = [] then s.loadDone (takeElem r v) else s.sendLoad (takeElem r v)
  else s

/-- LOAD_AT_OWNER (R122): the next element of a load is served; after the last the slot goes on. -/
def execLoadAtOwner (r : LoadReq) (s : State) : Outcome := .next (s.serveLoad r)

/-- VAULT_CACHE_FILL (R130): the line is installed unless an invalidation of it has begun since. The cache holds at
most VCS MiB of lines. -/
def execVaultCacheFill (cluster line : Nat) (s : State) : Outcome :=
  let c := s.clusterSt cluster
  .next (if c.vfills.contains line then
      s.modCluster cluster fun c =>
        let kept := if c.vcache.length < c.vcs.toNat * 0x4000 then c.vcache else c.vcache.drop 1
        { c with vfills := mark c.vfills line false, vcache := mark kept line true }
    else s)

/-- The wait of a fence of a kind at a scope: acquire waits for earlier loads, release for earlier accesses; slot and
core scope retire at once (R174). -/
def State.fenceWaits (s : State) (acq rel : Bool) (scope : Nat) : Bool :=
  decide (2 ≤ scope) && ((acq && s.me.unacquired) || (rel && (s.me.unacquired || s.unreleased s.core scope)))

/-- FENCE (R80, R375): a full fence at device scope, whatever its fields. -/
def execFence (_rd _rs1 : XReg) (_imm : BitVec 12) (s : State) : Outcome :=
  s.finish (if s.fenceWaits true true 4 then .park true else s.ret)

/-- SCOPEF (R174, R433). -/
def execScopef (kind : BitVec 2) (scope : BitVec 3) (s : State) : Outcome :=
  s.finish (if s.fenceWaits (kind == 0 || kind == 2) (kind == 1 || kind == 2) scope.toNat then .park true else s.ret)

/-- FENCE_I (R375): it waits until earlier stores are performed, so that fetch reads them; follow mode ends for the slot and
its followers; a channel core's fetch lines of the ASID are emptied (R229). -/
def execFenceI (_rd _rs1 : XReg) (_imm : BitVec 12) (s : State) : Outcome :=
  let me := s.me
  let sid := s.sid
  let core := s.core
  s.finish (
    if s.unreleased core 2 then .park false
    else
      let s := if isChan core then
          s.modChan (core - chanCore0) fun c => { c with fbuf := c.fbuf.filter fun e => e.1 != me.asid }
        else s
      { s with slots := s.slots.map fun (e : Nat × Slot) => if e.2.follows e.1 sid then (e.1, { e.2 with follow := none }) else e }.ret fun sl =>
        { sl with follow := none })

end Sys2Proof.Machine
end

