-- ==== Sys2Proof/Machine/Branch.lean ====
section
/-! DEFINITION. The meanings of branches and jumps, the hardware loop, ECALL and EBREAK, KRET, SAFEPT, PARK, FOLLOW, and
of the events that concern one slot's turn (spec 12 R247 to R259; 20 R339; 21 R367, R376 to R379, R383; 23 R409; 24
R426; 02 R40). -/

namespace Sys2Proof.Machine

/-- A taken jump: cause 0 for a target with bit 1 set, cause 1 for one with any of [63:57] set, else the jump with a
change of registers (R80). -/
def State.jump (s : State) (target : Word) (f : Slot → Slot := id) : Res :=
  if target.getLsbD 1 then .trap (Trap.sync 0 target)
  else if target.extractLsb' 57 7 != 0 then .trap (Trap.sync 1 target)
  else .done (s.upd fun sl => (f sl).retireTo target)

/-- The byte offset of a branch. -/
def offB (off : BitVec 12) : Word := (off ++ 0#1).signExtend 64

/-- A branch on a condition (R339). -/
def State.branch (s : State) (c : Bool) (off : BitVec 12) : Outcome :=
  s.finish (if c then s.jump (s.me.pc + offB off) else s.ret)

/-- BEQ (R339). -/
def execBeq (rs1 rs2 : XReg) (off : BitVec 12) (s : State) : Outcome := s.branch (s.me.rx rs1 == s.me.rx rs2) off
/-- BNE (R339). -/
def execBne (rs1 rs2 : XReg) (off : BitVec 12) (s : State) : Outcome := s.branch (s.me.rx rs1 != s.me.rx rs2) off
/-- BLT (R339). -/
def execBlt (rs1 rs2 : XReg) (off : BitVec 12) (s : State) : Outcome :=
  s.branch (BitVec.slt (s.me.rx rs1) (s.me.rx rs2)) off
/-- BGE (R339). -/
def execBge (rs1 rs2 : XReg) (off : BitVec 12) (s : State) : Outcome :=
  s.branch (!BitVec.slt (s.me.rx rs1) (s.me.rx rs2)) off
/-- BLTU (R339). -/
def execBltu (rs1 rs2 : XReg) (off : BitVec 12) (s : State) : Outcome :=
  s.branch (BitVec.ult (s.me.rx rs1) (s.me.rx rs2)) off
/-- BGEU (R339). -/
def execBgeu (rs1 rs2 : XReg) (off : BitVec 12) (s : State) : Outcome :=
  s.branch (!BitVec.ult (s.me.rx rs1) (s.me.rx rs2)) off

/-- JAL (R378): rd is not written when the target traps. -/
def execJal (rd : XReg) (off : BitVec 20) (s : State) : Outcome :=
  s.finish (s.jump (s.me.pc + (off ++ 0#1).signExtend 64) fun sl => sl.wx rd (sl.pc + 4))

/-- JALR (R378): bit 0 of the target is cleared; rs1 is read before rd is written. -/
def execJalr (rd rs1 : XReg) (imm : BitVec 12) (s : State) : Outcome :=
  s.finish (s.jump ((s.me.rx rs1 + sext12 imm) &&& ~~~1) fun sl => sl.wx rd (sl.pc + 4))

/-- LOOP (R383, R249): only at task level. -/
def execLoop (rs1 : XReg) (n : BitVec 12) (s : State) : Outcome :=
  let sl := s.me
  let c := sl.rx rs1
  let end4 : Word := sl.pc + 4 * n.zeroExtend 64
  s.finish (if sl.level ≠ .task then illegalI (.loop rs1 n)
    else .done (s.upd fun sl =>
      { sl.retireTo (if c = 0 then sl.pc + 4 + 4 * n.zeroExtend 64 else sl.pc + 4) with
        loops := sl.pc + 4, loope := end4, loopc := c }))

/-- ECALL (R367): cause 8 at task level, cause 9 above. -/
def execEcall (s : State) : Outcome :=
  s.finish (.trap (Trap.sync (if s.me.level = .task then 8 else 9) 0))

/-- EBREAK (R367): cause 3 with the pc. -/
def execEbreak (s : State) : Outcome := s.finish (.trap (Trap.sync 3 s.me.pc))

/-- KRET (R248, R379); aborts held while the slot was above task level begin when it is back there (R277). -/
def execKret (s : State) : Outcome :=
  s.kernelOnly .kret fun _ =>
    match s.me.leave with
    | none => illegalI .kret
    | some sl =>
      let s := s.upd fun _ => { sl with heldAbort := if sl.level = .task then [] else sl.heldAbort }
      .done (if sl.level = .task then sl.heldAbort.foldl (fun (s : State) e => s.abortDom s.sid e.1 e.2) s else s)

/-- SAFEPT (R426): retires, resets the safe-point counter and is a safe point with its index; a pending icause 0 is
taken at this boundary (R255, R257). -/
def execSafept (idx : BitVec 12) (s : State) : Outcome :=
  s.finish (.done (s.upd fun sl => { sl.retire with spCount := 0, safeAt := some idx.toNat }))

/-- PARK (R409): waits n cycles from its issue; an implicit safe point. -/
def execPark (rs1 : XReg) (s : State) : Outcome :=
  let n := (s.me.rx rs1).toNat
  s.finish (match s.me.status with
    | .parked (.until c) => if c ≤ s.cycle then s.ret else .done s
    | _ => if n = 0 then s.ret else .done (s.upd (·.parkOn (.until (s.cycle + n)))))

/-- PARK_EXPIRY (R409): the count has run out, and the parked PARK retires. -/
def execParkExpiry (sid : Nat) (s : State) : Outcome :=
  .next (match (s.slot sid).status with
    | .parked (.until c) => if c ≤ s.cycle then s.modSlot sid (·.retire) else s
    | _ => s)

/-- The core whose instructions a slot would follow (R40). -/
def State.leaderCore (s : State) (sid : Nat) : Nat :=
  coreOf sid / 16 * 16 + ((s.slot sid).leaderc.extractLsb' 0 4).toNat

/-- FOLLOW as it sets the mode of the slot whose turn it is behind a leader slot. -/
def State.followMode (s : State) (l : Nat) : Follow :=
  { lead := l % 16, traps := (s.slot (l * 16 + s.sid % 16)).traps, since := s.cycle, matched := false, seen := [] }

/-- FOLLOW (R40, R376): it changes only where instructions come from, so it sets the mode and retires; on the leader
core, from the own local store, or behind a leader that does not run, it is no operation. -/
def execFollow (s : State) : Outcome :=
  s.clusterOnly .follow fun _ =>
    if s.me.running = .delegate then illegalI .follow else
    let l := s.leaderCore s.sid
    let ls := s.slot (l * 16 + s.sid % 16)
    let npc := s.me.retire.pc
    let stays := l == s.core || decide (lsBase.toNat ≤ npc.toNat ∧ npc.toNat < lsBase.toNat + 0x20000)
      || ls.status == .idle || ls.status == .exited || ls.status == .away
    if stays then s.ret else (s.post (.followTimeout s.sid)).ret fun sl => { sl with follow := some (s.followMode l) }

/-- The leader has not issued the follower's next pc within 1,024 cycles after FOLLOW (R40, case 5). -/
def followLate (f : Follow) (cycle : Nat) : Bool := !f.matched && decide (f.since + 1024 ≤ cycle)

/-- FOLLOW_TIMEOUT (R40, case 5): the follower goes on with its own fetch. -/
def execFollowTimeout (sid : Nat) (s : State) : Outcome :=
  .next (match (s.slot sid).follow with
    | none => s
    | some f =>
      if followLate f s.cycle then s.modSlot sid fun sl => { sl with follow := none }
      else if f.matched then s else s.post (.followTimeout sid))

/-- Why follow mode ends before an instruction: the leader exits, migrates or is idle, either slot has trapped, the leader's
next instruction is not the follower's, or the follower is more than four behind (R40, cases 1 to 5; R376). -/
def State.followOver (s : State) (sid : Nat) (f : Follow) : Bool :=
  let l := s.slot ((sid / 256 * 16 + f.lead) * 16 + sid % 16)
  l.status == .idle || l.status == .exited || l.status == .away || l.traps != f.traps || followLate f s.cycle
    || (f.matched && (decide (4 < f.seen.length) || (match f.seen with | e :: _ => e.1 != (s.slot sid).pc | [] => false)))

/-- The leader's stream from the follower's pc on, once the leader has issued it. -/
def followSeek (f : Follow) (pc : Word) : Follow :=
  if f.matched then f
  else match f.seen.dropWhile fun e => e.1 != pc with
    | [] => { f with seen := [] }
    | l => { f with matched := true, seen := l }

/-- The turn of a slot in follow mode begins: the mode ends, or the slot waits for its leader, or it issues (R40). The second
part is false where it waits. -/
def State.followTurn (s : State) (sid : Nat) : State × Bool :=
  match (s.slot sid).follow with
  | none => (s, true)
  | some f =>
    let f := followSeek f (s.slot sid).pc
    if s.followOver sid f then (s.modSlot sid fun sl => { sl with follow := none }, true)
    else (s.modSlot sid fun sl => { sl with follow := some f }, !f.seen.isEmpty)

/-- The next pc of a slot that has issued, where it is known: not of one that has parked or trapped. -/
def Slot.nextPc (sl : Slot) : Option Word := if sl.status = .ready then some sl.pc else none

/-- After a slot has issued the instruction at `pc`: its followers have it in their stream, and a follower goes past it,
leaving the mode where it went another way than its leader (R40, case 1). -/
def State.followed (s : State) (sid : Nat) (pc : Word) : State :=
  let n := (s.slot sid).nextPc
  let feed := fun (e : Nat × Slot) =>
    if e.2.follows e.1 sid then (e.1, { e.2 with follow := e.2.follow.map fun f => { f with seen := f.seen ++ [(pc, n)] } }) else e
  let step := fun (f : Follow) => match f.seen with
    | (_, some t) :: r => if n.any (· != t) then none else some { f with seen := r }
    | _ :: r => some { f with seen := r }
    | [] => some f
  let s := if s.slots.any fun e => e.2.follows e.1 sid then { s with slots := s.slots.map feed } else s
  match (s.slot sid).follow with
  | some f => if f.matched then s.modSlot sid fun sl => { sl with follow := step f } else s
  | none => s

/-- The interrupt a slot would take: icause 0 first, then 1 upward; icause 0 only at task level; 1 to 6 when enabled,
at task level or at kernel level with IE; none at monitor level (R251, R255). -/
def State.irqFor (s : State) (sid : Nat) : Option Trap :=
  let sl := s.slot sid
  if sl.level = .monitor then none
  else if sl.preqReq && sl.level == .task then some (Trap.irq 0 (BitVec.ofNat 64 (sl.safeAt.getD 0x1000)))
  else if sl.level = .task ∨ sl.kstatus.getLsbD 2 then
    ((List.range 6).findSome? fun i =>
      if sl.ien.getLsbD i then ((s.pendOf sid).find? fun e => e.1 == i + 1).map fun e => Trap.irq (i + 1) e.2.1 e.2.2
      else none)
  else none

/-- The slot stands at a safe point: after SAFEPT or KRET, while parked on an implicit one and in the turn after
(R255). -/
def Slot.atSafePoint (sl : Slot) : Bool := sl.safeAt.isSome || sl.status.safePark

/-- A packet that brings a slot's own presence request, which the slot waits for. -/
def packetPresOf (sid : Nat) (p : Packet) : Bool :=
  match p.act with
  | some (.pres r) => r.sid == sid && !r.op.posts
  | _ => false

/-- An entry of the agenda is a presence request that a slot waits for. -/
def eventPresOf (sid : Nat) : Event → Bool
  | .presenceRequest r | .presenceRetry r _ => r.sid == sid && !r.op.posts
  | .travellerArrival p _ _ _ _ | .travellerRetry p _ _ _ _ => packetPresOf sid p
  | _ => false

/-- The request of an abandoned wait leaves the wait lists, the run queues and the agenda; requests of posted forms, which
have retired, stay (R134, R166, R256). -/
def State.withdraw (s : State) (sid : Nat) : State :=
  let keep := fun (l : List PresReq) => l.filter fun r => r.sid != sid || r.op.posts
  let stay := fun (l : List RunEnt) => l.filter fun e => !packetPresOf sid e.p
  { s with coreTab := s.coreTab.map fun e => (e.1, { e.2 with waits := keep e.2.waits, runq := stay e.2.runq }),
           clusters := s.clusters.map fun e => (e.1, { e.2 with vwaits := keep e.2.vwaits, leaseWaits := e.2.leaseWaits.filter (· != sid) }),
           agenda := s.agenda.filter fun e => !eventPresOf sid e }

/-- An interrupt is taken by a slot: a parked instruction is abandoned with no effect, but for a returning atomic,
which retires with its destination pending (R256); the cause's pending bit clears (R251). -/
def State.interrupt (s : State) (sid : Nat) (t : Trap) : State :=
  let sl := s.slot sid
  let s := match sl.status with
    | .parked .pres | .parked (.retry _) => s.withdraw sid
    | .parked .atom => s.modSlot sid (·.retire)
    | _ => s
  let s := s.modSlot sid fun sl =>
    if t.code = 0 then { sl with preqReq := false } else { sl with instants := sl.instants.filter fun e => e.1 != t.code }
  let s := if 3 ≤ t.code then { s with irqs := tdel s.irqs t.code } else s
  s.modSlot sid fun sl => { sl.enter t with spCount := 0, savedAway := sl.savedAway || sl.status == .away, saved := 0 }

/-- INTERRUPT_ENTRY (R255): an enabled pending interrupt is taken by a slot at a safe point. -/
def execInterruptEntry (sid : Nat) (s : State) : Outcome :=
  let sl := s.slot sid
  .next (match s.irqFor sid with
    | some t => if sl.atSafePoint && (sl.status == .ready || sl.status.safePark) then s.interrupt sid t else s
    | none => s)

/-- The slot would take cause 17: at task level with REQ set and the counter at the bound (R255, R259). -/
def Slot.overdue (sl : Slot) : Bool :=
  sl.level == .task && sl.preqReq && decide (sl.safeb.toNat % 2 ^ 32 ≤ sl.spCount)

/-- SAFE_POINT_OVERDUE (R255): cause 17 with the turns since the last safe point; the instruction does not issue. -/
def execSafePointOverdue (sid : Nat) (s : State) : Outcome :=
  let sl := s.slot sid
  .next (if sl.overdue && sl.status == .ready then
      s.modSlot sid (·.enter (Trap.sync 17 (BitVec.ofNat 64 sl.spCount))) else s)

/-- An armed instant of a kind is reached: PEND is set with the instant, which is disarmed (R254, R413). -/
def Slot.instant (sl : Slot) (kind at' : Nat) : Slot :=
  { sl with instants := (sl.instants.filter fun e => e.1 != kind) ++ [(kind, BitVec.ofNat 64 at')],
            sliceAt := if kind = 1 then none else sl.sliceAt, timerAt := if kind = 2 then none else sl.timerAt }

/-- SLICE_INSTANT (R254). -/
def execSliceInstant (sid : Nat) (s : State) : Outcome :=
  .next (match (s.slot sid).sliceAt with
    | some t => if t ≤ s.ptp then s.modSlot sid (·.instant 1 t) else s
    | none => s)

/-- KERNEL_TIMER (R254). -/
def execKernelTimer (sid : Nat) (s : State) : Outcome :=
  .next (match (s.slot sid).timerAt with
    | some t => if t ≤ s.ptp then s.modSlot sid (·.instant 2 t) else s
    | none => s)

/-- PTPARM (R254, R413): arms or disarms an instant; one already past is raised at once. -/
def execPtparm (rs1 : XReg) (s : State) : Outcome :=
  s.kernelOnly (.ptparm rs1) fun _ =>
    let w := s.me.rx rs1
    let t := w.toNat / 2 * 2
    let kind := if w.getLsbD 0 then 2 else 1
    s.ret fun sl =>
      let arm : Option Nat := if t = 0 then none else some t
      let sl := if kind = 2 then { sl with timerAt := arm } else { sl with sliceAt := arm }
      if t ≠ 0 ∧ t ≤ s.ptp then sl.instant kind t else sl

end Sys2Proof.Machine
end

