-- ==== Sys2Proof/Machine/Presence.lean ====
section
/-! DEFINITION. The presence instructions, their requests at the owner and its wait list (spec 06 R131 to R135; 08 R175;
21 R373, R374; 24 R440). -/

namespace Sys2Proof.Machine

/-- The wait list of an address: of its core or channel core, or of its vault controller. -/
inductive WaitAt where
  | core (c : Nat)
  | vault (cluster : Nat)
deriving DecidableEq, Repr

/-- Where requests for an address wait (R133). -/
def State.waitAt (s : State) (pa : Nat) : WaitAt :=
  match ownerOf pa with
  | .vault c => .vault c
  | _ => .core (s.ownerCore pa)

/-- The wait list. -/
def State.waits (s : State) : WaitAt → List PresReq
  | .core c => (s.coreSt c).waits
  | .vault c => (s.clusterSt c).vwaits

def State.setWaits (s : State) (w : WaitAt) (l : List PresReq) : State :=
  match w with
  | .core c => s.modCore c fun k => { k with waits := l }
  | .vault c => s.modCluster c fun k => { k with vwaits := l }

/-- Entries a wait list holds: 16 per core, 64 per vault controller, 256 per channel core (R133). -/
def WaitAt.size : WaitAt → Nat
  | .core c => if isChan c then 256 else 16
  | .vault _ => 64

/-- The condition of a presence instruction on its word (R132). -/
def State.presHolds (s : State) (r : PresReq) : Bool :=
  match r.op with
  | .ldfk | .ldfe => s.full (r.pa / 8)
  | .stef => !s.full (r.pa / 8)
  | _ => true

/-- A slot goes on after a load that orders as an acquire: it retires, or waits until its earlier replies have come (R174,
R175, R186; log entry 89). -/
def Slot.acquire (sl : Slot) : Slot := if sl.pending.isEmpty then sl.retire else sl.parkOn .acq

/-- What a slot does once its presence instruction is performed (R132). -/
def presLeave (op : PresOp) (sl : Slot) : Slot := if op == .ldfk || op == .ldfe then sl.acquire else sl.retire

/-- What a slot parks on for a presence instruction of another owner's word: FEGET is a plain load in flight, the others
are implicit safe points (R256). -/
def presWait (op : PresOp) : Wait := if op == .feget then .reply else .pres

/-- The slot goes on after its request was performed; a posted form's slot has retired already. -/
def State.presDone (s : State) (r : PresReq) (f : Slot → Slot) : State :=
  if !r.op.posts && (s.slot r.sid).status == .parked (presWait r.op) then s.modSlot r.sid fun sl => presLeave r.op (f sl) else s

/-- What a request does to its word, and what its slot then receives; or, on a poisoned word, what happens instead
(R132, R277, R280). -/
def State.presEffect (s : State) (r : PresReq) : State × Option (Slot → Slot) :=
  let w := r.pa / 8
  let load : State × Option (Slot → Slot) :=
    let s := s.correctAt r.sid r.pa 8
    if s.bad w then
      match s.consume r.sid r.va with
      | .abort s => (s, none)
      | .trap t => (s.modSlot r.sid (·.enter t), none)
      | .held v s => (s, some fun sl => sl.wx r.rd v)
      | .zero s => (s, some fun sl => sl.wx r.rd 0)
    else (s, some fun sl => sl.wx r.rd (BitVec.ofNat 64 (s.rd r.pa 8)))
  match r.op with
  | .ldfk => load
  | .ldfe => (if load.2.isSome then (load.1.beforeWrite r.pa 8).setFull w false else load.1, load.2)
  | .stef | .stfl =>
    ((((s.trace r.sid r.pa r.va false).markCk (s.slot r.sid).team r.va r.pa).put r.pa 8 r.data.toNat).setFull w true,
      some id)
  | .feget => (s, some fun sl => sl.wx r.rd (if s.full w then 1 else 0))
  | .feput => ((s.beforeWrite r.pa 8).setFull w (r.data.getLsbD 0), some id)

/-- One indivisible action at the word's owner for a slot that waits for it (R132). -/
def State.presAct (s : State) (r : PresReq) : State :=
  match s.presEffect r with
  | (s, some f) => s.presDone r f
  | (s, none) => s

/-- The team that made a request still runs in the generation in which it made it (R240). -/
def State.presOfTeam (s : State) (r : PresReq) : Bool :=
  match s.team? r.tid with
  | some t => t.gen == r.gen
  | none => true

/-- One pass over the waiting entries of a word in arrival order (R133, step 2): the entries that stay, and whether
any was granted. An entry of an older generation of its team is dropped (R240). -/
def State.grantPass (s : State) (w : Nat) : List PresReq → List PresReq × Bool × State
  | [] => ([], false, s)
  | r :: l =>
    if !s.presOfTeam r then State.grantPass s w l
    else if r.pa / 8 = w ∧ s.presHolds r = true then
      let (l', _, s') := State.grantPass (s.presAct r) w l
      (l', true, s')
    else
      let (l', g, s') := State.grantPass s w l
      (r :: l', g, s')

/-- Passes until one grants nothing (R133, step 3). -/
def State.grantAll (s : State) (at' : WaitAt) (w : Nat) : Nat → State
  | 0 => s
  | n + 1 =>
    let (l, g, s') := s.grantPass w (s.waits at')
    let s' := s'.setWaits at' l
    if g then State.grantAll s' at' w n else s'

/-- After an action on a word the owner examines its wait list. -/
def State.reexamine (s : State) (pa : Nat) : State :=
  let a := s.waitAt pa
  s.grantAll a (pa / 8) ((s.waits a).length + 1)

/-- After an action on n bytes the owners examine the wait lists of those words that have entries (R133). -/
def State.reexamineAll (s : State) (pa n : Nat) : State :=
  let all := s.coreTab.flatMap (fun e => e.2.waits) ++ s.clusters.flatMap fun e => e.2.vwaits
  let here := (all.map (·.pa)).filter fun a => decide (pa ≤ a ∧ a < pa + n)
  here.foldl State.reexamine s

/-- A request still has its slot waiting for it, in the generation of the team that made it, or needs none (R134, R240). -/
def State.presLive (s : State) (r : PresReq) : Bool :=
  r.op.posts || ((s.slot r.sid).status == .parked (presWait r.op) && s.presOfTeam r)

/-- A trap of a request reaches its slot: the one that waits for it takes it there, the slot of a posted form at its next
turn. -/
def State.presTrap (s : State) (r : PresReq) (t : Trap) : State :=
  if r.op.posts then s.later r.sid t else s.modSlot r.sid (·.enter t)

/-- A request at its owner (R133): performed at once when its condition holds, else placed in the wait list, else
refused, to come again after 64 cycles; 1,024 refusals give cause 22. -/
def State.presRequest (s : State) (r : PresReq) : State :=
  if !s.presLive r then s
  else if s.presHolds r then (s.presAct r).reexamine r.pa
  else
    let a := s.waitAt r.pa
    if (s.waits a).length < a.size then s.setWaits a (s.waits a ++ [r])
    else if 1023 ≤ r.tries then s.presTrap r (Trap.sync 22 r.va)
    else s.post (.presenceRetry { r with tries := r.tries + 1 } (s.cycle + 64))

/-- The request of a presence instruction of the slot whose turn it is. -/
def State.presReq (s : State) (op : PresOp) (pa : Nat) (data : Word) (rd : XReg) (va : Word) : PresReq :=
  { sid := s.sid, tid := s.me.team, gen := (s.me.teamid.extractLsb' 16 16).toNat, op := op, pa := pa, data := data, rd := rd,
    va := va, tries := 0 }

/-- A presence instruction at the slot's own storage (R132, R168). -/
def State.presOwn (s : State) (r : PresReq) : Res :=
  if s.inFlight s.core r.pa 8 r.op.writes then .park false
  else if s.presHolds r then
    match s.presEffect r with
    | (s', some f) => .done ((s'.upd fun sl => presLeave r.op (f sl)).reexamine r.pa)
    | (s', none) => .done s'
  else .done ((s.upd (·.parkOn .pres)).presRequest r)

/-- A presence instruction (R132, R374): alignment and pointer checks in the instruction's direction; LDFE and FEPUT
translate as stores; STEF and STFL release first, and LDFK and LDFE end with an acquire. The own storage acts within
the turn; elsewhere STFL and FEPUT are posted and the others park. -/
def State.presence (s : State) (op : PresOp) (rd rs1 : XReg) (data : Word) : Outcome :=
  let a := s.me.rx rs1
  let loads := op == .ldfk || op == .ldfe || op == .feget
  let asStore := !(op == .ldfk || op == .feget)
  s.finish (
    if a.toNat % 8 ≠ 0 then .trap (Trap.sync (if loads then 4 else 6) a)
    else if (op == .stef || op == .stfl) && s.releaseWaits then .park (op == .stef)
    else match (if asStore then s.locateStore s.sid a 8 else s.locate s.sid a 8 .load) with
      | .error t => .trap t
      | .ok h =>
        let r := s.presReq op h.pa data rd a
        if isOwn s.sid h.pa then h.st.presOwn r
        else
          let s' := h.st.request s.sid h.pa a (.pres r) (.presenceRequest r)
          if op.posts then s'.ret else .done (s'.upd (·.parkOn (presWait op))))

/-- LDFK (R132). -/
def execLdfk (rd rs1 : XReg) (s : State) : Outcome := s.presence .ldfk rd rs1 0
/-- LDFE (R132). -/
def execLdfe (rd rs1 : XReg) (s : State) : Outcome := s.presence .ldfe rd rs1 0
/-- STEF (R132, R440). -/
def execStef (rs2 rs1 : XReg) (s : State) : Outcome := s.presence .stef 0 rs1 (s.me.rx rs2)
/-- STFL (R132, R440). -/
def execStfl (rs2 rs1 : XReg) (s : State) : Outcome := s.presence .stfl 0 rs1 (s.me.rx rs2)
/-- FEGET (R132). -/
def execFeget (rd rs1 : XReg) (s : State) : Outcome := s.presence .feget rd rs1 0
/-- FEPUT (R132): bit 0 of rs2 is the new presence bit. -/
def execFeput (rs2 rs1 : XReg) (s : State) : Outcome := s.presence .feput 0 rs1 (s.me.rx rs2)

/-- PRESENCE_REQUEST (R133). -/
def execPresenceRequest (r : PresReq) (s : State) : Outcome := .next (s.presRequest r)

/-- PRESENCE_RETRY (R133): after 64 cycles the request comes again. -/
def execPresenceRetry (r : PresReq) (due : Nat) (s : State) : Outcome :=
  .next (if s.presLive r && decide (s.cycle < due) then s.post (.presenceRetry r due) else s.presRequest r)

end Sys2Proof.Machine
end

