-- ==== Sys2Proof/Machine/Atomics.lean ====
section
/-! DEFINITION. Atomics at memory: the instruction, the atomic at its word's owner, the reply, and the remote update of
the `.nr` forms (spec 08 R185 to R189; 02 R38, R39; 20 R330 to R332). -/

namespace Sys2Proof.Machine

/-- Bytes of the word of an atomic (R186). -/
def AtomSize (op : AtomOp) : Nat := if op = .fadd ∨ op = .fmax then 4 else 8

/-- The new value of an atomic and its flags (R186, R188); for AMCAS the operand. -/
def atomF (op : AtomOp) (old b : Word) : Word × BitVec 6 :=
  match op with
  | .add => (old + b, 0)
  | .and => (old &&& b, 0)
  | .or => (old ||| b, 0)
  | .xor => (old ^^^ b, 0)
  | .max => (if BitVec.slt old b then b else old, 0)
  | .min => (if BitVec.slt b old then b else old, 0)
  | .swap | .cas => (b, 0)
  | .fadd => let (v, f) := amFadd (old.toNat % 2 ^ 32) (b.toNat % 2 ^ 32); (BitVec.ofNat 64 v, f)
  | .fmax => let (v, f) := amFmax (old.toNat % 2 ^ 32) (b.toNat % 2 ^ 32); (BitVec.ofNat 64 v, f)

/-- The read-modify-write at the owner (R185, R186) on a good or lenient word: old value, flags and the new memory. An
AMCAS whose compare fails writes nothing (R186), so a poisoned word stays poisoned then, although R187 says that the atomic
writes a good result (the model's choice, log entry 90). -/
def State.atomRmw (s : State) (sid tid : Nat) (op : AtomOp) (pa : Nat) (b cmp va : Word) : Word × BitVec 6 × State :=
  let n := AtomSize op
  let s := s.correctAt sid pa n
  let wasBad := s.bad (pa / 8)
  let old : Word := if wasBad then (if n = 4 then BitVec.ofNat 64 (canonNaN fp32) else 0) else BitVec.ofNat 64 (s.rd pa n)
  let s := if wasBad then s.countPoison tid else s
  let (new, f) := atomF op old b
  let s := (s.trace sid pa va true).markCk tid va pa
  let s := if op ≠ .cas ∨ old = cmp then
      let s := if wasBad then ((s.beforeWrite pa n).wr (pa / 8 * 8) 8 0).setBad (pa / 8) false else s
      s.putBy (kernelWrites tid va) pa n new.toNat
    else s
  (old, if wasBad then f ||| fPO else f, s)

/-- The pending register of a returning atomic. -/
def atomPend (r : AtomReq) : PendRep := ⟨3, r.rd.toNat⟩

/-- A returning atomic ends without its reply: its destination is pending no more. -/
def State.dropAtom (s : State) (r : AtomReq) : State :=
  (s.modSlot r.sid fun sl => { sl with pending := sl.pending.erase (atomPend r) }).frameReply r.sid (atomPend r) none

/-- A trap of a returning atomic: its slot takes it at the atomic while it is parked there, else at its next turn. -/
def State.atomTrap (s : State) (r : AtomReq) (t : Trap) : State :=
  let s := s.dropAtom r
  if (s.slot r.sid).status = .parked .atom then s.modSlot r.sid (·.enter t) else s.later r.sid t

/-- A returning atomic at its owner: cause 15 under the strict policy, an abort inside a domain, else the reply is
sent (R187, R277). -/
def State.atomAtOwner (s : State) (r : AtomReq) : State :=
  let sl := s.slot r.sid
  if s.bad (r.pa / 8) ∧ sl.doms ≠ [] then (s.dropAtom r).blame r.sid 2
  else if s.bad (r.pa / 8) ∧ s.strict sl.team = true then s.atomTrap r (Trap.sync 15 r.va)
  else
    let (old, f, s) := s.atomRmw r.sid sl.team r.op r.pa r.b r.cmp r.va
    s.post (.atomicReply r old f)

/-- The packet that an owner was at work on is finished: the next of its queue may go. -/
def State.finishAt (s : State) (owner : Nat) : State := (s.setBusy owner none).post (.runQueueRelease owner)

/-- The core or vault controller that is at work on a returning atomic. -/
def State.workerOf (s : State) (r : AtomReq) : Option Nat :=
  let at' := fun (b : Option Packet) => b.any fun p => p.act == some (.atom r)
  ((s.coreTab.find? fun e => at' e.2.busy).map (·.1)).or
    ((s.clusters.find? fun e => at' e.2.vbusy).map fun e => vaultOwner0 + e.1)

/-- ATOMIC_AT_OWNER (R185): the innkeeper or the vault controller that took the atomic from its queue performs it, and is
free for the next entry. -/
def execAtomicAtOwner (r : AtomReq) (s : State) : Outcome :=
  let w := s.workerOf r
  let s := s.atomAtOwner r
  .next (match w with
    | some o => s.finishAt o
    | none => s)

/-- ATOMIC_REPLY (R187): the parked slot gets its value and flags, and retires once an acquire that it asks for is over
(R186); a slot interrupted meanwhile gets them in the pending register, and in its frame when that is stored (R263); an
exited slot discards them (R372). -/
def execAtomicReply (r : AtomReq) (old : Word) (flags : BitVec 6) (s : State) : Outcome :=
  let p := atomPend r
  .next (if (s.slot r.sid).pending.contains p then
      ((s.modSlot r.sid fun sl =>
        let sl := { sl with pending := sl.pending.erase p }.wx r.rd old
        if sl.status = .parked .atom then (if r.aq then sl.acquire else sl.retire) else sl).giveFlags r.sid flags).frameReply r.sid p
          (some (old.zeroExtend 512))
    else s)

/-- The packet of a remote update: the atomic's word in the pc field, b in a0, AMCAS's compare value in a1, every
other carried position zero (R39). -/
def State.updatePacket (s : State) (i : Instr) (target b cmp : Word) : Packet :=
  { s.packetOf s.sid 3 target (wordOf i) with
    a := [b, cmp, 0, 0, 0, 0, 0, 0], t0 := 0, t1 := 0, p0 := 0 }

/-- An atomic instruction (R186, R331). A returning one waits for a release or for one of eight replies before it is sent
(R187): the first park is an implicit safe point (R256), the second is not. -/
def State.atomic (s : State) (i : Instr) (op : AtomOp) (rd rs2 rs1 : XReg) (nr aq rl : Bool) : Outcome :=
  let a := s.me.rx rs1
  let b := s.me.rx rs2
  s.finish (
    if a.toNat % AtomSize op ≠ 0 then .trap (Trap.sync 6 a)
    else if rl && s.releaseWaits then .park (!nr)
    else match s.locateStore s.sid a (AtomSize op) with
      | .error t => .trap t
      | .ok h =>
        if nr then
          let p := s.updatePacket i a b (if op = .cas then s.me.rx rd else 0)
          .done ((h.st.post (.travellerArrival p (s.atomOwner h.pa) s.sid 0 p.crc)).upd (·.parkOn .reply))
        else if 8 ≤ s.me.pending.length then .park false
        else
          let r : AtomReq := { sid := s.sid, op := op, nr := nr, aq := aq, pa := h.pa, b := b, cmp := s.me.rx rd, rd := rd, va := a }
          let p := s.activePacket s.sid a (.atom r)
          .done ((h.st.post (.travellerArrival p (s.atomOwner h.pa) s.sid 0 p.crc)).upd fun sl =>
            { sl.parkOn .atom with pending := sl.pending ++ [atomPend r] }))

/-- AMADD (R186). -/
def execAmadd (rd rs2 rs1 : XReg) (nr aq rl : Bool) (s : State) : Outcome :=
  s.atomic (.amadd rd rs2 rs1 nr aq rl) .add rd rs2 rs1 nr aq rl
/-- AMAND (R186). -/
def execAmand (rd rs2 rs1 : XReg) (nr aq rl : Bool) (s : State) : Outcome :=
  s.atomic (.amand rd rs2 rs1 nr aq rl) .and rd rs2 rs1 nr aq rl
/-- AMOR (R186). -/
def execAmor (rd rs2 rs1 : XReg) (nr aq rl : Bool) (s : State) : Outcome :=
  s.atomic (.amor rd rs2 rs1 nr aq rl) .or rd rs2 rs1 nr aq rl
/-- AMXOR (R186). -/
def execAmxor (rd rs2 rs1 : XReg) (nr aq rl : Bool) (s : State) : Outcome :=
  s.atomic (.amxor rd rs2 rs1 nr aq rl) .xor rd rs2 rs1 nr aq rl
/-- AMMAX (R186). -/
def execAmmax (rd rs2 rs1 : XReg) (nr aq rl : Bool) (s : State) : Outcome :=
  s.atomic (.ammax rd rs2 rs1 nr aq rl) .max rd rs2 rs1 nr aq rl
/-- AMMIN (R186). -/
def execAmmin (rd rs2 rs1 : XReg) (nr aq rl : Bool) (s : State) : Outcome :=
  s.atomic (.ammin rd rs2 rs1 nr aq rl) .min rd rs2 rs1 nr aq rl
/-- AMSWAP (R186). -/
def execAmswap (rd rs2 rs1 : XReg) (nr aq rl : Bool) (s : State) : Outcome :=
  s.atomic (.amswap rd rs2 rs1 nr aq rl) .swap rd rs2 rs1 nr aq rl
/-- AMCAS (R186). -/
def execAmcas (rd rs2 rs1 : XReg) (nr aq rl : Bool) (s : State) : Outcome :=
  s.atomic (.amcas rd rs2 rs1 nr aq rl) .cas rd rs2 rs1 nr aq rl
/-- AMFADD (R188). -/
def execAmfadd (rd rs2 rs1 : XReg) (nr aq rl : Bool) (s : State) : Outcome :=
  s.atomic (.amfadd rd rs2 rs1 nr aq rl) .fadd rd rs2 rs1 nr aq rl
/-- AMFMAX (R188). -/
def execAmfmax (rd rs2 rs1 : XReg) (nr aq rl : Bool) (s : State) : Outcome :=
  s.atomic (.amfmax rd rs2 rs1 nr aq rl) .fmax rd rs2 rs1 nr aq rl

/-- The atomic that an instruction word names, when it is an `.nr` form (R39, R86). -/
def nrAtom (w : Word) : Option AtomOp :=
  if w.extractLsb' 32 32 != 0 then none
  else match decodeWord (w.extractLsb' 0 32) with
    | .ok (.amadd _ _ _ true _ _) => some .add
    | .ok (.amand _ _ _ true _ _) => some .and
    | .ok (.amor _ _ _ true _ _) => some .or
    | .ok (.amxor _ _ _ true _ _) => some .xor
    | .ok (.ammax _ _ _ true _ _) => some .max
    | .ok (.ammin _ _ _ true _ _) => some .min
    | .ok (.amswap _ _ _ true _ _) => some .swap
    | .ok (.amcas _ _ _ true _ _) => some .cas
    | .ok (.amfadd _ _ _ true _ _) => some .fadd
    | .ok (.amfmax _ _ _ true _ _) => some .fmax
    | _ => none

/-- A remote update (R39, R187): an `.nr` atomic performed with no reply, flags going to tflags; under the strict policy
a poisoned word stays and PO is set; a poisoned word aborts an open domain of the origin slot (R277); a packet that names no `.nr` atomic is discarded and counted. The target is
translated in the team's address space. -/
def State.remoteUpdate (s : State) (p : Packet) : State :=
  match s.team? p.team, nrAtom p.pc with
  | some t, some op =>
    let sid := (s.slotAt p.team p.origin).getD 0
    let c : Ctx := { t.ctx p.team with core := coreOf sid, sid := sid }
    match s.resolve c p.target (AtomSize op) .store with
    | .error _ => s.notifyFault p.origin 7
    | .ok h =>
      if s.bad (h.pa / 8) ∧ (s.slot sid).doms ≠ [] then s.blame sid 2
      else if s.bad (h.pa / 8) ∧ s.strict p.team = true then s.orTflags p.team fPO
      else
        let (_, f, s) := h.st.atomRmw sid p.team op h.pa (p.a.getD 0 0) (p.a.getD 1 0) p.target
        s.orTflags p.team f
  | some _, none => s.countCorrupt p.team
  | none, _ => s

end Sys2Proof.Machine
end

