-- ==== Sys2Proof/Machine/Log.lean ====
section
/-! DEFINITION. The overflow log in a team's save area: pigeonhole messages and traveller frames of a team that does not
run, as they lie in memory (spec 02 R39; 07 R150; 12 R260, R263, R264; log entry 15). -/

namespace Sys2Proof.Machine

/-- Bytes of the log's area after its used count (R260). -/
def logRoom : Nat := 0x10000 - 8

/-- What an entry of the log is: a message for a hole of a logical core, or a traveller frame. -/
inductive LogEnt where
  | message (lcore hole : Nat) (m : Msg)
  | frame (p : Packet)
deriving DecidableEq, Repr

/-- The bytes of an entry: a frame is its packet of 128 bytes (R263, step 3); a message is a tag of 16 bytes, which no packet
begins with, and its 8 or 64 bytes of data. -/
def LogEnt.bytes : LogEnt → List Byte
  | .message lcore hole m =>
    leBytes 16 (2 ^ 63 + (if m.big then 1 else 0) + hole % 16 * 2 ^ 8 + lcore % 2 ^ 32 * 2 ^ 16)
      ++ leBytes (if m.big then 64 else 8) m.data.toNat
  | .frame p => p.bytes

/-- The entries that bytes hold, at most as many as the first argument. -/
def logParse : Nat → List Byte → List LogEnt
  | 0, _ => []
  | _, [] => []
  | n + 1, l =>
    let w := leNat (l.take 8)
    if w / 2 ^ 63 = 1 then
      let k := if w % 2 = 1 then 64 else 8
      .message (w / 2 ^ 16 % 2 ^ 32) (w / 2 ^ 8 % 16) { big := w % 2 == 1, data := BitVec.ofNat 512 (leNat ((l.drop 16).take k)) }
        :: logParse n (l.drop (16 + k))
    else .frame (Packet.ofBytes (l.take 128)) :: logParse n (l.drop 128)

/-- The physical address of a team's log, if its save area is mapped there. -/
def State.logAt (s : State) (tid : Nat) : Option (Nat × State) :=
  match s.team? tid with
  | none => none
  | some t => match s.resolve (t.ctx tid) (t.save + 0x10000) 0x10000 .store with
    | .ok h => some (h.pa, h.st)
    | .error _ => none

/-- Bytes of a team's log in use. -/
def State.logUsed (s : State) (tid : Nat) : Nat :=
  match s.logAt tid with
  | some (pa, s) => s.rd pa 8
  | none => 0

/-- A team's log made empty. -/
def State.logClear (s : State) (tid : Nat) : State :=
  match s.logAt tid with
  | some (pa, s) => s.put pa 8 0
  | none => s

/-- An entry put at the end of a team's log, if it has room. -/
def State.logPut (s : State) (tid : Nat) (e : LogEnt) : Option State :=
  match s.logAt tid with
  | none => none
  | some (pa, s) =>
    let used := s.rd pa 8
    let b := e.bytes
    if logRoom < used + b.length then none
    else some (((s.put (pa + 8 + used) b.length (leNat b)).put pa 8 (used + b.length)))

/-- The entries of a team's log, oldest first. -/
def State.logEntries (s : State) (tid : Nat) : List LogEnt :=
  match s.logAt tid with
  | none => []
  | some (pa, s) =>
    let used := min (s.rd pa 8) logRoom
    logParse (used / 24 + 1) (s.rdBytes (pa + 8) used)

end Sys2Proof.Machine
end

