-- ==== Sys2Proof/Machine/Span.lean ====
section
/-! DEFINITION. Ranges of virtual addresses that the device reads and writes for a copy, a command, a save or a kernel
instruction: resolved page by page, read as little-endian numbers, written with their poison marks (spec 06 R122, R142,
R143). -/

namespace Sys2Proof.Machine

/-- The pieces of n bytes at an address, none across a 64 KiB boundary. `fuel` bounds their number. -/
def vaPieces : Nat → Word → Nat → List (Word × Nat)
  | 0, _, _ => []
  | fuel + 1, a, n =>
    if n = 0 then [] else
    let k := min n (0x10000 - a.toNat % 0x10000)
    (a, k) :: vaPieces fuel (a + BitVec.ofNat 64 k) (n - k)

/-- Every piece resolved: physical pieces in order, or the first failing address with its detail. -/
def State.resolveAll (s : State) (c : Ctx) (dir : Dir) : List (Word × Nat) → Except (Word × Word) (List (Nat × Nat) × State)
  | [] => .ok ([], s)
  | (a, n) :: r =>
    match s.resolve c a n dir with
    | .error d => .error (a, d)
    | .ok h =>
      match State.resolveAll h.st c dir r with
      | .error e => .error e
      | .ok (l, s') => .ok ((h.pa, n) :: l, s')

/-- n bytes at a virtual address resolved. -/
def State.span (s : State) (c : Ctx) (a : Word) (n : Nat) (dir : Dir) : Except (Word × Word) (List (Nat × Nat) × State) :=
  s.resolveAll c dir (vaPieces (n / 0x10000 + 2) a n)

/-- Physical pieces read as one number. -/
def State.rdPieces (s : State) : List (Nat × Nat) → Nat
  | [] => 0
  | (pa, n) :: r => s.rd pa n + 2 ^ (8 * n) * State.rdPieces s r

/-- Some word of the pieces is poisoned. -/
def State.badPieces (s : State) (l : List (Nat × Nat)) : Bool := l.any fun e => s.badAt e.1 e.2

/-- Physical pieces written with good data, vault copies and holds included. -/
def State.putPieces (s : State) : List (Nat × Nat) → Nat → State
  | [], _ => s
  | (pa, n) :: r, v => State.putPieces (s.put pa n (v % 2 ^ (8 * n))) r (v / 2 ^ (8 * n))

/-- The physical address of every 8-byte word of pieces of whole words. -/
def wordsOf (l : List (Nat × Nat)) : List Nat := l.flatMap fun e => (List.range (e.2 / 8)).map fun i => e.1 + 8 * i

/-- n bytes at a virtual address read as a number, with the state after the walks; or the failing address. -/
def State.readVa (s : State) (c : Ctx) (a : Word) (n : Nat) : Except (Word × Word) (Nat × State) :=
  match s.span c a n .load with
  | .error e => .error e
  | .ok (l, s') => .ok (s'.rdPieces l, s')

/-- n bytes of a number written at a virtual address. -/
def State.writeVa (s : State) (c : Ctx) (a : Word) (n v : Nat) : Except (Word × Word) State :=
  match s.span c a n .store with
  | .error e => .error e
  | .ok (l, s') => .ok (s'.putPieces l v)

/-- One 8-byte word written with its poison mark. -/
def State.putWord (s : State) (pa v : Nat) (bad : Bool) : State := (s.put pa 8 v).setBad (pa / 8) bad

/-- Marks of written units for the team's next checkpoint, for every 64 KiB unit that a write meets (R285). -/
def State.markSpan (s : State) (tid : Nat) (a : Word) (l : List (Nat × Nat)) : State :=
  match l with
  | [] => s
  | (pa, n) :: r => State.markSpan (s.markCk tid a pa) tid (a + BitVec.ofNat 64 n) r

/-- Marks of written units for writes at listed virtual and physical addresses (R285, R286). -/
def State.markWords (s : State) (tid : Nat) (l : List (Word × Nat)) : State := l.foldl (fun s e => s.markCk tid e.1 e.2) s

/-- A context whose accesses are those of an engine or copy: thread protections of VC pages do not apply (R139). -/
def Ctx.engine (c : Ctx) : Ctx := { c with thread := false }

/-- n bytes at a virtual address resolved for a write of the device for a slot, in no protected range (R271, R273). -/
def State.spanWrite (s : State) (c : Ctx) (a : Word) (n : Nat) : Except (Word × Word) (List (Nat × Nat) × State) :=
  match s.span c a n .store with
  | .error e => .error e
  | .ok x => if s.refHit c a n || x.1.any fun e => s.recordAt e.1 e.2 then .error (a, detail 8 0) else .ok x

/-- Units of w bytes at listed virtual addresses resolved one by one, for a write in no protected range. -/
def State.wordsAt (s : State) (c : Ctx) (w : Nat) (dir : Dir) : List Word → Except (Word × Word) (List Nat × State)
  | [] => .ok ([], s)
  | a :: r =>
    match s.resolve c a w dir with
    | .error d => .error (a, d)
    | .ok h =>
      if dir == .store && s.guarded c a h.pa w then .error (a, detail 8 0)
      else match State.wordsAt h.st c w dir r with
        | .error e => .error e
        | .ok (l, s') => .ok (h.pa :: l, s')

/-- Flips in the words at physical addresses, and in pieces, are corrected for the slot that the porter or an engine reads
them for (R281). -/
def State.correctWords (s : State) (sid : Nat) (l : List Nat) : State := l.foldl (fun s pa => s.correctAt sid pa 8) s
def State.correctPieces (s : State) (sid : Nat) (l : List (Nat × Nat)) : State :=
  l.foldl (fun s e => s.correctAt sid e.1 e.2) s

/-- The detail of a fault raised for a copy or engine (R142, R143). -/
def engDetail (d : Word) : Word := d ||| 0x100

/-- An access by the device under the team of `teamctx` of a kernel-level slot: its tables, at kernel level. -/
def State.kctx (s : State) (sid : Nat) : Ctx := { s.ctx sid with thread := false }

end Sys2Proof.Machine
end

