-- ==== Sys2Proof/Machine/VecArith.lean ====
section
/-! DEFINITION. The meanings of the custom-2 instructions: floating, compare, conversion, estimate, reduction and
integer operations on lanes (spec 05 R106 to R114; 25 R455 to R461), and of the predicate instructions (23 R408). -/

namespace Sys2Proof.Machine

/-- The vector rounding mode (R55). -/
def Slot.mode (sl : Slot) : Mode := sl.rnd.toNat % 4

/-- Lanes 0 to n-1 of width w, each with its flags: enabled lanes take their result, others keep theirs and raise
nothing (R455, R120). -/
def mapFlags (w : Nat) (p : PWord) (old : VWord) (f : Nat → Nat × BitVec 6) : VWord × BitVec 6 :=
  let rs := (List.range (512 / w)).map fun i => if laneOn p w i then f i else (lane old w i, 0)
  (ofLanes w (rs.map (·.1)), rs.foldl (fun a r => a ||| r.2) 0)

/-- The slot whose turn it is writes lanes of vd under a predicate, ORs flags and retires (R455). -/
def State.vec (s : State) (pred : PReg) (w : Nat) (vd : VReg) (f : Nat → Nat × BitVec 6) : Outcome :=
  let r := mapFlags w (s.me.gov pred) (s.me.rv vd) f
  .next (s.upd fun sl => ((sl.wv vd r.1).orFlags r.2).retire)

/-! ### Floating operations on one lane -/

/-- An operation of one value on a lane of a floating type. -/
def fl1 (ty : LaneTy) (mode : Mode) (f : Num → Num × BitVec 6) (a : Nat) : Nat × BitVec 6 :=
  finishF (laneFmt ty) mode (f (decodeF (laneFmt ty) a))

/-- An operation of two values on lanes of a floating type. -/
def fl2 (ty : LaneTy) (mode : Mode) (f : Num → Num → Num × BitVec 6) (a b : Nat) : Nat × BitVec 6 :=
  finishF (laneFmt ty) mode (f (decodeF (laneFmt ty) a) (decodeF (laneFmt ty) b))

/-- An operation of three values on lanes of a floating type. -/
def fl3 (ty : LaneTy) (mode : Mode) (f : Num → Num → Num → Num × BitVec 6) (a b c : Nat) : Nat × BitVec 6 :=
  finishF (laneFmt ty) mode (f (decodeF (laneFmt ty) a) (decodeF (laneFmt ty) b) (decodeF (laneFmt ty) c))

/-- Both parts of a c16 lane, each a BF16 result of its own (R107, R110). -/
def parts (f : Nat → Nat → Nat × BitVec 6) (a b : Nat) : Nat × BitVec 6 :=
  let (re, f1) := f (a % 65536) (b % 65536)
  let (im, f2) := f (a / 65536) (b / 65536)
  (re + 65536 * im, f1 ||| f2)

/-- An operation on a lane of a floating type or c16. -/
def flC (ty : LaneTy) (f : Nat → Nat → Nat × BitVec 6) (a b : Nat) : Nat × BitVec 6 :=
  if ty = .c16 then parts f a b else f a b

/-- a + b. -/
def laneAdd (ty : LaneTy) (mode : Mode) (a b : Nat) : Nat × BitVec 6 := flC ty (fl2 ty mode (numAdd mode)) a b
/-- a - b: the sign of b inverted, then the sum. -/
def laneSub (ty : LaneTy) (mode : Mode) (a b : Nat) : Nat × BitVec 6 :=
  flC ty (fl2 ty mode fun x y => numAdd mode x y.negate) a b
/-- a × b. -/
def laneMul (ty : LaneTy) (mode : Mode) (a b : Nat) : Nat × BitVec 6 := fl2 ty mode numMul a b
/-- d + a × b, one rounding; the flag of an invalid product stands whatever d holds. -/
def laneFma (ty : LaneTy) (mode : Mode) (a b d : Nat) : Nat × BitVec 6 := fl3 ty mode (numFma mode) a b d
/-- d - a × b, one rounding. -/
def laneFms (ty : LaneTy) (mode : Mode) (a b d : Nat) : Nat × BitVec 6 :=
  fl3 ty mode (fun x y z => numFma mode x.negate y z) a b d
/-- The larger. -/
def laneMax (ty : LaneTy) (a b : Nat) : Nat × BitVec 6 := fl2 ty 0 numMax a b
/-- The smaller. -/
def laneMin (ty : LaneTy) (a b : Nat) : Nat × BitVec 6 := fl2 ty 0 numMin a b
/-- The sign cleared; a NaN becomes canonical (R456). -/
def laneAbs (ty : LaneTy) (a : Nat) : Nat × BitVec 6 := fl1 ty 0 (fun x => (x.abs, fIf x.isSNaN fNV)) a
/-- The sign inverted; a NaN becomes canonical (R456). -/
def laneNeg (ty : LaneTy) (a : Nat) : Nat × BitVec 6 :=
  flC ty (fun x _ => fl1 ty 0 (fun x => (x.negate, fIf x.isSNaN fNV)) x) a 0

/-- ar × br - ai × bi and ar × bi + ai × br, each exact and rounded once to BF16 (R107). -/
def laneCmul (mode : Mode) (a b : Nat) : Nat × BitVec 6 :=
  let d := fun n => decodeF bf16 n
  let (ar, ai, br, bi) := (d (a % 65536), d (a / 65536), d (b % 65536), d (b / 65536))
  let dot := fun (x y z w : Num) =>
    let (p, f1) := numMul x y
    let (q, f2) := numMul z w
    let (r, f3) := numAdd mode p q
    finishF bf16 mode (r, f1 ||| f2 ||| f3)
  let (re, f) := dot ar br ai.negate bi
  let (im, g) := dot ar bi ai br
  (re + 65536 * im, f ||| g)

/-- The arguments a, b and d of lane i. -/
def Slot.la (sl : Slot) (v : VReg) (w i : Nat) : Nat := lane (sl.rv v) w i

/-- A two-operand floating instruction. -/
def State.vec2 (s : State) (pred : PReg) (ty : LaneTy) (vd vs1 vs2 : VReg) (f : Nat → Nat → Nat × BitVec 6) : Outcome :=
  s.vec pred (laneBits ty) vd fun i => f (s.me.la vs1 (laneBits ty) i) (s.me.la vs2 (laneBits ty) i)

/-- A one-operand floating instruction. -/
def State.vec1 (s : State) (pred : PReg) (ty : LaneTy) (vd vs1 : VReg) (f : Nat → Nat × BitVec 6) : Outcome :=
  s.vec pred (laneBits ty) vd fun i => f (s.me.la vs1 (laneBits ty) i)

/-- VADD (R456). -/
def execVadd (pred : PReg) (ty : LaneTy) (vd vs1 vs2 : VReg) (s : State) : Outcome :=
  s.vec2 pred ty vd vs1 vs2 (laneAdd ty s.me.mode)
/-- VSUB (R456). -/
def execVsub (pred : PReg) (ty : LaneTy) (vd vs1 vs2 : VReg) (s : State) : Outcome :=
  s.vec2 pred ty vd vs1 vs2 (laneSub ty s.me.mode)
/-- VMUL (R456). -/
def execVmul (pred : PReg) (ty : LaneTy) (vd vs1 vs2 : VReg) (s : State) : Outcome :=
  s.vec2 pred ty vd vs1 vs2 (laneMul ty s.me.mode)
/-- VFMA (R456). -/
def execVfma (pred : PReg) (ty : LaneTy) (vd vs1 vs2 : VReg) (s : State) : Outcome :=
  s.vec pred (laneBits ty) vd fun i =>
    laneFma ty s.me.mode (s.me.la vs1 (laneBits ty) i) (s.me.la vs2 (laneBits ty) i) (s.me.la vd (laneBits ty) i)
/-- VFMS (R456). -/
def execVfms (pred : PReg) (ty : LaneTy) (vd vs1 vs2 : VReg) (s : State) : Outcome :=
  s.vec pred (laneBits ty) vd fun i =>
    laneFms ty s.me.mode (s.me.la vs1 (laneBits ty) i) (s.me.la vs2 (laneBits ty) i) (s.me.la vd (laneBits ty) i)
/-- VMAX (R112, R456). -/
def execVmax (pred : PReg) (ty : LaneTy) (vd vs1 vs2 : VReg) (s : State) : Outcome :=
  s.vec2 pred ty vd vs1 vs2 (laneMax ty)
/-- VMIN (R112, R456). -/
def execVmin (pred : PReg) (ty : LaneTy) (vd vs1 vs2 : VReg) (s : State) : Outcome :=
  s.vec2 pred ty vd vs1 vs2 (laneMin ty)
/-- VABS (R456). -/
def execVabs (pred : PReg) (ty : LaneTy) (vd vs1 : VReg) (s : State) : Outcome :=
  s.vec1 pred ty vd vs1 (laneAbs ty)
/-- VNEG (R456). -/
def execVneg (pred : PReg) (ty : LaneTy) (vd vs1 : VReg) (s : State) : Outcome :=
  s.vec1 pred ty vd vs1 (laneNeg ty)
/-- VCMUL (R107, R456). -/
def execVcmul (pred : PReg) (vd vs1 vs2 : VReg) (s : State) : Outcome :=
  s.vec2 pred .c16 vd vs1 vs2 (laneCmul s.me.mode)

/-! ### Compares (R112, R457) -/

/-- Predicate bits from lane results: bit i for 32- and 16-bit lanes, bits [31:16] zero for 32-bit lanes; for 8-bit
lanes bit i is lanes 2i and 2i + 1 together; disabled bits keep their value (R457). -/
def placeBits (w : Nat) (gov old : PWord) (r : Nat → Bool) : PWord :=
  (List.range 32).foldl (fun a i =>
    let b := if w = 32 ∧ 16 ≤ i then false
      else if gov.getLsbD i then (if w = 8 then r (2 * i) && r (2 * i + 1) else r i)
      else old.getLsbD i
    a ||| (if b then BitVec.ofNat 32 (2 ^ i) else 0)) 0

/-- A compare of two values and its flag: eq and ne flag a signalling NaN, lt and le any NaN (R112). -/
def fcmp (strictNaN : Bool) (r : Num → Num → Bool) (nanR : Bool) (x y : Num) : Bool × BitVec 6 :=
  if x.isNaN || y.isNaN then (nanR, fIf (strictNaN || x.isSNaN || y.isSNaN) fNV) else (r x y, 0)

/-- A floating compare into a predicate register. -/
def State.vcmp (s : State) (pred : PReg) (ty : LaneTy) (pd : PReg) (vs1 vs2 : VReg)
    (f : Num → Num → Bool × BitVec 6) : Outcome :=
  let w := (laneBits ty)
  let gov := s.me.gov pred
  let rs := (List.range (512 / w)).map fun i => f (decodeF (laneFmt ty) (s.me.la vs1 w i)) (decodeF (laneFmt ty) (s.me.la vs2 w i))
  let r := fun i => ((rs[i]?).map (·.1)).getD false
  let fl := (List.range (512 / w)).foldl (fun a i => a ||| (if laneOn gov w i then ((rs[i]?).map (·.2)).getD 0 else 0)) 0
  .next (s.upd fun sl => ((sl.wp pd (placeBits w gov (sl.rp pd) r)).orFlags fl).retire)

/-- VCMP_EQ (R457). -/
def execVcmpEq (pred : PReg) (ty : LaneTy) (pd : PReg) (vs1 vs2 : VReg) (s : State) : Outcome :=
  s.vcmp pred ty pd vs1 vs2 (fcmp false numEq false)
/-- VCMP_LT (R457). -/
def execVcmpLt (pred : PReg) (ty : LaneTy) (pd : PReg) (vs1 vs2 : VReg) (s : State) : Outcome :=
  s.vcmp pred ty pd vs1 vs2 (fcmp true numLt false)
/-- VCMP_LE (R457). -/
def execVcmpLe (pred : PReg) (ty : LaneTy) (pd : PReg) (vs1 vs2 : VReg) (s : State) : Outcome :=
  s.vcmp pred ty pd vs1 vs2 (fcmp true (fun x y => !numLt y x) false)
/-- VCMP_NE (R457). -/
def execVcmpNe (pred : PReg) (ty : LaneTy) (pd : PReg) (vs1 vs2 : VReg) (s : State) : Outcome :=
  s.vcmp pred ty pd vs1 vs2 (fcmp false (fun x y => !numEq x y) true)

/-- The value of an integer lane: signed, u8 unsigned (R91). -/
def intLane (ty : LaneTy) (n : Nat) : Int := if ty = .u8 then n else toSigned (laneBits ty) n

/-- An integer compare into a predicate register: no flag. -/
def State.vicmp (s : State) (pred : PReg) (ty : LaneTy) (pd : PReg) (vs1 vs2 : VReg) (f : Int → Int → Bool) : Outcome :=
  let w := (laneBits ty)
  let r := fun i => f (intLane ty (s.me.la vs1 w i)) (intLane ty (s.me.la vs2 w i))
  .next (s.upd fun sl => (sl.wp pd (placeBits w (sl.gov pred) (sl.rp pd) r)).retire)

/-- VICMP_EQ (R457). -/
def execVicmpEq (pred : PReg) (ty : LaneTy) (pd : PReg) (vs1 vs2 : VReg) (s : State) : Outcome :=
  s.vicmp pred ty pd vs1 vs2 fun a b => decide (a = b)
/-- VICMP_LT (R457). -/
def execVicmpLt (pred : PReg) (ty : LaneTy) (pd : PReg) (vs1 vs2 : VReg) (s : State) : Outcome :=
  s.vicmp pred ty pd vs1 vs2 fun a b => decide (a < b)
/-- VICMP_LE (R457). -/
def execVicmpLe (pred : PReg) (ty : LaneTy) (pd : PReg) (vs1 vs2 : VReg) (s : State) : Outcome :=
  s.vicmp pred ty pd vs1 vs2 fun a b => decide (a ≤ b)
/-- VICMP_NE (R457). -/
def execVicmpNe (pred : PReg) (ty : LaneTy) (pd : PReg) (vs1 vs2 : VReg) (s : State) : Outcome :=
  s.vicmp pred ty pd vs1 vs2 fun a b => decide (a ≠ b)

/-! ### Conversions (R113, R458) -/

/-- One lane converted from a type to another (R113). -/
def convert (src ty : LaneTy) (mode : Mode) (n : Nat) : Nat × BitVec 6 :=
  if src.isInt then
    let i := intLane src n
    if ty.isInt then
      let (v, f) := saturate (intBounds ty).1 (intBounds ty).2 i
      (ofInt (laneBits ty) v, f)
    else roundTo (laneFmt ty) mode (Num.ofInt i)
  else
    let x := decodeF (laneFmt src) n
    if ty.isInt then
      let (v, f) := toInt (intBounds ty).1 (intBounds ty).2 mode x
      (ofInt (laneBits ty) v, f)
    else finishF (laneFmt ty) mode (x, fIf x.isSNaN fNV)

/-- VCVT (R458): the lower of the two lane counts is converted, further destination lanes become 0. -/
def execVcvt (pred : PReg) (ty src : LaneTy) (vd vs1 : VReg) (s : State) : Outcome :=
  let n := min (512 / (laneBits src)) (512 / (laneBits ty))
  s.vec pred (laneBits ty) vd fun i => if i < n then convert src ty s.me.mode (s.me.la vs1 (laneBits src) i) else (0, 0)

/-! ### Estimates (R114, R459) -/

/-- VRCPE (R459). -/
def execVrcpe (pred : PReg) (ty : LaneTy) (vd vs1 : VReg) (s : State) : Outcome :=
  s.vec1 pred ty vd vs1 (fl1 ty s.me.mode numRcpe)
/-- VRSQE (R459). -/
def execVrsqe (pred : PReg) (ty : LaneTy) (vd vs1 : VReg) (s : State) : Outcome :=
  s.vec1 pred ty vd vs1 (fl1 ty s.me.mode numRsqe)
/-- VEXP2E (R459). -/
def execVexp2e (pred : PReg) (ty : LaneTy) (vd vs1 : VReg) (s : State) : Outcome :=
  s.vec1 pred ty vd vs1 (fl1 ty s.me.mode numExp2e)

/-! ### Reductions (R460) -/

/-- One halving step: neighbours in pairs. -/
def pairUp (f : Nat → Nat → Nat × BitVec 6) : List Nat → List Nat × BitVec 6
  | a :: b :: r =>
    let (c, g) := f a b
    let (l, h) := pairUp f r
    (c :: l, g ||| h)
  | l => (l, 0)

/-- Halving steps, n of them. -/
def halve (f : Nat → Nat → Nat × BitVec 6) : Nat → List Nat → List Nat × BitVec 6
  | 0, l => (l, 0)
  | n + 1, l =>
    let (l, g) := pairUp f l
    let (l, h) := halve f n l
    (l, g ||| h)

/-- A reduction of the enabled lanes; vd is written whole. -/
def State.reduce (s : State) (pred : PReg) (ty : LaneTy) (vd vs1 : VReg) (ident : Nat) (f : Nat → Nat → Nat × BitVec 6) :
    Outcome :=
  let w := (laneBits ty)
  let u := (List.range (512 / w)).map fun i => if laneOn (s.me.gov pred) w i then s.me.la vs1 w i else ident
  let (l, g) := halve f (if w = 32 then 4 else 5) u
  .next (s.upd fun sl => ((sl.wv vd (BitVec.ofNat 512 (l.headD 0))).orFlags g).retire)

/-- VREDS (R460): the identity is -0, in both parts of a c16 lane. -/
def execVreds (pred : PReg) (ty : LaneTy) (vd vs1 : VReg) (s : State) : Outcome :=
  let z := signBit (laneFmt ty) true
  s.reduce pred ty vd vs1 (if ty = .c16 then z + 65536 * z else z) (laneAdd ty s.me.mode)
/-- VREDM (R460): the identity is minus infinity. -/
def execVredm (pred : PReg) (ty : LaneTy) (vd vs1 : VReg) (s : State) : Outcome :=
  s.reduce pred ty vd vs1 (signBit (laneFmt ty) true + (laneFmt ty).ones * 2 ^ (laneFmt ty).fb) (laneMax ty)

/-! ### Integer operations (R461) -/

/-- An integer instruction: no flag, low bits kept. -/
def State.veci (s : State) (pred : PReg) (ty : LaneTy) (vd vs1 vs2 : VReg) (f : Nat → Nat → Nat) : Outcome :=
  s.vec2 pred ty vd vs1 vs2 fun a b => (f a b % 2 ^ (laneBits ty), 0)

/-- An arithmetic shift right of a lane; for u8 logical. -/
def laneSra (ty : LaneTy) (a b : Nat) : Nat := ofInt (laneBits ty) (intLane ty a / 2 ^ (b % (laneBits ty)))
/-- The larger integer lane. -/
def laneImax (ty : LaneTy) (a b : Nat) : Nat := if intLane ty a < intLane ty b then b else a
/-- The smaller integer lane. -/
def laneImin (ty : LaneTy) (a b : Nat) : Nat := if intLane ty b < intLane ty a then b else a

/-- VIADD (R461). -/
def execViadd (pred : PReg) (ty : LaneTy) (vd vs1 vs2 : VReg) (s : State) : Outcome :=
  s.veci pred ty vd vs1 vs2 (· + ·)
/-- VISUB (R461). -/
def execVisub (pred : PReg) (ty : LaneTy) (vd vs1 vs2 : VReg) (s : State) : Outcome :=
  s.veci pred ty vd vs1 vs2 fun a b => a + 2 ^ (laneBits ty) - b
/-- VIMUL (R461). -/
def execVimul (pred : PReg) (ty : LaneTy) (vd vs1 vs2 : VReg) (s : State) : Outcome :=
  s.veci pred ty vd vs1 vs2 (· * ·)
/-- VAND (R461). -/
def execVand (pred : PReg) (ty : LaneTy) (vd vs1 vs2 : VReg) (s : State) : Outcome :=
  s.veci pred ty vd vs1 vs2 (· &&& ·)
/-- VOR (R461). -/
def execVor (pred : PReg) (ty : LaneTy) (vd vs1 vs2 : VReg) (s : State) : Outcome :=
  s.veci pred ty vd vs1 vs2 (· ||| ·)
/-- VXOR (R461). -/
def execVxor (pred : PReg) (ty : LaneTy) (vd vs1 vs2 : VReg) (s : State) : Outcome :=
  s.veci pred ty vd vs1 vs2 (· ^^^ ·)
/-- VSHL (R461). -/
def execVshl (pred : PReg) (ty : LaneTy) (vd vs1 vs2 : VReg) (s : State) : Outcome :=
  s.veci pred ty vd vs1 vs2 fun a b => a * 2 ^ (b % (laneBits ty))
/-- VSHR (R461). -/
def execVshr (pred : PReg) (ty : LaneTy) (vd vs1 vs2 : VReg) (s : State) : Outcome :=
  s.veci pred ty vd vs1 vs2 fun a b => a / 2 ^ (b % (laneBits ty))
/-- VSRA (R461). -/
def execVsra (pred : PReg) (ty : LaneTy) (vd vs1 vs2 : VReg) (s : State) : Outcome :=
  s.veci pred ty vd vs1 vs2 (laneSra ty)
/-- VIMAX (R461). -/
def execVimax (pred : PReg) (ty : LaneTy) (vd vs1 vs2 : VReg) (s : State) : Outcome :=
  s.veci pred ty vd vs1 vs2 (laneImax ty)
/-- VIMIN (R461). -/
def execVimin (pred : PReg) (ty : LaneTy) (vd vs1 vs2 : VReg) (s : State) : Outcome :=
  s.veci pred ty vd vs1 vs2 (laneImin ty)

/-! ### Predicates (R408) -/

/-- The slot whose turn it is writes a predicate and retires. -/
def State.pset (s : State) (pd : PReg) (w : PWord) : Outcome := .next (s.upd (·.retireP pd w))

/-- PAND (R408). -/
def execPand (pd pa pb : PReg) (s : State) : Outcome := s.pset pd (s.me.rp pa &&& s.me.rp pb)
/-- POR (R408). -/
def execPor (pd pa pb : PReg) (s : State) : Outcome := s.pset pd (s.me.rp pa ||| s.me.rp pb)
/-- PXOR (R408). -/
def execPxor (pd pa pb : PReg) (s : State) : Outcome := s.pset pd (s.me.rp pa ^^^ s.me.rp pb)
/-- PNOT (R408). -/
def execPnot (pd pa : PReg) (s : State) : Outcome := s.pset pd (~~~ s.me.rp pa)
/-- PCNT (R408). -/
def execPcnt (rd : XReg) (pa : PReg) (s : State) : Outcome :=
  s.alu rd (BitVec.ofNat 64 ((List.range 32).filter fun i => (s.me.rp pa).getLsbD i).length)
/-- PFIRST (R408). -/
def execPfirst (rd : XReg) (pa : PReg) (s : State) : Outcome :=
  s.alu rd (BitVec.ofNat 64 (((List.range 32).find? fun i => (s.me.rp pa).getLsbD i).getD 32))

end Sys2Proof.Machine
end

