-- ==== Sys2Proof/Machine/Ksf.lean ====
section
/-! DEFINITION. The Krovolo stream fabric: configuration images and their checks, one stream unit through a graph of
cells, and KSFBIND, KSFLOAD and the fetch of an image by an instance (spec 11 R230 to R239; 21 R380, R381). -/

namespace Sys2Proof.Machine

/-! ### Configuration images (R233) -/

/-- n bytes at an offset of an image. -/
def imgAt (img off n : Nat) : Nat := img / 2 ^ (8 * off) % 2 ^ (8 * n)

def imgNum (img : Nat) : Nat := imgAt img 6 1
def imgDen (img : Nat) : Nat := imgAt img 7 1
def imgEmit (img : Nat) : Nat := imgAt img 8 1
def imgResult (img : Nat) : Nat := imgAt img 9 1
def imgActive (img i : Nat) : Bool := decide (i < 16) && imgAt img 10 2 / 2 ^ i % 2 == 1
def cellOp (img i : Nat) : Nat := imgAt img (0x40 + 16 * i) 1
def cellTy (img i : Nat) : Nat := imgAt img (0x41 + 16 * i) 1
def cellA (img i : Nat) : Nat := imgAt img (0x42 + 16 * i) 1
def cellB (img i : Nat) : Nat := imgAt img (0x43 + 16 * i) 1
def cellK (img i : Nat) : VWord := BitVec.ofNat 512 (imgAt img (0x140 + 64 * i) 64)
def cellLut (img i b : Nat) : Nat := imgAt img (0x540 + 256 * i + b) 1

/-- The CRC-32 of n bytes of an image from an offset. -/
def imgCrc (img off n : Nat) : Nat := (crc32 ((List.range n).map fun i => BitVec.ofNat 8 (imgAt img (off + i) 1))).toNat

/-- The operation reads its input b. -/
def opTwo (op : Nat) : Bool := decide (1 ≤ op ∧ op ≤ 6) || decide (8 ≤ op ∧ op ≤ 16) || op == 23

/-- The operation accepts the type (R231). -/
def opAccepts (op ty : Nat) : Bool :=
  let fl := decide (ty ≤ 2)
  let int := decide (4 ≤ ty ∧ ty ≤ 7)
  match op with
  | 0 | 16 | 23 | 24 | 25 => decide (ty ≤ 8)
  | 1 | 2 | 3 | 5 | 6 | 7 | 14 | 15 => fl || int
  | 4 | 21 => fl
  | 8 | 9 | 10 | 11 | 12 | 13 => int
  | 17 => fl || decide (4 ≤ ty ∧ ty ≤ 6)
  | 18 | 19 => ty == 8
  | 20 => ty == 6
  | 22 => ty == 4
  | _ => false

/-- The inputs that a cell reads, as source codes. -/
def cellSrcs (img i : Nat) : List Nat := if opTwo (cellOp img i) then [cellA img i, cellB img i] else [cellA img i]

/-- The neighbour that a source code names, if it names one inside the grid. -/
def neighbour (i src : Nat) : Option Nat :=
  if src = 1 then (if 4 ≤ i then some (i - 4) else none)
  else if src = 2 then (if i % 4 ≠ 0 then some (i - 1) else none)
  else none

/-- Rates are counted in output beats per stream unit, times 2^16, so that halving stays exact. -/
def rateOne : Nat := 0x10000

/-- Input rate of a cell from its output rate. -/
def inRate (op r : Nat) : Nat := if op = 24 then 2 * r else if op = 25 then r / 2 else r
/-- Output rate of a cell from its input rate. -/
def outRate (op r : Nat) : Nat := if op = 24 then r / 2 else if op = 25 then 2 * r else r

/-- Output rates that follow from `in`, cell by cell from the north-west (R232). -/
def ratesForward (img : Nat) : List (Option Nat) :=
  (List.range 16).foldl (fun (rs : List (Option Nat)) i =>
    let src := fun c => if c = 0 then some (rateOne * imgDen img) else
      match neighbour i c with
      | some j => (rs[j]?).getD none
      | none => none
    let known := (cellSrcs img i).filterMap src
    rs ++ [if imgActive img i then known.head?.map (outRate (cellOp img i)) else none]) []

/-- The active cells that read cell i. -/
def readers (img i : Nat) : List Nat :=
  (List.range 16).filter fun j => imgActive img j && (cellSrcs img j).any fun c => neighbour j c == some i

/-- Output rates of every cell: a cell with no stream rate of its own takes that of its readers, from the south-east
(R232). -/
def ratesAll (img : Nat) : List (Nat × Nat) :=
  let fw := ratesForward img
  (List.range 16).reverse.foldl (fun (rs : List (Nat × Nat)) i =>
    if !imgActive img i then rs else
    match (fw[i]?).getD none with
    | some r => (i, r) :: rs
    | none =>
      let ofReader := (readers img i).head?.map fun j => inRate (cellOp img j) (tget 0 rs j)
      let r := if i = imgEmit img then rateOne * imgNum img else ofReader.getD (rateOne * imgDen img)
      (i, r) :: rs) []

/-- Every rate agrees and every cell handles whole beats in a unit (R232). -/
def ratesOk (img : Nat) : Bool :=
  let rs := ratesAll img
  let okCell := fun i =>
    let r := tget 0 rs i
    let ri := inRate (cellOp img i) r
    r % rateOne == 0 && ri % rateOne == 0
      && (cellSrcs img i).all fun c =>
        if c = 0 then ri == rateOne * imgDen img
        else match neighbour i c with
          | some j => tget 0 rs j == ri
          | none => true
  let code := fun n => n == 1 || n == 2 || n == 4
  code (imgNum img) && code (imgDen img)
    && (List.range 16).all (fun i => !imgActive img i || okCell i)
    && tget 0 rs (imgEmit img) == rateOne * imgNum img

/-- Bytes marked zero are zero: the head, the tails of active cells, everything of inactive ones. -/
def zerosOk (img : Nat) : Bool :=
  imgAt img 0x10 48 == 0 && (List.range 16).all fun i =>
    if imgActive img i then imgAt img (0x44 + 16 * i) 12 == 0
    else imgAt img (0x40 + 16 * i) 16 == 0 && imgAt img (0x140 + 64 * i) 64 == 0 && imgAt img (0x540 + 256 * i) 256 == 0

/-- The lowest of the codes 2 to 6 of R234 that applies to an image. -/
def imgCode (img : Nat) : Option Nat :=
  let act := (List.range 16).filter (imgActive img)
  if imgAt img 0 4 ≠ 0x46534B ∨ imgAt img 4 2 ≠ 1 ∨ imgAt img 12 4 ≠ imgCrc img 0x40 0x1500 ∨ zerosOk img = false then
    some 2
  else if act.any fun i => !(opAccepts (cellOp img i) (cellTy img i) && decide (cellA img i ≤ 4) && decide (cellB img i ≤ 4)) then
    some 3
  else if (act.any fun i => (cellSrcs img i).any fun c => (c == 1 || c == 2) &&
        (match neighbour i c with | some j => !imgActive img j | none => true))
      || !imgActive img (imgEmit img) || (imgResult img != 0xFF && !imgActive img (imgResult img)) then some 4
  else if !ratesOk img then some 5
  else if 1 < (act.filter fun i => cellOp img i == 18 || cellOp img i == 19).length
      ∨ (imgResult img ≠ 0xFF ∧ [21, 22, 5, 6].contains (cellOp img (imgResult img)) = false) then some 6
  else none

/-! ### Cells (R230, R231) -/

/-- A beat: 64 bytes, and whether it depends on a poisoned word (R239). -/
abbrev Beat := VWord × Bool

/-- Lane width of a cell type; c16 lanes move as 32-bit words, dx8 as bytes. -/
def cellWidth (ty : Nat) : Nat := if ty ≤ 7 then laneBits (LaneTy.ofCode (BitVec.ofNat 3 ty)) else 8

/-- A lane-wise operation of two beats, with its flags. -/
def lanes2 (w : Nat) (f : Nat → Nat → Nat × BitVec 6) (a b : VWord) : VWord × BitVec 6 :=
  let rs := (List.range (512 / w)).map fun i => f (lane a w i) (lane b w i)
  (ofLanes w (rs.map (·.1)), rs.foldl (fun x r => x ||| r.2) 0)

/-- All ones or zero. -/
def maskLane (w : Nat) (b : Bool) : Nat := if b then 2 ^ w - 1 else 0

/-- The output of a cell but for the ones that change the number of beats or use the side stream; `k` is K. -/
def cellOut (op ty : Nat) (a b k : VWord) (lut : Nat → Nat) : VWord × BitVec 6 :=
  let t := LaneTy.ofCode (BitVec.ofNat 3 ty)
  let w := cellWidth ty
  let fl := decide (ty ≤ 2)
  let int := fun (f : Nat → Nat → Nat) => lanes2 w (fun x y => (f x y % 2 ^ w, 0)) a b
  let cmp := fun (strictNaN : Bool) (r : Num → Num → Bool) => lanes2 w (fun x y =>
    let (c, g) := fcmp strictNaN r false (decodeF (laneFmt t) x) (decodeF (laneFmt t) y)
    (maskLane w c, g)) a b
  match op with
  | 1 => if fl then lanes2 w (laneAdd t 0) a b else int (· + ·)
  | 2 => if fl then lanes2 w (laneSub t 0) a b else int fun x y => x + 2 ^ w - y
  | 3 => if fl then lanes2 w (laneMul t 0) a b else int (· * ·)
  | 4 =>
    let rs := (List.range (512 / w)).map fun i => laneFma t 0 (lane a w i) (lane b w i) (lane k w i)
    (ofLanes w (rs.map (·.1)), rs.foldl (fun x r => x ||| r.2) 0)
  | 5 => if fl then lanes2 w (laneMax t) a b else int (laneImax t)
  | 6 => if fl then lanes2 w (laneMin t) a b else int (laneImin t)
  | 7 => if fl then lanes2 w (fun x _ => laneAbs t x) a a else int fun x _ => ofInt w (intLane t x).natAbs
  | 8 => (a &&& b, 0)
  | 9 => (a ||| b, 0)
  | 10 => (a ^^^ b, 0)
  | 11 => int fun x y => x * 2 ^ (y % w)
  | 12 => int fun x y => x / 2 ^ (y % w)
  | 13 => int (laneSra t)
  | 14 => if fl then cmp true numLt else int fun x y => maskLane w (decide (intLane t x < intLane t y))
  | 15 => if fl then cmp false numEq else int fun x y => maskLane w (x == y)
  | 16 => (ofLanes w ((List.range (512 / w)).map fun i => if lane a w i ≠ 0 then lane b w i else lane k w i), 0)
  | 17 =>
    let rs := (List.range 16).map fun i =>
      if ty = 0 then convert .bf16 .f32 0 (lane a 16 i) else convert .f32 t 0 (lane a 32 i)
    (ofLanes w (rs.map (·.1)), rs.foldl (fun x r => x ||| r.2) 0)
  | 20 => (ofLanes 8 ((List.range 64).map fun i => lut (lane a 8 i)), 0)
  | 23 => (if b = 0 then a else 0, 0)
  | _ => (a, 0)

/-- DXENC: element plane, side bytes E0 and E1, flags. -/
def dxEnc (a : VWord) : VWord × Nat × BitVec 6 :=
  let (e0, e1, es, f) := quantise 3 ((List.range 32).map fun i => decodeF bf16 (lane a 16 i))
  (ofLanes 8 es, e0 + 256 * e1, f)

/-- DXDEC: 32 bf16 lanes from the element plane and two side bytes. -/
def dxDec (a : VWord) (side : Nat) : VWord × BitVec 6 :=
  let rs := (List.range 32).map fun i => roundTo bf16 0 (decodeDx 3 (side % 256) (side / 256) (lane a 8 i))
  (ofLanes 16 (rs.map (·.1)), rs.foldl (fun x r => x ||| r.2) 0)

/-- The lower 32 bytes of a beat. -/
def lowHalf (a : VWord) : VWord := BitVec.ofNat 512 (a.toNat % 2 ^ 256)

/-- The progress of one cell through a unit: its state register, outputs, flags, side values still to read, side
values written. -/
structure CellRun where
  st    : Beat
  outs  : List Beat
  flags : BitVec 6
  side  : List Beat
  sideW : List Beat
deriving DecidableEq, Repr

/-- One step of a cell on its inputs a, b and, for PACK2, the second input beat. -/
def cellStep (img i : Nat) (r : CellRun) (a b a2 : Beat) : CellRun :=
  let op := cellOp img i
  let emit := fun (r : CellRun) (o : Beat) (f : BitVec 6) => { r with outs := r.outs ++ [o], st := o, flags := r.flags ||| f }
  match op with
  | 18 =>
    let (v, e, f) := dxEnc a.1
    { emit r (v, a.2) f with sideW := r.sideW ++ [(BitVec.ofNat 512 e, a.2)] }
  | 19 =>
    let sd := r.side.headD (0, false)
    let (v, f) := dxDec a.1 sd.1.toNat
    { emit r (v, a.2 || sd.2) f with side := r.side.drop 1 }
  | 21 =>
    let t := LaneTy.ofCode (BitVec.ofNat 3 (cellTy img i))
    let (v, f) := lanes2 (laneBits t) (laneAdd t 0) r.st.1 a.1
    { r with outs := r.outs ++ [a], st := (v, r.st.2 || a.2), flags := r.flags ||| f }
  | 22 =>
    let (v, _) := lanes2 32 (fun x y => ((x + y) % 2 ^ 32, 0)) r.st.1 a.1
    { r with outs := r.outs ++ [a], st := (v, r.st.2 || a.2) }
  | 24 => emit r (lowHalf a.1 ||| (lowHalf a2.1 <<< 256), a.2 || a2.2) 0
  | 25 => emit (emit r (lowHalf a.1, a.2) 0) (a.1 >>> 256, a.2) 0
  | _ =>
    let (v, f) := cellOut op (cellTy img i) a.1 b.1 (cellK img i) (cellLut img i)
    emit r (v, a.2 || (opTwo op && b.2)) f

/-- The input beat of a source code: a stream, K, or the state register as it stands. -/
def cellIn (img i src j : Nat) (ins : List Beat) (outs : List (List Beat)) (st : Beat) : Beat :=
  match src with
  | 0 => ins.getD j (0, false)
  | 3 => (cellK img i, false)
  | 4 => st
  | _ => match neighbour i src with
    | some n => (outs.getD n []).getD j (0, false)
    | none => (0, false)

/-- What a stream unit gives: output beats, the state registers after it, flags, and side values written. -/
structure UnitOut where
  outs  : List Beat
  regs  : List Beat
  flags : BitVec 6
  sideW : List Beat
deriving DecidableEq, Repr

/-- One stream unit through the graph of an image (R230 to R232). -/
def ksfUnit (img : Nat) (regs ins side : List Beat) : UnitOut :=
  let rates := ratesAll img
  let go := (List.range 16).foldl (fun (x : List (List Beat) × List Beat × BitVec 6 × List Beat) i =>
    let (outs, rs, fl, sw) := x
    let st := regs.getD i (0, false)
    if !imgActive img i then (outs ++ [[]], rs ++ [st], fl, sw) else
    let op := cellOp img i
    let n := inRate op (tget 0 rates i) / rateOne
    let steps := if op = 24 then n / 2 else n
    let r := (List.range steps).foldl (fun (r : CellRun) j =>
      let j1 := if op = 24 then 2 * j else j
      cellStep img i r (cellIn img i (cellA img i) j1 ins outs r.st) (cellIn img i (cellB img i) j1 ins outs r.st)
        (cellIn img i (cellA img i) (j1 + 1) ins outs r.st))
      { st := st, outs := [], flags := 0, side := side, sideW := [] }
    (outs ++ [r.outs], rs ++ [r.st], fl ||| r.flags, sw ++ r.sideW)) ([], [], 0, [])
  { outs := go.1.getD (imgEmit img) [], regs := go.2.1, flags := go.2.2.1, sideW := go.2.2.2 }

/-- The cell that uses the side stream. -/
def dxCell (img : Nat) : Option Nat :=
  (List.range 16).find? fun i => imgActive img i && (cellOp img i == 18 || cellOp img i == 19)

/-- Side bytes of a unit: two for each beat that the DX cell handles (R237). -/
def sideBytes (img : Nat) : Nat :=
  match dxCell img with
  | some i => 2 * (tget 0 (ratesAll img) i / rateOne)
  | none => 0

/-- Two results of instances combined: SUM32 modulo 2^32, MAX and MIN the extreme, ACC added RNE (R238). -/
def combineRes (img : Nat) (a b : Beat) : Beat × BitVec 6 :=
  let i := imgResult img
  let t := LaneTy.ofCode (BitVec.ofNat 3 (cellTy img i))
  let (v, f) := match cellOp img i with
    | 22 => lanes2 32 (fun x y => ((x + y) % 2 ^ 32, 0)) a.1 b.1
    | 21 => lanes2 (laneBits t) (laneAdd t 0) a.1 b.1
    | op => cellOut op (cellTy img i) a.1 b.1 0 (fun x => x)
  ((v, a.2 || b.2), f)

/-- The combination of a seed, if any, with the result cell's registers of every instance, in the order in which the
instances came to carry units (log entry 14). -/
def resultOf (img : Nat) (seed : Option Beat) (regs : KsfRegs) : Beat × BitVec 6 :=
  let vals := seed.toList ++ regs.map fun e => e.2.getD (imgResult img) (0, false)
  match vals with
  | [] => ((0, false), 0)
  | v :: vs => vs.foldl (fun (a : Beat × BitVec 6) x => let (r, f) := combineRes img a.1 x; (r, a.2 ||| f)) (v, 0)

/-! ### Images of teams and instances (R234) -/

/-- The team whose save area `teamctx` names. -/
def State.teamBySave (s : State) (save : Word) : Option Nat := (s.teams.find? fun e => e.2.save == save).map (·.1)

/-- The address of configuration slot n of a save area (R260). -/
def ksfSlotVa (save : Word) (n : Nat) : Word := save + BitVec.ofNat 64 (0x1000 + n * 0x1540)

/-- The image that the instance at a channel holds for a team's slot, if it is the one last loaded. -/
def State.resident (s : State) (chan tid n : Nat) : Option Nat :=
  match s.team? tid with
  | none => none
  | some t => ((s.chan chan).images.find? fun e =>
      e.team == tid && e.gen == t.gen && e.slot == n && e.load == (t.ksfGen.toList).getD n 0).map (·.image)

/-- The image in a team's own slot. -/
def State.ksfImage (s : State) (tid n : Nat) : Option Nat :=
  match s.team? tid with
  | none => none
  | some t => match s.readVa (t.ctx tid) (ksfSlotVa t.save n) 0x1540 with
    | .ok (img, _) => some img
    | .error _ => none

/-- KSF_IMAGE_FETCH (R234): an instance takes the image of a team's slot; the oldest of eight leaves. -/
def execKsfImageFetch (chan tid slot : Nat) (s : State) : Outcome :=
  .next (match s.team? tid, s.ksfImage tid slot with
    | some t, some img =>
      let e : KsfImage := { team := tid, gen := t.gen, slot := slot, load := (t.ksfGen.toList).getD slot 0, image := img }
      s.modChan chan fun c =>
        let l := c.images.filter (fun o => !(o.team == tid && o.slot == slot)) ++ [e]
        { c with images := l.drop (l.length - 8) }
    | _, _ => s)

/-- A stream bound to a configuration slot is not finished: elements are left to read, or pushed elements to write. -/
def Stream.ksfOpen (t : Stream) (n img : Nat) : Bool :=
  let total := t.counts.foldl (· * ·) 1
  (t.ksf.map (·.slot)) == some n && !t.bad
    && (if t.out then !t.ahead.isEmpty || decide (t.pos < total) else decide (t.pos < total * imgNum img / imgDen img))

/-- A copy or stream of the team, running or saved, is bound to a slot and not finished. -/
def State.ksfBusy (s : State) (tid n : Nat) : Bool :=
  let img := (s.ksfImage tid n).getD 0
  let copies := fun (k : CoreSt) (mine : Copy → Bool) =>
    k.chans.toList.any fun l => l.any fun c => mine c && (c.ksf.map (·.slot)) == some n
  let streams := fun (sl : Slot) => sl.streams.any fun q => Stream.ksfOpen q.2 n img
  s.coreTab.any (fun e => copies e.2 fun c => (s.slot c.sid).team == tid)
    || s.slots.any (fun e => e.2.team == tid && streams e.2)
    || (match (s.team? tid).bind (·.saved) with
        | some sv => sv.cores.any (fun e => copies e.2.2 fun _ => true) || sv.slots.any fun e => streams e.2.2
        | none => false)

/-- A configuration slot's load generation rises: with its team, or in a save area whose team is not yet accepted
(R234; log entry 28). -/
def State.loaded (s : State) (tid : Option Nat) (save : Word) (n : Nat) : State :=
  match tid with
  | some t => s.count t fun t =>
      { t with ksfHas := t.ksfHas ||| BitVec.ofNat 8 (2 ^ n),
               ksfGen := t.ksfGen.set! n ((t.ksfGen.toList.getD n 0 + 1) % 65536) }
  | none =>
    match s.resolve (s.kctx s.sid) (save + BitVec.ofNat 64 (0x58 + 2 * n)) 2 .store with
    | .ok h => h.st.put h.pa 2 ((h.st.rd h.pa 2 + 1) % 65536)
    | .error _ => s

/-- KSFLOAD (R234, R381). -/
def execKsfload (rs1 rs2 : XReg) (s : State) : Outcome :=
  s.kernelOnly (.ksfload rs1 rs2) fun _ =>
    let a := s.me.rx rs1
    let n := s.me.rx rs2
    let bad := fun (code : Nat) => Res.trap (Trap.sync 21 a (BitVec.ofNat 64 code))
    let save := s.me.teamctx
    let tid := s.teamBySave save
    if 7 < n.toNat then bad 7
    else if a.toNat % 64 ≠ 0 ∨ a.extractLsb' 57 7 ≠ 0 then bad 1
    else match s.readVa (s.ctx s.sid) a 0x1540 with
      | .error _ => bad 1
      | .ok (img, s1) =>
        match imgCode img with
        | some c => bad c
        | none =>
          if (tid.map fun t => s1.ksfBusy t n.toNat) = some true then bad 7
          else match s1.writeVa (s1.kctx s.sid) (ksfSlotVa save n.toNat) 0x1540 img with
            | .error (va, d) => .trap (Trap.sync 7 va d)
            | .ok s2 =>
              (s2.loaded tid save n.toNat).ret

/-! ### Bindings (R235, R380) -/

/-- The operands of KSFBIND are those that R235 allows. -/
def ksfOperandsOk (a b : Word) : Bool :=
  decide (a.toNat < 16) && (a.getLsbD 3 || decide (a.toNat % 8 < 4)) && b.extractLsb' 17 47 == 0 && !b.getLsbD 5
    && (b.getLsbD 4 || b.extractLsb' 6 11 == 0)

/-- KSFBIND (R235, R380): binds or unbinds a porter channel of the core or a queue of the slot; a slot that holds no image is
refused, for an unbinding too. -/
def execKsfbind (rs1 rs2 : XReg) (s : State) : Outcome :=
  s.clusterOnly (.ksfbind rs1 rs2) fun _ =>
    let a := s.me.rx rs1
    let b := s.me.rx rs2
    let n := b.toNat % 8
    let has := match s.teamOf s.me with | some t => t.ksfHas.getLsbD n | none => false
    if ksfOperandsOk a b && has then
      let k := a.toNat % 8
      let sel : KsfSel := { slot := n, recOff := if b.getLsbD 4 then some (b.toNat % 0x20000 / 64 * 64) else none }
      let put := fun (l : List (Nat × KsfSel)) => if b.getLsbD 3 then tset l k sel else tdel l k
      if a.getLsbD 3 then s.ret fun sl => { sl with qksf := put sl.qksf }
      else (s.modCore s.core fun c => { c with cksf := put c.cksf }).ret
    else .trap (Trap.sync 21 a b)

/-- The binding that a copy or stream samples: the record is read from the own local store (R235). -/
def State.sampleKsf (s : State) (core : Nat) (sel : KsfSel) : KsfBind :=
  match sel.recOff with
  | none => { slot := sel.slot, result := 0, side := 0 }
  | some off => { slot := sel.slot, result := BitVec.ofNat 64 (s.rd (lsPa core + off) 8),
                  side := BitVec.ofNat 64 (s.rd (lsPa core + off + 8) 8) }

/-- A sampled record is as R235 gives it: RESULT 64-aligned and local, SIDE 2-aligned and local, the rest zero. -/
def State.ksfRecordOk (s : State) (core : Nat) (sel : KsfSel) : Bool :=
  let b := s.sampleKsf core sel
  (match sel.recOff with
    | none => true
    | some off => s.rd (lsPa core + off + 16) 48 == 0)
    && b.result.toNat % 64 == 0 && b.side.toNat % 2 == 0
    && b.result.extractLsb' 57 7 == 0 && b.side.extractLsb' 57 7 == 0

end Sys2Proof.Machine
end

