-- ==== Sys2Proof/Machine/Porter.lean ====
section
/-! DEFINITION. The dependence tracker; copies: their issue, delivery burst by burst or unit by unit, completion and
suspension; batches and byte-count barriers (spec 07 R153 to R158; 08 R177 to R180; 11 R236 to R239; 20 R337, R338,
R349 to R354, R362). -/

namespace Sys2Proof.Machine

/-! ### Footprints and the tracker (R177, R178) -/

/-- A range in 64-byte blocks. -/
def blocksOf (a n : Nat) : Range := ⟨a / 64, (a + n + 63) / 64⟩

/-- A 512 MiB-aligned region around an address, in blocks (R177). -/
def bigRegion (a : Nat) : Range := ⟨a / 2 ^ 29 * 2 ^ 23, (a / 2 ^ 29 + 1) * 2 ^ 23⟩

/-- An edge between two entries: read after write, write after read, or write after write. -/
def Track.edge (e l : Track) : Bool :=
  let w := fun (t : Track) => t.write.toList
  (w e).any (fun r => l.reads.any r.meets || (w l).any r.meets) || e.reads.any fun r => (w l).any r.meets

/-- The cluster's tracker holds its 256 entries. -/
def State.trackerFull (s : State) (cl : Nat) : Bool := decide (256 ≤ (s.clusterSt cl).tracker.length)

/-- A footprint enters the tracker: its ticket, and the state. -/
def State.enterTrack (s : State) (cl : Nat) (reads : List Range) (write : Option Range) : Nat × State :=
  let t := (s.clusterSt cl).nextTicket
  (t, s.modCluster cl fun c => { c with tracker := c.tracker ++ [{ ticket := t, reads := reads, write := write, since := s.cycle }],
                                        nextTicket := t + 1 })

/-- An entry leaves the tracker. -/
def State.leaveTrack (s : State) (cl ticket : Nat) : State :=
  s.modCluster cl fun c =>
    let rest := c.tracker.filter fun (e : Track) => e.ticket != ticket
    { c with tracker := match c.tracker.find? fun (e : Track) => e.ticket == ticket with
        | none => rest
        | some me => rest.map fun (e : Track) => if ticket < e.ticket ∧ me.edge e = true then { e with since := s.cycle } else e }

/-- No earlier entry with an edge to this one is outstanding. -/
def State.depsClear (s : State) (cl ticket : Nat) : Bool :=
  let tr := (s.clusterSt cl).tracker
  match tr.find? fun e => e.ticket == ticket with
  | none => true
  | some me => !tr.any fun e => decide (e.ticket < ticket) && e.edge me

/-! ### Copies (R153, R154) -/

/-- The context of a copy's accesses. -/
def State.copyCtx (s : State) (c : Copy) : Ctx :=
  { sid := c.sid, core := coreOf c.sid, level := c.level, asid := c.asid, ptb := c.ptb, team := (s.slot c.sid).team,
    thread := false }

/-- Index i of an indexed copy: that of the element in delivery as it was read, of any other as its local store holds it now
(R154). -/
def State.copyIdx (s : State) (c : Copy) (i : Nat) : Nat :=
  match c.at' with
  | some (j, v) => if j = i then v else s.rd (lsPa (coreOf c.sid) + c.idx + 4 * i) 4
  | none => s.rd (lsPa (coreOf c.sid) + c.idx + 4 * i) 4

/-- The copy with the index of the element of its source byte `off` as it is read now, for all of that element's bytes. -/
def State.readIdx (s : State) (c : Copy) (off : Nat) : Copy :=
  if c.kind < 2 then c else { c with at' := some (off / c.rowBytes, s.copyIdx c (off / c.rowBytes)) }

/-- The source address of byte `off` of a copy, in pattern order. -/
def State.copySrc (s : State) (c : Copy) (off : Nat) : Word :=
  let r := off / c.rowBytes
  match c.kind with
  | 1 => c.src + BitVec.ofNat 64 r * c.sstride + BitVec.ofNat 64 (off % c.rowBytes)
  | 2 => c.src + BitVec.ofNat 64 (s.copyIdx c r * c.rowBytes + off % c.rowBytes)
  | _ => c.src + BitVec.ofNat 64 off

/-- The destination address of byte `off` of a copy's output; through a graph, rows and elements take num bytes for
every den of input (R236; log entry 14). -/
def State.copyDst (s : State) (c : Copy) (off : Nat) : Word :=
  let q := off * c.den / c.num
  let r := q / c.rowBytes
  let inRow := q % c.rowBytes * c.num / c.den
  match c.kind with
  | 1 => c.dst + BitVec.ofNat 64 r * c.dstride + BitVec.ofNat 64 inRow
  | 3 => c.dst + BitVec.ofNat 64 (s.copyIdx c r * (c.rowBytes * c.num / c.den) + inRow)
  | _ => c.dst + BitVec.ofNat 64 off

/-- Bytes of the burst at a copy's delivered offset: to the end of the aligned 256-byte destination block, of the row
or element, or of the copy (R153, R350). -/
def State.burstLen (s : State) (c : Copy) : Nat :=
  min (256 - (s.copyDst c c.done).toNat % 256) (min (c.rowBytes - c.done % c.rowBytes) (c.len - c.done))

/-- The read and write footprint of a copy (R177). -/
def copyReads (c : Copy) : Range :=
  let rows := c.len / c.rowBytes
  match c.kind with
  | 1 =>
    let a := c.src.toNat
    let d := toSigned 64 c.sstride.toNat * ((rows : Int) - 1)
    let lo := ((a : Int) + min 0 d).toNat
    blocksOf lo (d.natAbs + c.rowBytes)
  | 2 => bigRegion c.src.toNat
  | _ => blocksOf c.src.toNat c.len
def copyWrite (c : Copy) : Range :=
  match c.kind with
  | 1 => blocksOf c.dst.toNat (c.dstride.toNat * (c.len / c.rowBytes - 1) + c.rowBytes * c.num / c.den)
  | 3 => bigRegion c.dst.toNat
  | _ => blocksOf c.dst.toNat (c.len * c.num / c.den)

/-! ### Issue (R350 to R352) -/

/-- The first address of [a, a+n) beyond its valid extent, when a lies in the team window range (R352). -/
def State.pastExtent (s : State) (c : Ctx) (a : Word) (n : Nat) : Option Word :=
  if !inWindows a then none
  else if (s.window c a.toNat n).isSome then none
  else match s.window c a.toNat 1 with
    | none => some a
    | some pa =>
      let stop := match ownerOf pa with
        | .vault cl => vaultPa cl + s.vaultExtent cl
        | .ls k => lsPa k + 0x20000
        | _ => pa
      some (a + BitVec.ofNat 64 (stop - pa))

/-- The first linear span of a list that leaves its extent. -/
def State.firstPast (s : State) (c : Ctx) : List (Word × Nat) → Option Word
  | [] => none
  | (a, n) :: r => match s.pastExtent c a n with
    | some x => some x
    | none => State.firstPast s c r

/-- Kinds of copies. -/
def kCpy : Nat := 0
def kCpy2d : Nat := 1
def kCpyg : Nat := 2
def kCpys : Nat := 3

/-- The descriptor of a patterned copy at a local-store offset, put into a copy; none where R351 finds it invalid. -/
def State.readDesc (s : State) (c : Copy) (v : Word) : Option Copy :=
  if v.toNat % 32 ≠ 0 ∨ 0x20000 - 32 < v.toNat then none else
  let a := lsPa (coreOf c.sid) + v.toNat
  let n := s.rd a 4
  let b := s.rd (a + 4) 4
  let w2 := s.rd (a + 8) 8
  let w3 := s.rd (a + 16) 8
  let w4 := s.rd (a + 24) 8
  let counts := decide (1 ≤ n ∧ n ≤ 65535 ∧ b % 8 = 0 ∧ 8 ≤ b ∧ w4 = 0)
  if c.kind = kCpy2d then
    if counts && decide (b ≤ 65536 ∧ w2 % 8 = 0 ∧ w3 % 8 = 0 ∧ w3 < 2 ^ 63 ∧ b ≤ w3) then
      some { c with len := n * b, rowBytes := b, sstride := BitVec.ofNat 64 w2, dstride := BitVec.ofNat 64 w3 }
    else none
  else if counts && decide (b ≤ 4096 ∧ w3 = 0 ∧ w2 % 4 = 0 ∧ w2 + 4 * n ≤ 0x20000) then
    some { c with len := n * b, rowBytes := b, idx := w2 }
  else none

/-- The linear spans of a copy, source and destination: every row of CPY2D, the unindexed side of CPYG and CPYS. Through a
graph the destination takes `num` bytes for every `den` (R236). -/
def State.copySpans (s : State) (c : Copy) (num den : Nat) : List (Word × Nat) × List (Word × Nat) :=
  let rows := fun (f : Nat → Word) => (List.range (c.len / c.rowBytes)).map fun r => (f (r * c.rowBytes), c.rowBytes)
  match c.kind with
  | 1 => (rows (s.copySrc c), (rows (s.copyDst c)).map fun e => (e.1, e.2 * num / den))
  | 2 => ([], [(c.dst, c.len * num / den)])
  | 3 => ([(c.src, c.len)], [])
  | _ => ([(c.src, c.len)], [(c.dst, c.len * num / den)])

/-- Whether an end of a bound copy is in HBM; or the fault of its first byte (R236). -/
def State.endInHbm (s : State) (ctx : Ctx) (a : Word) (dir : Dir) : Except Trap Bool :=
  if inWindows a then .ok false
  else match s.resolve ctx a 8 dir with
    | .error d => .error (Trap.sync (dirCause dir) a d)
    | .ok h => .ok (ownerOf h.pa == .hbm)

/-- The checks of a copy on a bound channel (R236, R237), and the copy with its binding. -/
def State.bindCopy (s : State) (ctx : Ctx) (c : Copy) (ch : Nat) (sel : KsfSel) : Except Trap Copy :=
  let chW : Word := BitVec.ofNat 64 ch
  let b := s.sampleKsf ctx.core sel
  match s.ksfImage ctx.team sel.slot with
  | none => .error (Trap.sync 21 chW)
  | some img =>
    if !s.ksfRecordOk ctx.core sel then .error (Trap.sync 21 chW) else
    match s.endInHbm ctx c.src .load with
    | .error t => .error t
    | .ok hs =>
      match s.endInHbm ctx c.dst .store with
      | .error t => .error t
      | .ok hd =>
        let num := imgNum img
        let den := imgDen img
        if hs == hd then .error (Trap.sync 11 chW)
        else if c.len % (64 * den) ≠ 0 then .error (Trap.sync 11 (BitVec.ofNat 64 c.len))
        else if hd && c.dst.toNat % (64 * num) != 0 then .error (Trap.sync 11 c.dst)
        else if hs && c.src.toNat % (64 * den) != 0 then .error (Trap.sync 11 c.src)
        else if (dxCell img).isSome && b.side == 0 then .error (Trap.sync 21 chW)
        else .ok { c with ksf := some b, num := num, den := den, onRead := hs }

/-- The event that carries a channel's oldest copy on, unless it is suspended or its event waits. -/
def State.kick (s : State) (core ch : Nat) : State :=
  match ((s.coreSt core).chans.toList.getD ch []).head? with
  | none => s
  | some c =>
    let e : Event := if c.ksf.isSome then .ksfStreamUnit core ch else .copyBurstDeliver core ch
    if c.susp.isSome || s.agenda.contains e then s else s.post e

/-- A channel's list changed. -/
def State.modChanList (s : State) (core ch : Nat) (f : List Copy → List Copy) : State :=
  s.modCore core fun k => { k with chans := k.chans.set! ch (f (k.chans.toList.getD ch [])) }

/-- The slot whose turn it is runs a handler of a stopping team: its copies park and are never accepted (R263). -/
def State.inStop (s : State) : Bool :=
  s.me.level != .task && (match s.teamOf s.me with | some t => t.stop.isSome | none => false)

/-- A copy instruction (R350, R352): every check in order, then the parks, then the copy is appended and open. -/
def State.copy (s : State) (i : Instr) (kind : Nat) (ch : BitVec 2) (bc : Option (BitVec 3)) (rs1 rs2 rs3 : XReg) :
    Outcome :=
  s.clusterOnly i fun _ =>
    let sl := s.me
    let d := sl.rx rs1
    let src := sl.rx rs2
    let v := sl.rx rs3
    let ctx := { s.ctx s.sid with thread := false }
    let k := ch.toNat
    let c0 : Copy :=
      { sid := s.sid, kind := kind, dst := d, src := src, len := v.toNat, rowBytes := v.toNat, sstride := 0, dstride := 0,
        idx := 0, done := 0, bar := bc.map (·.toNat), batch := none, ticket := 0,
        dom := match sl.doms with | [] => 0 | x :: _ => x.serial,
        asid := sl.asid, ptb := sl.ptbase, level := sl.level, ksf := none, num := 1, den := 1, regs := [], seed := none,
        flags := 0, susp := none, onRead := false, at' := none }
    if src.toNat % 8 ≠ 0 then .trap (Trap.sync 4 src)
    else if d.toNat % 8 ≠ 0 then .trap (Trap.sync 6 d)
    else if src.extractLsb' 57 7 ≠ 0 then .trap (Trap.sync 5 src)
    else if d.extractLsb' 57 7 ≠ 0 then .trap (Trap.sync 7 d)
    else match (if kind = kCpy then (if 8 ≤ v.toNat ∧ v.toNat ≤ 2 ^ 32 - 8 ∧ v.toNat % 8 = 0 then some c0 else none)
        else s.readDesc c0 v) with
      | none => .trap (Trap.sync 11 v)
      | some c =>
        let sel := tfind (s.coreSt s.core).cksf k
        let img := sel.bind fun b => s.ksfImage ctx.team b.slot
        let (spS, spD) := s.copySpans c ((img.map imgNum).getD 1) ((img.map imgDen).getD 1)
        match s.firstPast ctx spS with
        | some a => .trap (Trap.sync 5 a (detail 9 0))
        | none =>
        match s.firstPast ctx spD with
        | some a => .trap (Trap.sync 7 a (detail 9 0))
        | none =>
        match (match sel with | none => Except.ok c | some b => s.bindCopy ctx c k b) with
        | .error t => .trap t
        | .ok c =>
          if 64 ≤ sl.openCopies then .trap (Trap.sync 11 64)
          else
            let w := copyWrite c
            match s.protectedAt ctx (BitVec.ofNat 64 (if kind = kCpys then w.lo * 64 else d.toNat))
                (if kind = kCpys then (w.hi - w.lo) * 64 else
                  if kind = kCpy2d then c.dstride.toNat * (c.len / c.rowBytes - 1) + c.rowBytes * c.num / c.den
                  else c.len * c.num / c.den) with
            | some a => .trap (Trap.sync 7 a (detail 8 0))
            | none =>
              let chan := (s.coreSt s.core).chans.toList.getD k []
              if 16 ≤ chan.length ∨ s.trackerFull s.cluster = true ∨ (s.coreSt s.core).porterStop = true ∨ s.inStop = true then .park true
              else
                let (t, s) := s.enterTrack s.cluster [copyReads c] (some w)
                let s := s.modChanList s.core k (· ++ [{ c with ticket := t }])
                let s := if chan = [] then s.kick s.core k else s
                s.ret fun sl => { sl with openCopies := sl.openCopies + 1 }

/-- CPY (R350). -/
def execCpy (ch : BitVec 2) (bc : Option (BitVec 3)) (rs1 rs2 rs3 : XReg) (s : State) : Outcome :=
  s.copy (.cpy ch bc rs1 rs2 rs3) kCpy ch bc rs1 rs2 rs3
/-- CPY2D (R350). -/
def execCpy2d (ch : BitVec 2) (bc : Option (BitVec 3)) (rs1 rs2 rs3 : XReg) (s : State) : Outcome :=
  s.copy (.cpy2d ch bc rs1 rs2 rs3) kCpy2d ch bc rs1 rs2 rs3
/-- CPYG (R350). -/
def execCpyg (ch : BitVec 2) (bc : Option (BitVec 3)) (rs1 rs2 rs3 : XReg) (s : State) : Outcome :=
  s.copy (.cpyg ch bc rs1 rs2 rs3) kCpyg ch bc rs1 rs2 rs3
/-- CPYS (R350). -/
def execCpys (ch : BitVec 2) (bc : Option (BitVec 3)) (rs1 rs2 rs3 : XReg) (s : State) : Outcome :=
  s.copy (.cpys ch bc rs1 rs2 rs3) kCpys ch bc rs1 rs2 rs3

/-! ### Batches and byte-count barriers (R157, R158) -/

/-- A slot's open copies in a core's channels that are not yet delivered. -/
def CoreSt.openOf (k : CoreSt) (sid : Nat) : Nat :=
  (k.chans.toList.map fun l => (l.filter fun c => c.sid == sid && c.batch.isNone).length).foldl (· + ·) 0

/-- CSEAL (R354): the slot's open copies become batch `cbatch`; a batch with nothing left to deliver is finished. -/
def execCseal (rd : XReg) (s : State) : Outcome :=
  s.clusterOnly (.cseal rd) fun _ =>
    let sid := s.sid
    let n := s.me.cbatch
    let left := (s.coreSt s.core).openOf sid
    let close := fun (c : Copy) => if c.sid = sid ∧ c.batch = none then { c with batch := some n } else c
    (s.modCore s.core fun k => { k with chans := k.chans.map fun l => l.map close }).ret fun sl =>
      { sl.wx rd (n.zeroExtend 64) with
        cbatch := n + 1, openCopies := 0,
        batches := if left = 0 then sl.batches else sl.batches ++ [{ num := n, left := left }] }

/-- CWAIT (R362): at most n sealed batches of the slot are unfinished. -/
def execCwait (n : BitVec 5) (s : State) : Outcome :=
  s.clusterOnly (.cwait n) fun _ => if s.me.batches.length ≤ n.toNat then s.ret else .park true

/-- BCARM (R337): one action on the barrier and on the counters of idle channels. -/
def execBcarm (id : BitVec 3) (rs1 : XReg) (s : State) : Outcome :=
  s.clusterOnly (.bcarm id rs1) fun _ =>
    let v := s.me.rx rs1
    (s.modCore s.core fun k =>
      { k with bcnt := k.bcnt.set! id.toNat v,
               wptr := Vector.ofFn fun (i : Fin 4) => if k.chans[i] = [] then 0 else k.wptr[i] }).ret

/-- BCWAIT (R338). -/
def execBcwait (id : BitVec 3) (s : State) : Outcome :=
  s.clusterOnly (.bcwait id) fun _ =>
    if (s.coreSt s.core).bcnt.toList.getD id.toNat 0 = 0 then s.ret else .park true

/-! ### Delivery (R153, R155, R156) -/

/-- Bytes counted on a channel and subtracted from a barrier, which stops at zero (R156, R158). -/
def State.countBytes (s : State) (core ch : Nat) (bar : Option Nat) (n : Nat) : State :=
  s.modCore core fun k =>
    { k with wptr := k.wptr.set! ch (k.wptr.toList.getD ch 0 + BitVec.ofNat 64 n),
             bcnt := match bar with
               | none => k.bcnt
               | some b => k.bcnt.set! b (BitVec.ofNat 64 ((k.bcnt.toList.getD b 0).toNat - n)) }

/-- Undelivered output bytes of a copy. -/
def Copy.undelivered (c : Copy) : Nat := (c.len - c.done) * c.num / c.den

/-- A copy is over: its batch counts it, its tracker entry goes, the channel moves on (R155, R157). -/
def State.endCopy (s : State) (core ch : Nat) (c : Copy) : State :=
  let s := s.modChanList core ch (·.drop 1)
  let s := s.leaveTrack (clusterOf core) c.ticket
  let s := match c.batch with
    | none => s
    | some n => s.modSlot c.sid fun sl =>
        { sl with batches := (sl.batches.map fun (b : Batch) => if b.num = n then { b with left := b.left - 1 } else b).filter fun (b : Batch) => b.left != 0 }
  s.kick core ch

/-- A copy is fully delivered: its flags go to the issuing slot's fflags (R155, R280). -/
def State.copyDelivered (s : State) (core ch : Nat) (c : Copy) : State :=
  let s := s.giveFlags c.sid c.flags
  let s := if c.flags &&& fPO ≠ 0 then s.gather (clusterOf core) 0 3 else s
  s.endCopy core ch c

/-- A copy is abandoned: its undelivered bytes leave its byte-count barrier (R155). -/
def State.abandonCopy (s : State) (core ch : Nat) (c : Copy) : State :=
  let s := s.modCore core fun k => { k with bcnt := match c.bar with
    | none => k.bcnt
    | some b => k.bcnt.set! b (BitVec.ofNat 64 ((k.bcnt.toList.getD b 0).toNat - c.undelivered)) }
  s.endCopy core ch c

/-- The oldest copy of a channel changed. -/
def State.setHead (s : State) (core ch : Nat) (c : Copy) : State := s.modChanList core ch fun l => c :: l.drop 1

/-- A copy meets a fault: it is suspended, and its slot takes cause 14 (R143, R155). -/
def State.suspendCopy (s : State) (core ch : Nat) (c : Copy) (va d : Word) : State :=
  (s.setHead core ch { c with susp := some (va, engDetail d) }).later c.sid (Trap.sync 14 va (engDetail d))

/-- Words moved with their poison marks, all sources read before any write. -/
def State.moveWords (s : State) (pairs : List (Nat × Nat)) : State :=
  let vals := pairs.map fun p => (p.1, s.rd p.2 8, s.bad (p.2 / 8))
  vals.foldl (fun s v => s.putWord v.1 v.2.1 v.2.2) s

/-- One burst of a copy without a graph (R153): translation, protection, poison (R277, R280), then the words. -/
def State.burst (s : State) (core ch : Nat) (c : Copy) : State :=
  let c := s.readIdx c c.done
  let n := s.burstLen c
  let src := s.copySrc c c.done
  let dst := s.copyDst c c.done
  let ctx := s.copyCtx c
  match s.span ctx src n .load with
  | .error (va, d) => s.suspendCopy core ch c va d
  | .ok (ps, s1) =>
    match s1.spanWrite ctx dst n with
    | .error (va, d) => s.suspendCopy core ch c va d
    | .ok (pd, s2) =>
      let s2 := s2.correctPieces c.sid ps
      let bad := (wordsOf ps).filter fun pa => s2.bad (pa / 8)
      if bad ≠ [] ∧ (s2.slot c.sid).doms ≠ [] then ((s2.blame c.sid 2).kick core ch)
      else
        let s3 := bad.foldl (fun s _ => s.countPoison ctx.team) s2
        let s3 := s3.moveWords ((wordsOf pd).zip (wordsOf ps))
        let s3 := (s3.markSpan ctx.team dst pd).countBytes core ch c.bar n
        let c := { c with done := c.done + n, flags := if bad = [] then c.flags else c.flags ||| fPO }
        let s3 := s3.setHead core ch c
        if c.len ≤ c.done then s3.copyDelivered core ch c else s3.kick core ch

/-- The combination of a copy's result cell written at RESULT: the copy with its flags; a graph without a result, or a record
without RESULT, writes nothing (R238). -/
def State.writeResult (s : State) (c : Copy) (b : KsfBind) : Except (Word × Word) (Copy × Option Beat × State) :=
  match s.ksfImage (s.copyCtx c).team b.slot with
  | none => .ok (c, none, s)
  | some img =>
    if b.result = 0 ∨ imgResult img = 0xFF ∨ (c.regs = [] ∧ c.seed = none) then .ok (c, none, s)
    else
      let (r, f) := resultOf img c.seed c.regs
      match s.spanWrite (s.copyCtx c) b.result 64 with
      | .error e => .error e
      | .ok (ps, s) =>
        let s := s.putPieces ps r.1.toNat
        let s := if r.2 then (wordsOf ps).foldl (fun s pa => s.setBad (pa / 8) true) s else s
        .ok ({ c with flags := c.flags ||| f ||| fIf r.2 fPO }, some r, s.markSpan (s.copyCtx c).team b.result ps)

/-- The end of a copy through a graph: RESULT first, then it counts as delivered (R238). -/
def State.ksfResult (s : State) (core ch : Nat) (c : Copy) (b : KsfBind) : State :=
  match s.writeResult c b with
  | .error (va, d) => s.suspendCopy core ch c va d
  | .ok (c, _, s) => s.copyDelivered core ch c

/-- COPY_BURST_DELIVER (R153): one burst of the oldest copy of a channel once its dependences are complete; for a copy
through a graph, whose units another event carries, the end of the copy. -/
def execCopyBurstDeliver (core ch : Nat) (s : State) : Outcome :=
  .next (match ((s.coreSt core).chans.toList.getD ch []).head? with
    | none => s
    | some c =>
      if c.susp.isSome || (s.coreSt core).porterStop then s
      else if !s.depsClear (clusterOf core) c.ticket then s.kick core ch
      else match c.ksf with
        | none => s.burst core ch c
        | some b => if c.len ≤ c.done then s.ksfResult core ch c b else s.kick core ch)

/-! ### Units through a graph (R236 to R239) -/

/-- Beats from words, eight a beat: the data, and whether a word of it is poisoned. -/
def State.beatsOf (s : State) : Nat → List Nat → List Beat
  | 0, _ => []
  | n + 1, l =>
    let w := l.take 8
    (BitVec.ofNat 512 (w.foldr (fun pa a => s.rd pa 8 + 2 ^ 64 * a) 0), w.any fun pa => s.bad (pa / 8))
      :: State.beatsOf s n (l.drop 8)

/-- Beats written to words, eight a beat, with their poison marks. -/
def State.putBeats (s : State) : List Beat → List Nat → State
  | [], _ => s
  | b :: r, l =>
    let s := (l.take 8).zipIdx.foldl (fun s p => s.putWord p.1 (b.1.toNat / 2 ^ (64 * p.2) % 2 ^ 64) b.2) s
    State.putBeats s r (l.drop 8)

/-- Side values read for a unit: 2 bytes a beat. -/
def State.sideIn (s : State) (l : List Nat) : List Beat :=
  l.map fun pa => (BitVec.ofNat 512 (s.rd pa 2), s.bad (pa / 8))

/-- Side values written with the narrow-store rule (R124, R237). -/
def State.sideOut (s : State) (l : List (Beat × Nat)) : State :=
  l.foldl (fun s p =>
    let s := s.put p.2 2 p.1.1.toNat
    if p.1.2 then s.setBad (p.2 / 8) true else s) s

/-- One unit of a transfer through the instance of a channel: what it gives, the registers of the instances afterwards, and the
number of its beats that were poisoned or met a poisoned side value (R239). -/
structure UnitRun where
  u    : UnitOut
  regs : KsfRegs
  bads : Nat
deriving DecidableEq, Repr

/-- One unit through the instance at a channel. -/
def runUnit (img chan : Nat) (regs : KsfRegs) (ins side : List Beat) : UnitRun :=
  let u := ksfUnit img ((tfind regs chan).getD []) ins side
  let regs := if (tfind regs chan).isSome then regs.map fun e => if e.1 = chan then (chan, u.regs) else e
    else regs ++ [(chan, u.regs)]
  { u := u, regs := regs,
    bads := ((List.range (max ins.length side.length)).filter fun j =>
      (ins.getD j (0, false)).2 || (side.getD j (0, false)).2).length }

/-- The units of a copy's source and destination that its next stream unit takes, as virtual addresses of words. -/
def State.unitWords (s : State) (c : Copy) : List Word × List Word :=
  ((List.range (8 * c.den)).map fun j => s.copySrc c (c.done + 8 * j),
   (List.range (8 * c.num)).map fun j => s.copyDst c (c.done / c.den * c.num + 8 * j))

/-- One unit of a copy whose words and side values are resolved, through the image at a channel; ov and sv are the virtual
addresses of what it writes. -/
def State.ksfUnitAt (s : State) (core ch : Nat) (c : Copy) (img chan : Nat) (ip op sp : List Nat) (ov sv : List Word) : State :=
  let team := (s.copyCtx c).team
  let enc := match dxCell img with | some i => cellOp img i == 18 | none => false
  let s := s.correctWords c.sid ip
  let c := s.readIdx c (c.done + 64 * c.den - 8)
  let ins := s.beatsOf c.den ip
  let side := if enc then [] else s.sideIn sp
  if (ins ++ side).any (·.2) && (s.slot c.sid).doms != [] then (s.blame c.sid 2).kick core ch
  else
    let r := runUnit img chan c.regs ins side
    let s := s.putBeats r.u.outs op
    let s := if enc then (s.sideOut (r.u.sideW.zip sp)).markWords team (sv.zip sp) else s
    let s := (List.range r.bads).foldl (fun s _ => s.countPoison team) s
    let s := (s.markWords team (ov.zip op)).countBytes core ch c.bar (64 * c.num)
    let c : Copy := { c with
      done := c.done + 64 * c.den, regs := r.regs, flags := c.flags ||| r.u.flags ||| fIf (decide (r.bads ≠ 0)) fPO }
    let s := s.setHead core ch c
    if c.len ≤ c.done then s.post (.copyBurstDeliver core ch) else s.kick core ch

/-- KSF_STREAM_UNIT (R236): the instance at the HBM end's channel takes the next unit of the oldest copy of a channel.
An instance without the image fetches it first (R234); a unit whose HBM end lies outside HBM suspends the copy with
reason 10. -/
def execKsfStreamUnit (core ch : Nat) (s : State) : Outcome :=
  .next (match ((s.coreSt core).chans.toList.getD ch []).head? with
    | none => s
    | some c =>
    match c.ksf with
    | none => s.kick core ch
    | some b =>
      if c.susp.isSome || (s.coreSt core).porterStop then s
      else if !s.depsClear (clusterOf core) c.ticket then s.kick core ch
      else if c.len ≤ c.done then s.post (.copyBurstDeliver core ch)
      else
        let ctx := s.copyCtx c
        let (ia, oa) := s.unitWords c
        match s.wordsAt ctx 8 .load ia with
        | .error (va, d) => s.suspendCopy core ch c va d
        | .ok (ip, s1) =>
        match s1.wordsAt ctx 8 .store oa with
        | .error (va, d) => s.suspendCopy core ch c va d
        | .ok (op, s2) =>
          match ((if c.onRead then ip.zip ia else op.zip oa).find? fun p => ownerOf p.1 != .hbm) with
          | some p => s.suspendCopy core ch c p.2 (detail 10 0)
          | none =>
            let chan := s2.chanOf (if c.onRead then ip.headD 0 else op.headD 0)
            match s2.resident chan ctx.team b.slot with
            | none => (s2.post (.ksfImageFetch chan ctx.team b.slot)).kick core ch
            | some img =>
              let enc := match dxCell img with | some i => cellOp img i == 18 | none => false
              let sideVa := (List.range (sideBytes img / 2)).map fun j =>
                b.side + BitVec.ofNat 64 (c.done / (64 * c.den) * sideBytes img + 2 * j)
              match s2.wordsAt ctx 2 (if enc then .store else .load) sideVa with
              | .error (va, d) => s.suspendCopy core ch c va d
              | .ok (sp, s3) => s3.ksfUnitAt core ch c img chan ip op sp oa sideVa)

end Sys2Proof.Machine
end

