-- ==== Sys2Proof/Machine/Queues.lean ====
section
/-! DEFINITION. Queue registers: bindings, links, completion records, streams, pigeonholes and branch-outcome FIFOs;
messages (spec 07 R143 to R152; 22 R398, R399; 23 R414 to R420). -/

namespace Sys2Proof.Machine

/-! ### Bindings (R144, R145) -/

def qKind (b : Word) : Nat := b.field 0 4
def qSub (b : Word) : Nat := b.field 4 4
def qPri (b : Word) : Nat := b.field 8 1
/-- Local-store offset of the stream descriptor. -/
def qDesc (b : Word) : Nat := b.field 9 11 * 64

/-- Slot index i of a core is a user slot: 0 to 12, and 13 where the tinker slot is released (R34); on a channel core
0 to 13 (R227). -/
def State.isUserSlot (s : State) (core i : Nat) : Bool :=
  decide (i < 13) || (i == 13 && (isChan core || (s.coreSt core).trel))

/-- The neighbour core in a direction: 0 N, 1 E, 2 S, 3 W, in the 4 by 4 grid of the cluster (R148). -/
def neighbourCore (core dir : Nat) : Option Nat :=
  let c := core % 16
  match dir with
  | 0 => if 4 ≤ c then some (core - 4) else none
  | 1 => if c % 4 < 3 then some (core + 1) else none
  | 2 => if c < 12 then some (core + 4) else none
  | _ => if 0 < c % 4 then some (core - 1) else none

/-- A binding of a slot breaks its row of R145. -/
def State.breaksRow (s : State) (sid : Nat) (b : Word) : Bool :=
  let k := qKind b
  let u := qSub b
  let core := coreOf sid
  decide (8 ≤ k) || b.extractLsb' 20 44 != 0 || (!(k == 4 || k == 5) && qDesc b != 0)
    || (match k with
      | 0 | 4 | 5 => u != 0
      | 1 => decide (4 ≤ u) || (neighbourCore core u).isNone
      | 2 | 3 => decide (3 ≤ u)
      | 7 => u == sid % 16 || !s.isUserSlot core u
      | _ => false)

/-- Queue register q of a slot. -/
def Slot.qb (sl : Slot) (q : Nat) : Word := sl.qbind.toList.getD q 0

/-! ### Streams (R151, R152) -/

/-- Elements of a stream. -/
def Stream.total (t : Stream) : Nat := t.counts.foldl (· * ·) 1
/-- Bytes of an element. -/
def Stream.size (t : Stream) : Nat := 2 ^ t.esize

/-- The address of element e: dimension 0 innermost. -/
def elemAddr : List (Nat × Word) → Word → Nat → Word
  | [], a, _ => a
  | (c, st) :: r, a, e => elemAddr r (a + BitVec.ofNat 64 (e % c) * st) (e / c)

/-- The address of element e of a stream. -/
def Stream.addr (t : Stream) (e : Nat) : Word := elemAddr (t.counts.zip t.strides) t.base e

/-- The context of a stream's accesses. -/
def State.streamCtx (s : State) (sid : Nat) : Ctx := { s.ctx sid with thread := false }

/-- The graph that a stream runs through. -/
def State.streamImg (s : State) (sid : Nat) (t : Stream) : Option Nat := t.ksf.bind fun b => s.ksfImage (s.slot sid).team b.slot

/-- The descriptor at a local-store offset of a slot's core, read at a binding write (R151, R152), with the stream
fabric binding of the queue or else of the stream's porter channel (R235). A STRIN through a graph starts at the unit that
holds element POS of its output, whose earlier elements are skipped. The model's choices for a stream through a graph, on
which the spec is silent (log entry 93): a byte length that is no multiple of 64 × DEN, and a BASE not aligned to its unit,
take cause 11 at the first access as R236 has it of copies. -/
def State.readStream (s : State) (sid q : Nat) (out : Bool) (off : Nat) : Stream :=
  let core := coreOf sid
  let a := lsPa core + off
  let esize := s.rd (a + 8) 1
  let ndim := s.rd (a + 9) 1
  let flags := s.rd (a + 10) 1
  let counts := (List.range 4).map fun i => s.rd (a + 16 + 4 * i) 4
  let strides := (List.range 4).map fun i => (BitVec.ofNat 64 (s.rd (a + 32 + 8 * i) 8) : Word)
  let base : Word := BitVec.ofNat 64 (s.rd a 8)
  let n := min ndim 4
  let sel := (tfind (s.slot sid).qksf q).or (tfind (s.coreSt core).cksf (flags / 4 % 4))
  let t : Stream :=
    { out := out, base := base, esize := esize, ndim := ndim, flags := flags, pos := s.rd (a + 12) 4,
      counts := counts.take n, strides := strides.take n, bad := false, ahead := [], fetched := s.rd (a + 12) 4,
      ksf := sel.map (s.sampleKsf core), regs := [], susp := none, skip := 0 }
  let z := t.size
  let badGraph := match s.streamImg sid t with
    | none => t.ksf.isSome
    | some img =>
      let unit := if out then imgNum img else imgDen img
      !((sel.map (s.ksfRecordOk core)).getD true) || t.total * z % (64 * imgDen img) != 0 || base.toNat % (64 * unit) != 0
  let bad := decide (ndim = 0 ∨ 4 < ndim) || (counts.take n).any (· == 0) || (counts.drop n).any (· != 0)
    || decide (2 ^ 32 ≤ t.total) || !([0, 1, 2, 3, 6].contains esize) || base.toNat % z != 0
    || strides.any (fun st => st.toNat % z != 0) || decide (t.total ≤ t.pos)
    || flags / 16 != 0 || s.rd (a + 11) 1 != 0 || badGraph
  match s.streamImg sid t with
  | none => { t with bad := bad }
  | some img =>
    if out then { t with bad := bad }
    else
      let out1 := 64 * imgNum img / z
      { t with bad := bad, fetched := t.pos / out1 * (64 * imgDen img / z), skip := t.pos % out1 }

/-- Elements that a reader takes from a stream, or a writer pushes: those of the output of its graph for a STRIN. -/
def State.streamLimit (s : State) (sid : Nat) (t : Stream) : Nat :=
  match s.streamImg sid t with
  | some img => if t.out then t.total else t.total * imgNum img / imgDen img
  | none => t.total

/-- Bytes of read-ahead of a STRIN, and of pushed elements not yet written of a STROUT (R152; log entry 15). -/
def streamRoom : Nat := 256

/-- Another element or unit fits the read-ahead. -/
def State.streamHasRoom (s : State) (sid : Nat) (t : Stream) : Bool :=
  let more := match s.streamImg sid t with | some img => 64 * imgNum img | none => t.size
  decide (t.ahead.length * t.size + more ≤ streamRoom)

def State.stream? (s : State) (sid q : Nat) : Option Stream := tfind (s.slot sid).streams q
def State.setStream (s : State) (sid q : Nat) (t : Stream) : State :=
  s.modSlot sid fun sl => { sl with streams := tset sl.streams q t }

/-- The porter's next event for a stream, if it has something to do and none is waiting. -/
def State.feed (s : State) (sid q : Nat) : State :=
  match s.stream? sid q with
  | none => s
  | some t =>
    if t.bad || t.susp.isSome then s
    else if t.out then
      if t.ahead = [] ∨ s.agenda.contains (.streamElementWrite sid q) = true then s else s.post (.streamElementWrite sid q)
    else if t.total ≤ t.fetched ∨ s.streamHasRoom sid t = false ∨ s.agenda.contains (.streamReadAhead sid q) = true then s
    else s.post (.streamReadAhead sid q)

/-- A stream meets a fault (R143): it is suspended, and its slot takes cause 14. -/
def State.suspendStream (s : State) (sid q : Nat) (t : Stream) (va d : Word) : State :=
  (s.setStream sid q { t with susp := some (va, engDetail d) }).later sid (Trap.sync 14 va (engDetail d))

/-- A stream whose graph has a DX cell but whose record gives SIDE = 0: it takes cause 21 at its first access and never
reaches a unit (R237). -/
def State.streamNoSide (s : State) (sid : Nat) (t : Stream) : Bool :=
  match t.ksf, s.streamImg sid t with
  | some b, some img => (dxCell img).isSome && b.side == 0
  | _, _ => false

/-- The words of 8 bytes, or the elements where they are smaller, that the next unit of a stream's memory end takes. -/
def Stream.unitVas (t : Stream) (img : Nat) : List Word :=
  let z := t.size
  let unit := if t.out then imgNum img else imgDen img
  let memFrom := if t.out then t.fetched * imgNum img / imgDen img else t.fetched
  ((List.range (64 * unit / z)).map fun j => (t.addr (memFrom + j))).flatMap fun a =>
    (List.range (max 1 (z / 8))).map fun k => a + BitVec.ofNat 64 (8 * k)

/-- Elements of w bytes packed into beats of 64 bytes. -/
def packBeats (w : Nat) (l : List (Nat × Bool)) : List Beat :=
  (List.range (l.length * w / 64)).map fun k =>
    let part := (l.drop (k * (64 / w))).take (64 / w)
    (BitVec.ofNat 512 (part.foldr (fun e a => e.1 + 2 ^ (8 * w) * a) 0), part.any (·.2))

/-- Beats cut into elements of w bytes. -/
def cutBeats (w : Nat) (l : List Beat) : List (Nat × Bool) :=
  l.flatMap fun o => (List.range (64 / w)).map fun k => (lane o.1 (8 * w) k, o.2)

/-- The last unit of a stream is done: the result cell's combination goes to RESULT (R238). -/
def State.streamResult (s : State) (sid : Nat) (t : Stream) (b : KsfBind) (img : Nat) : Except (Word × Word) State :=
  if decide (t.fetched < t.total) || b.result == 0 || imgResult img == 0xFF then .ok s
  else
    let (v, f) := resultOf img none t.regs
    match s.spanWrite (s.streamCtx sid) b.result 64 with
    | .error e => .error e
    | .ok (pp, s) =>
      let s := ((s.putPieces pp v.1.toNat).markSpan (s.streamCtx sid).team b.result pp).modSlot sid (·.orFlags f)
      .ok (if v.2 then (wordsOf pp).foldl (fun s pa => s.setBad (pa / 8) true) s else s)

/-- One unit of a graph between memory words and queue elements; with FLAGS[0] a STRIN waits for its words to be full (R152).
A fault suspends the stream before the unit (R143). The model's choice, on which the spec is silent: a stream whose memory
end lies outside HBM is suspended with reason 10, as R236 has it of copies (log entry 93). -/
def State.streamUnit (s : State) (sid q : Nat) (t : Stream) (b : KsfBind) (img : Nat) : State :=
  let ctx := s.streamCtx sid
  let z := t.size
  let wz := min z 8
  let again : Event := if t.out then .streamElementWrite sid q else .streamReadAhead sid q
  let nIn := 64 * imgDen img / z
  let words := t.unitVas img
  match s.wordsAt ctx wz (if t.out then .store else .load) words with
  | .error (va, d) => s.suspendStream sid q t va d
  | .ok (ps, s1) =>
    match (ps.zip words).find? fun p => ownerOf p.1 != .hbm with
    | some p => s.suspendStream sid q t p.2 (detail 10 0)
    | none =>
      if !t.out && decide (t.flags % 2 = 1) && ps.any (fun pa => !s1.full (pa / 8)) then s1.post again else
      let chan := s1.chanOf (ps.headD 0)
      match s1.resident chan ctx.team b.slot with
      | none => (s1.post (.ksfImageFetch chan ctx.team b.slot)).post again
      | some img =>
        let enc := match dxCell img with | some i => cellOp img i == 18 | none => false
        let u := t.fetched * z / (64 * imgDen img)
        let sideVa := (List.range (sideBytes img / 2)).map fun j => b.side + BitVec.ofNat 64 (u * sideBytes img + 2 * j)
        match s1.wordsAt ctx 2 (if enc then .store else .load) sideVa with
        | .error (va, d) => s.suspendStream sid q t va d
        | .ok (sp, s2) =>
          let s2 := if t.out then s2 else s2.correctWords sid ps
          let ins := if t.out then packBeats z ((t.ahead.take nIn).map fun e => (e.1.toNat % 2 ^ (8 * z), e.2))
            else packBeats wz (ps.map fun pa => (s2.rd pa wz, s2.bad (pa / 8)))
          let r := runUnit img chan t.regs ins (if enc then [] else s2.sideIn sp)
          let s2 := if enc then (s2.sideOut (r.u.sideW.zip sp)).markWords ctx.team (sideVa.zip sp) else s2
          let s2 := (List.range r.bads).foldl (fun s _ => s.countPoison ctx.team) s2
          let s2 := if t.out then (ps.zip (cutBeats wz r.u.outs)).foldl (fun s p =>
              let s := s.put p.1 wz p.2.1
              if p.2.2 then s.setBad (p.1 / 8) true else s) (s2.markWords ctx.team (words.zip ps)) else s2
          let ahead : List Beat := if t.out then t.ahead.drop nIn
            else t.ahead ++ ((cutBeats z r.u.outs).drop t.skip).map fun (e : Nat × Bool) => ((BitVec.ofNat 512 e.1, e.2) : Beat)
          let t2 : Stream := { t with fetched := t.fetched + nIn, regs := r.regs, ahead := ahead, skip := 0 }
          match (s2.modSlot sid (·.orFlags (r.u.flags ||| fIf (decide (r.bads ≠ 0)) fPO))).streamResult sid t2 b img with
          | .error (va, d) => s.suspendStream sid q t va d
          | .ok s2 => (s2.setStream sid q t2).feed sid q

/-- STREAM_READ_AHEAD (R152): the porter reads the next element of a STRIN, no earlier than the binding write; with
FLAGS[0] it waits for each word to be full. -/
def execStreamReadAhead (sid q : Nat) (s : State) : Outcome :=
  .next (match s.stream? sid q with
    | none => s
    | some t =>
      if t.out || t.bad || t.susp.isSome || s.streamNoSide sid t || (s.coreSt (coreOf sid)).porterStop
          || decide (t.total ≤ t.fetched) || !s.streamHasRoom sid t then s
      else match t.ksf, s.streamImg sid t with
        | some b, some img => s.streamUnit sid q t b img
        | _, _ =>
          let a := t.addr t.fetched
          match s.resolve (s.streamCtx sid) a t.size .load with
          | .error d => s.suspendStream sid q t a d
          | .ok h =>
            if t.flags % 2 = 1 ∧ (List.range (max 1 (t.size / 8))).any (fun i => !h.st.full (h.pa / 8 + i)) = true then
              s.post (.streamReadAhead sid q)
            else
              let s := h.st.correctAt sid h.pa t.size
              let v : VWord := BitVec.ofNat 512 (s.rdClean h.pa t.size)
              (s.setStream sid q { t with ahead := t.ahead ++ [(v, s.badAt h.pa t.size)],
                                          fetched := t.fetched + 1 }).feed sid q)

/-- STREAM_ELEMENT_WRITE (R152): the porter performs the oldest pushed element of a STROUT. Through a graph it performs whole
units; elements pushed short of a unit are never performed, so that a QFREE of the queue parks for them (the model's choice,
on which the spec is silent; log entry 93). -/
def execStreamElementWrite (sid q : Nat) (s : State) : Outcome :=
  .next (match s.stream? sid q with
    | none => s
    | some t =>
      if !t.out || t.bad || t.susp.isSome || (s.coreSt (coreOf sid)).porterStop then s
      else match t.ksf, s.streamImg sid t with
        | some b, some img =>
          if t.ahead.length * t.size < 64 * imgDen img then s else s.streamUnit sid q t b img
        | _, _ =>
          match t.ahead with
          | [] => s
          | (v, _) :: r =>
            let a := t.addr t.fetched
            match s.spanWrite (s.streamCtx sid) a t.size with
            | .error (va, d) => s.suspendStream sid q t va d
            | .ok (ps, s1) =>
              ((s1.perform { sid := sid, pa := (ps.headD (0, 0)).1, size := t.size, data := v, va := a }).setStream sid q
                { t with ahead := r, fetched := t.fetched + 1 }).feed sid q)

/-- POS of a stream written into its descriptor (R151). -/
def State.writePos (s : State) (sid q : Nat) (t : Stream) : State :=
  if t.bad then s else s.wr (lsPa (coreOf sid) + qDesc ((s.slot sid).qb q) + 12) 4 t.pos

/-- The action of QFREE on a stream queue, if it need not wait (R415): a STROUT waits for every pushed element, those short of
a graph's unit included (log entry 93). -/
def State.freeStream (s : State) (q : Nat) : Option State :=
  match s.stream? s.sid q with
  | none => some s
  | some t =>
    if t.out ∧ t.ahead ≠ [] ∧ t.bad = false then none
    else some ((s.writePos s.sid q t).upd fun sl => { sl with streams := tdel sl.streams q })

/-- A binding write, by QBIND or a CSR instruction (R144, R414): the QFREE action of a stream queue first; the new
descriptor of a stream read now. -/
def State.bindQueue (s : State) (i : Instr) (q : Nat) (v : Word) (f : Slot → Slot := id) : Res :=
  let k := qKind v
  if isChan s.core && k != 0 && k != 6 then illegalI i
  else match s.freeStream q with
    | none => .park true
    | some s =>
      let s := s.upd fun sl => { sl with qbind := sl.qbind.set! q v }
      let s := if (k == 4 || k == 5) && !s.breaksRow s.sid v then
          (s.setStream s.sid q (s.readStream s.sid q (k == 5) (qDesc v))).feed s.sid q
        else s
      s.ret f

/-- QBIND (R414). -/
def execQbind (q : QReg) (rs2 : XReg) (s : State) : Outcome :=
  s.finish (s.bindQueue (.qbind q rs2) q.toNat (s.me.rx rs2))

/-- QFREE (R415): cause 11 on kind 0. -/
def execQfree (q : QReg) (s : State) : Outcome :=
  let n := q.toNat
  s.finish (if qKind (s.me.qb n) = 0 then .trap (Trap.sync 11 (BitVec.ofNat 64 n))
    else match s.freeStream n with
      | none => .park true
      | some s => s.ret fun sl => { sl with qbind := sl.qbind.set! n 0 })

/-! ### Reads (R145, R146, R418, R419) -/

/-- What a queue read comes to: a trap, a wait, an abort, or a value with the state after the pop. -/
inductive QRead where
  | trap (t : Trap)
  | park
  | abort (s : State)
  | got (v : VWord) (s : State)
deriving DecidableEq, Repr

/-- The read of queue q by the slot whose turn it is, `vec` for QRDV. -/
def State.qRead (s : State) (q : Nat) (vec : Bool) : QRead :=
  let sid := s.sid
  let core := s.core
  let sl := s.me
  let b := sl.qb q
  let u := qSub b
  let bad := QRead.trap (Trap.sync 11 (BitVec.ofNat 64 q))
  if qKind b = 0 ∨ s.breaksRow sid b = true then bad else
  match qKind b with
  | 1 =>
    let l := (s.coreSt core).links.toList.getD u []
    let n := if vec then 8 else 1
    if l.length < n then .park
    else .got (BitVec.ofNat 512 ((l.take n).foldr (fun w a => w.toNat + 2 ^ 64 * a) 0))
      (s.modCore core fun k => { k with links := k.links.set! u (l.drop n) })
  | 3 =>
    if vec then bad else
    match (sl.fifos.toList.getD u ResFifo.init).recs with
    | [] => .park
    | r :: rs => .got (r.zeroExtend 512) (s.upd fun sl =>
        { sl with fifos := sl.fifos.set! u { sl.fifos.toList.getD u ResFifo.init with recs := rs } })
  | 4 =>
    match s.stream? sid q with
    | none => bad
    | some t =>
      if t.bad || (vec != (t.esize == 6)) || decide (s.streamLimit sid t ≤ t.pos) then bad
      else if s.streamNoSide sid t then
        .trap (Trap.sync 21 (BitVec.ofNat 64 q))
      else match t.ahead with
        | [] => .park
        | (v, isBad) :: r =>
          let w := 8 * t.size
          let v := if vec then v else if t.flags / 2 % 2 = 1 then
              (BitVec.ofInt 64 (toSigned w (v.toNat % 2 ^ w))).zeroExtend 512 else BitVec.ofNat 512 (v.toNat % 2 ^ w)
          let go := fun (v : VWord) (s : State) => QRead.got v ((s.setStream sid q { t with ahead := r, pos := t.pos + 1 }).feed sid q)
          if isBad && t.ksf.isNone then
            match s.consume sid (t.addr t.pos) with
            | .abort s => .abort s
            | .trap t => .trap t
            | .held f s => go (f.zeroExtend 512) s
            | .zero s => go v s
          else go v s
  | 6 =>
    match (s.coreSt core).holes.toList.getD u [] with
    | [] => .park
    | m :: r =>
      if m.big && !vec then bad
      else .got (if m.big then m.data else BitVec.ofNat 512 (m.data.toNat % 2 ^ 64))
        (s.modCore core fun k => { k with holes := k.holes.set! u r })
  | 7 =>
    if vec then bad else
    match sl.brq with
    | [] => .park
    | w :: r => .got (w.zeroExtend 512) (s.upd fun sl => { sl with brq := r })
  | _ => bad

/-- A queue read instruction. -/
def State.qReadInstr (s : State) (q : QReg) (vec : Bool) (f : VWord → Slot → Slot) : Outcome :=
  s.finish (match s.qRead q.toNat vec with
    | .trap t => .trap t
    | .park => .park true
    | .abort s => .done s
    | .got v s => s.ret (f v))

/-- QRD (R418). -/
def execQrd (rd : XReg) (q : QReg) (s : State) : Outcome :=
  s.qReadInstr q false fun v sl => sl.wx rd (v.extractLsb' 0 64)
/-- QRDV (R418). -/
def execQrdv (vd : VReg) (q : QReg) (s : State) : Outcome := s.qReadInstr q true fun v sl => sl.wv vd v

/-- QBR (R416): pop and branch are one action; a target that traps leaves the entry. -/
def execQbr (q : QReg) (off : BitVec 12) (s : State) : Outcome :=
  s.finish (match s.qRead q.toNat false with
    | .trap t => .trap t
    | .park => .park true
    | .abort s => .done s
    | .got v s' =>
      if v.extractLsb' 0 64 = 0 then s'.ret
      else match s.jump (s.me.pc + offB off) with
        | .done _ => s'.jump (s.me.pc + offB off)
        | r => r)

/-! ### Writes -/

/-- The direction that faces back to the writer. -/
def opposite (d : Nat) : Nat := (d + 2) % 4

/-- Entries pushed into the neighbour's FIFO once it has room and the writer's accesses are performed at cluster scope
(R148, R418). -/
def State.pushLink (s : State) (u : Nat) (l : List Word) : Res :=
  match neighbourCore s.core u with
  | none => .park true
  | some n =>
    let fifo := (s.coreSt n).links.toList.getD (opposite u) []
    if 8 < fifo.length + l.length ∨ s.releaseWaits = true then .park true
    else (s.modCore n fun k => { k with links := k.links.set! (opposite u) (fifo ++ l) }).ret

/-- A queue write instruction: data as one entry, or 64 bytes with `vec`. -/
def State.qWriteInstr (s : State) (q : QReg) (vec : Bool) (d : VWord) : Outcome :=
  let n := q.toNat
  let sid := s.sid
  let b := s.me.qb n
  let u := qSub b
  let bad := Res.trap (Trap.sync 11 (BitVec.ofNat 64 n))
  s.finish (
    if qKind b = 0 ∨ s.breaksRow sid b = true then bad else
    match qKind b with
    | 1 => s.pushLink u (if vec then (List.range 8).map fun i => d.extractLsb' (64 * i) 64 else [d.extractLsb' 0 64])
    | 5 =>
      match s.stream? sid n with
      | none => bad
      | some t =>
        if t.bad || (vec != (t.esize == 6)) || decide (t.total ≤ t.pos) then bad
        else if s.streamNoSide sid t then
          .trap (Trap.sync 21 (BitVec.ofNat 64 n))
        else if streamRoom < (t.ahead.length + 1) * t.size then .park true
        else ((s.setStream sid n { t with ahead := t.ahead ++ [(BitVec.ofNat 512 (d.toNat % 2 ^ (8 * t.size)), false)],
                                          pos := t.pos + 1 }).feed sid n).ret
    | 7 =>
      if vec then bad else
      let p := s.core * 16 + u
      if 8 ≤ (s.slot p).brq.length then .park true
      else (s.modSlot p fun sl => { sl with brq := sl.brq ++ [d.extractLsb' 0 64] }).ret
    | _ => bad)

/-- QWR (R418). -/
def execQwr (q : QReg) (rs2 : XReg) (s : State) : Outcome := s.qWriteInstr q false ((s.me.rx rs2).zeroExtend 512)
/-- QWRV (R418). -/
def execQwrv (q : QReg) (vs2 : VReg) (s : State) : Outcome := s.qWriteInstr q true (s.me.rv vs2)

/-! ### QTST and QWAIT (R147, R419, R420) -/

/-- Entries ready to read through a binding. -/
def State.qCount (s : State) (q : Nat) : Nat :=
  let b := s.me.qb q
  let u := qSub b
  match qKind b with
  | 1 => ((s.coreSt s.core).links.toList.getD u []).length
  | 3 => (s.me.fifos.toList.getD u ResFifo.init).recs.length
  | 4 => match s.stream? s.sid q with | some t => if t.bad then 0 else t.ahead.length | none => 0
  | 6 => ((s.coreSt s.core).holes.toList.getD u []).length
  | 7 => s.me.brq.length
  | _ => 0

/-- An engine's command queue, the slot's records and the tracker leave room for one more command. -/
def State.enqRoom (s : State) (eng : Nat) : Bool :=
  let f := s.me.fifos.toList.getD eng ResFifo.init
  decide (((s.clusterSt s.cluster).queues.toList.getD eng []).length < 16) && decide (f.reserved + f.recs.length < 32)
    && !s.trackerFull s.cluster

/-- A write through a binding would not park now. -/
def State.qWritable (s : State) (q : Nat) : Bool :=
  let b := s.me.qb q
  let u := qSub b
  match qKind b with
  | 1 => match neighbourCore s.core u with
    | some n => decide (((s.coreSt n).links.toList.getD (opposite u) []).length < 8)
    | none => false
  | 2 => s.enqRoom u
  | 5 => match s.stream? s.sid q with
    | some t => !t.bad && decide ((t.ahead.length + 1) * t.size ≤ streamRoom)
    | none => false
  | 7 => decide ((s.slot (s.core * 16 + u)).brq.length < 8)
  | _ => false

/-- The oldest message of a pigeonhole binding has 64 bytes. -/
def State.qBig (s : State) (q : Nat) : Bool :=
  let b := s.me.qb q
  qKind b == 6 && (match (s.coreSt s.core).holes.toList.getD (qSub b) [] with | m :: _ => m.big | [] => false)

/-- QTST (R419). -/
def execQtst (rd : XReg) (q : QReg) (s : State) : Outcome :=
  let n := q.toNat
  let b := s.me.qb n
  s.finish (if qKind b = 0 ∨ s.breaksRow s.sid b = true then .trap (Trap.sync 11 (BitVec.ofNat 64 n))
    else
      let c := s.qCount n
      let v := c % 65536 * 256 + (if s.qBig n then 4 else 0) + (if s.qWritable n then 2 else 0) + (if c = 0 then 0 else 1)
      s.ret (·.wx rd (BitVec.ofNat 64 v)))

/-- The effective priority of a binding (R147). -/
def qEff (b : Word) : Nat := if qKind b = 6 then qSub b / 8 else qPri b

/-- QWAIT (R420). -/
def execQwait (rd rs1 : XReg) (s : State) : Outcome :=
  let m := s.me.rx rs1
  let named := (List.range 8).filter fun i => m.getLsbD i
  s.finish (
    if m = 0 ∨ m.extractLsb' 8 56 ≠ 0 then .trap (Trap.sync 11 m)
    else match named.find? fun i => qKind (s.me.qb i) == 0 || s.breaksRow s.sid (s.me.qb i) with
      | some i => .trap (Trap.sync 11 (BitVec.ofNat 64 i))
      | none =>
        let ready := named.filter fun i => s.qCount i != 0
        match (ready.find? fun i => qEff (s.me.qb i) == 1).or ready.head? with
        | some i => s.ret (·.wx rd (BitVec.ofNat 64 i))
        | none => .park true)

/-! ### Messages (R149, R398, R399) -/

/-- The core whose local-store window holds an address, and the offset in it: the own or a team window (R61). -/
def State.holeOf (s : State) (a : Word) : Option (Nat × Nat) :=
  let k := a.toNat
  if isChan s.core then none
  else if 0xF000000000 ≤ k ∧ k < 0xF000020000 then some (s.core, k - 0xF000000000)
  else if 0xF200000000 ≤ k ∧ k < 0xF400000000 then
    let i := (k - 0xF200000000) / 0x20000
    match s.teamOf s.me with
    | some t => (t.place[i / 16]?).map fun ph => (ph * 16 + i % 16, (k - 0xF200000000) % 0x20000)
    | none => none
  else none

/-- Messages held and on their way number eight. -/
def CoreSt.holeFull (k : CoreSt) (h : Nat) : Bool :=
  decide (8 ≤ (k.holes.toList.getD h []).length + k.flight.toList.getD h 0)

/-- The logical core index of a physical core in a team. -/
def Team.logicalCore (t : Team) (core : Nat) : Nat := (t.place.findIdx (· == clusterOf core)) * 16 + core % 16

/-- A message on its way to a hole, its place reserved. -/
def State.sendMessage (s : State) (tid core hole : Nat) (m : Msg) : State :=
  (s.modCore core fun k => { k with flight := k.flight.set! hole (k.flight.toList.getD hole 0 + 1) }).post
    (.messageArrival tid core hole (.hole m))

/-- A message for a hole is on its way: later ones stay behind it (R149). -/
def State.messageDue (s : State) (core hole : Nat) : Bool :=
  s.agenda.any fun e => match e with
    | .messageArrival _ c h (.hole _) => c == core && h == hole
    | _ => false

/-- A message for a hole, in the order in which its sender sends (R149, R150): parked while the hole is full; for a team that
is stopping into its log, where a full log refuses it, 64 times at most (R263, R399). -/
def State.deliver (s : State) (tid core hole : Nat) (m : Msg) (ptr : Word) (safe : Bool) (k : State → State) : Res :=
  match (s.team? tid).filter fun t => t.stop.isSome || t.state != 1 with
  | some t =>
    if s.messageDue core hole then .park safe
    else match s.logPut tid (.message (t.logicalCore core) hole m) with
      | some s' => .done (k (s'.upd fun sl => { sl with refusals := 0, retryAt := 0 }))
      | none =>
        if s.cycle < s.me.retryAt then .park safe
        else if 63 ≤ s.me.refusals then .trap (Trap.sync 18 ptr)
        else
          let s := if isChan s.core then s else s.gather s.cluster (errBit 9) 0
          .done (s.upd fun sl => { sl.parkRetry safe with refusals := sl.refusals + 1, retryAt := s.cycle + 256 })
  | none => if (s.coreSt core).holeFull hole then .park safe else .done (k (s.sendMessage tid core hole m))

/-- MSEND and MSENDV (R398): address, release, then the message. -/
def State.msendRes (s : State) (a : Word) (m : Msg) : Res :=
  match s.holeOf a with
  | none => .trap (Trap.sync 7 a)
  | some (core, off) =>
    if off % 8 ≠ 0 ∨ 128 ≤ off then .trap (Trap.sync 7 a)
    else if s.releaseWaits then .park true
    else s.deliver s.me.team core (off / 8) m a true fun s => s.upd (·.retire)

/-- MSEND (R398). -/
def execMsend (rs1 rs2 : XReg) (s : State) : Outcome :=
  s.finish (s.msendRes (s.me.rx rs1) { big := false, data := (s.me.rx rs2).zeroExtend 512 })
/-- MSENDV (R398). -/
def execMsendv (rs1 : XReg) (vs2 : VReg) (s : State) : Outcome :=
  s.finish (s.msendRes (s.me.rx rs1) { big := true, data := s.me.rv vs2 })

/-- A message reaches the core of its hole (R149): it lands in its place there, and in holes 8 to 15 of a kernel core raises
icause 4 (R251). For a stopping team it goes to the log; where that is full it keeps the place that its sender reserved,
and is saved with the hole (R150, R263; log entry 92). -/
def State.messageLands (s : State) (tid core hole : Nat) (m : Msg) : State :=
  let s := s.modCore core fun k => { k with flight := k.flight.set! hole (k.flight.toList.getD hole 0 - 1) }
  let land := fun (s : State) => s.modCore core fun k => { k with holes := k.holes.set! hole (k.holes.toList.getD hole [] ++ [m]) }
  match s.team? tid with
  | none => s
  | some t =>
    if t.stop.isSome || t.state != 1 then (s.logPut tid (.message (t.logicalCore core) hole m)).getD (land s)
    else if tid = 0 ∧ 8 ≤ hole then (land s).raise 4 (BitVec.ofNat 64 (hole + t.logicalCore core * 65536)) else land s

/-- MESSAGE_ARRIVAL (R149, R298): a message lands in a pigeonhole or in its team's overflow log, or reaches the network
interface. -/
def execMessageArrival (tid core hole : Nat) (d : Delivery) (s : State) : Outcome :=
  .next (match d with
    | .hole m => s.messageLands tid core hole m
    | .net peer m => s.netArrive peer m)

end Sys2Proof.Machine
end

