-- ==== Sys2Proof/Machine/Travellers.lean ====
section
/-! DEFINITION. Travellers: MIGR, HOME, SPAWN, DELEG, YIELD and EXIT; run queues, retries, home packets and the reports
of spawned travellers (spec 02 R35 to R44; 21 R363 to R365, R372, R377; 22 R392, R393; 24 R438, R439; 25 R471, R472). -/

namespace Sys2Proof.Machine

/-! ### Starting a slot (R27, R36, R55) -/

/-- A slot that starts for a team: reset values, and the kernel registers that the launch record gives. -/
def Team.slot (t : Team) (tid : Nat) : Slot :=
  { Slot.init with
    teamid := BitVec.ofNat 64 (tid % 65536 + t.gen % 65536 * 65536), shape := BitVec.ofNat 64 (t.s * 65536 + t.c),
    asid := t.asid, ptbase := t.ptb, teamctx := t.save, winbase := t.winb, winlen := t.winl,
    safeb := if t.safeb = 0 then 4096 else t.safeb &&& 0xFFFFFFFF, kvec := t.kvec, status := .ready }

/-- A traveller's slot: the carried registers, every other one zero (R36). -/
def Team.travSlot (t : Team) (tid : Nat) (p : Packet) : Slot :=
  let sl := { t.slot tid with
    coord := p.origin, pc := pcOf p.pc, running := if p.kind = 0 then .migrated else if p.kind = 1 then .spawned else .delegate,
    trav := some { team := p.team, gen := p.gen, kind := p.kind, prio := p.prio, cap := p.cap, origin := p.origin,
                   target := p.target, reply := p.reply } }
  ((((List.range 8).foldl (fun (sl : Slot) i => sl.wx (BitVec.ofNat 5 (10 + i)) (p.a.getD i 0)) sl).wx 5 p.t0).wx 6 p.t1).wp 0 p.p0

/-- A traveller starts in a slot; a channel core's scratch of the slot becomes zero (R228). -/
def State.startTrav (s : State) (sid : Nat) (p : Packet) : State :=
  match s.team? p.team with
  | none => s
  | some t =>
    let s := if isChan (coreOf sid) then s.zero (scratchPa sid) 4096 else s
    s.setSlot sid (t.travSlot p.team p)

/-- A slot that a traveller leaves becomes idle. -/
def State.freeSlot (s : State) (sid : Nat) : State :=
  (s.modSlot sid fun sl => { sl with status := .idle, running := .user, trav := none, follow := none, due := [] }).post
    (.runQueueRelease (coreOf sid))

/-! ### Run queues (R37) -/

/-- The effective priority of an entry at a cycle. -/
def RunEnt.prio (e : RunEnt) (cycle : Nat) : Nat := min (e.p.prio + (cycle - e.arrived) / 1024) e.p.cap

/-- The entry that leaves first among those allowed: highest effective priority, oldest among equals. -/
def pickEnt (cycle : Nat) (ok : RunEnt → Bool) : List RunEnt → Option RunEnt
  | [] => none
  | e :: r =>
    match pickEnt cycle ok r with
    | none => if ok e then some e else none
    | some b => if ok e && decide (b.prio cycle ≤ e.prio cycle) then some e else some b

/-- A free slot of a core for migrate and spawn travellers (R36). An idle slot is free once the elements that its exited
program pushed to a STROUT stream are written (the model's choice, log entry 91). -/
def State.freeTravSlot (s : State) (core : Nat) : Option Nat :=
  ((List.range 14).map (core * 16 + ·)).find? fun sid =>
    s.isUserSlot core (sid % 16) && (s.slot sid).status == .idle
      && (s.slot sid).streams.all fun e => !e.2.out || e.2.ahead.isEmpty

/-- An entry that runs in a slot of its own, not on the innkeeper. -/
def RunEnt.moves (e : RunEnt) : Bool := decide (e.p.kind ≤ 1)

/-- The innkeeper of a core is free. -/
def State.innFree (s : State) (core : Nat) : Bool :=
  (s.coreSt core).busy.isNone && (s.slot (core * 16 + 14)).status == .idle

/-- No earlier entry of the queue is an access of the same core to a word of this one's (R167 to R169). -/
def State.inOrder (s : State) (q : List RunEnt) (e : RunEnt) : Bool :=
  match s.packetTouch e.p with
  | none => true
  | some t => (q.takeWhile (· != e)).all fun d => (s.packetTouch d.p).all fun u => !u.clash t

/-- An active message is performed by the innkeeper that releases it (R125); an atomic and a remote update keep it busy until
their event. -/
def State.serveActive (s : State) (owner : Nat) (p : Packet) : State :=
  match p.act with
  | some (.load r) => s.serveLoad r
  | some (.store r) => s.perform r
  | some (.pres r) => s.presRequest r
  | some (.atom r) => (s.setBusy owner (some p)).post (.atomicAtOwner r)
  | none => (s.setBusy owner (some p)).post (.remoteUpdate p owner)

/-- The traveller of a queue entry may start: its team runs, and is not being stopped; a frame that found no room in its team's
log waits in the queue until the team runs again (R263; log entry 92). -/
def State.mayRun (s : State) (e : RunEnt) : Bool :=
  e.p.act.isSome || (match s.team? e.p.team with
    | some t => t.state == 1 && t.stop.isNone
    | none => true)

/-- RUN_QUEUE_RELEASE (R37): the entry of highest effective priority that a free slot, or the free innkeeper, can take;
a vault controller takes its entries in arrival order, one after the other (R185). -/
def execRunQueueRelease (core : Nat) (s : State) : Outcome :=
  let q := s.queueOf core
  .next (
    if vaultOwner0 ≤ core then
      match s.busyOf core, q with
      | none, e :: r => (s.setQueue core r).serveActive core e.p
      | _, _ => s
    else
      let free := s.freeTravSlot core
      let inn := s.innFree core
      match pickEnt s.cycle (fun e => (if e.moves then free.isSome else inn) && s.mayRun e && s.inOrder q e) q with
      | none => s
      | some e =>
        let s := (s.setQueue core (q.erase e)).post (.runQueueRelease core)
        if e.moves then (match free with | some sid => s.startTrav sid e.p | none => s)
        else if e.p.kind = 2 ∧ e.p.act = none then s.startTrav (core * 16 + 14) e.p
        else s.serveActive core e.p)

/-! ### Arrival and acceptance (R35, R37 to R39) -/

/-- A number that is no slot: packets that the device itself injects come from it. -/
def noSlot : Nat := 2 ^ 32

/-- What a packet asks for is still wanted: a traveller's slot waits for its packet to be accepted; an active message's slot
waits for it, or has gone on. -/
def State.wanted (s : State) (p : Packet) (sid : Nat) : Bool :=
  match p.act with
  | some (.load r) => (s.slot r.sid).status == .parked .reply
  | some (.pres r) => s.presLive r
  | some (.store _) | some (.atom _) => true
  | none => sid == noSlot || (s.slot sid).status == .parked .reply || (s.slot sid).status == .parked .moving

/-- A change of the origin cluster of a packet. -/
def State.modOrigin (s : State) (p : Packet) (f : ClusterSt → ClusterSt) : State :=
  match s.clusterAt p.team p.origin with
  | some cl => s.modCluster cl f
  | none => s

/-- The owner has accepted a packet (R38): MIGR leaves its slot away or free; any other sender of a traveller retires. -/
def State.accept (s : State) (p : Packet) (sid : Nat) : State :=
  if p.act.isSome then s else
  match (s.slot sid).status with
  | .parked .moving =>
    if (s.slot sid).running = .user then
      s.modSlot sid fun sl => { sl with status := .away, spCount := 0, follow := none }
    else s.freeSlot sid
  | .parked .reply =>
    let s := s.modSlot sid fun sl =>
      { sl.retire with delegSeq := if p.kind = 2 ∧ p.reply.getLsbD 4 then sl.delegSeq + 1 else sl.delegSeq }
    if p.kind = 1 then s.modOrigin p fun c => { c with spawned := c.spawned + 1 } else s
  | _ => s

/-- A packet is refused for good, or dropped on its way: its slot takes a trap there while it waits for it, else at its
next turn (R37). -/
def State.packetTrap (s : State) (p : Packet) (sid : Nat) (t : Trap) : State :=
  match p.act with
  | some (.load r) => if (s.slot r.sid).status = .parked .reply then s.modSlot r.sid (·.enter t) else s
  | some (.store r) => s.later r.sid t
  | some (.atom r) => s.atomTrap r t
  | some (.pres r) => s.presTrap r t
  | none => s.modSlot sid (·.enter t)

/-- A packet is refused: again after 256 cycles; after 64 refusals its slot takes cause 18 (R37). -/
def State.refuse (s : State) (p : Packet) (owner sid tries : Nat) : State :=
  let s := if sid = noSlot ∨ isChan (coreOf sid) then s else s.gather (clusterOf (coreOf sid)) (errBit 9) 0
  if 63 ≤ tries ∧ sid ≠ noSlot then s.packetTrap p sid (Trap.sync 18 p.target)
  else s.post (.travellerRetry p owner sid (tries + 1) (s.cycle + 256))

/-- The team runs at an owner: resident, not stopping, and on the owner's cluster if that is a cluster's core (R39). -/
def State.residentAt (s : State) (t : Team) (tid owner : Nat) : Bool :=
  t.state == 1 && t.stop.isNone
    && (decide (chanCore0 ≤ owner) || (s.clusterSt (clusterOf owner)).team == some tid)

/-- A packet joins the queue of its owner, or is refused (R37). -/
def State.intoQueue (s : State) (p : Packet) (owner sid tries : Nat) : State :=
  let q := s.queueOf owner
  if q.length < queueSize owner then
    (((s.setQueue owner (q ++ [{ p := p, arrived := s.cycle }])).accept p sid)).post (.runQueueRelease owner)
  else s.refuse p owner sid tries

/-- A packet reaches its owner. -/
def State.arrive (s : State) (p : Packet) (owner sid tries : Nat) : State :=
  if p.act.isSome then s.intoQueue p owner sid tries
  else if p.kind = 4 then s.post (.homePacketArrival ⟨p, p.crc⟩)
  else match s.team? p.team with
  | none => s.accept p sid
  | some t =>
    if 4 < p.kind then (s.countCorrupt p.team).accept p sid
    else if p.gen ≠ t.gen then s.modTeam p.team fun t => { t with stale := t.stale + 1 }
    else if !s.residentAt t p.team owner then
      match s.logPut p.team (.frame p) with
      | some s => s.accept p sid
      | none => s.refuse p owner sid tries
    else s.intoQueue p owner sid tries

/-- TRAVELLER_ARRIVAL (R35, R37): a packet whose CRC does not match its bytes is discarded, counted (R281) and sent again. -/
def execTravellerArrival (p : Packet) (owner sid tries : Nat) (crc : BitVec 32) (s : State) : Outcome :=
  .next (if !s.wanted p sid then s
    else if crc ≠ p.crc then (s.countCorrupt p.team).post (.travellerArrival p owner sid tries p.crc)
    else s.arrive p owner sid tries)

/-- TRAVELLER_RETRY (R37): a refused packet comes again after 256 cycles. -/
def execTravellerRetry (p : Packet) (owner sid tries due : Nat) (s : State) : Outcome :=
  .next (if !s.wanted p sid then s
    else if s.cycle < due then s.post (.travellerRetry p owner sid tries due)
    else s.arrive p owner sid tries)

/-- REMOTE_UPDATE (R39): the innkeeper or vault controller performs the update, and is free for the next entry. -/
def execRemoteUpdate (p : Packet) (owner : Nat) (s : State) : Outcome :=
  let s := s.remoteUpdate p
  .next (if s.busyOf owner = some p then s.finishAt owner else s)

/-! ### EXIT and completion (R41 to R44, R372) -/

/-- Flags of fflags at their places in ERR: NV, DZ, OF, UF, NX, poison (R41, R43). -/
def errOfFlags (f : BitVec 6) : BitVec 12 :=
  (if f.getLsbD 4 then 1 else 0) ||| (if f.getLsbD 3 then 2 else 0) ||| (if f.getLsbD 2 then 4 else 0)
    ||| (if f.getLsbD 1 then 8 else 0) ||| (if f.getLsbD 0 then 16 else 0) ||| (if f.getLsbD 5 then 32 else 0)

/-- An exit counted in a cluster's done word with its flags (R43). -/
def State.countExit (s : State) (cluster : Nat) (f : BitVec 6) (cls : Nat) : State :=
  (s.gather cluster (errOfFlags f) (max cls (if f.getLsbD 5 then 3 else 0))).modCluster cluster fun c =>
    { c with done := { c.done with exits := c.done.exits + 1 } }

/-- The user slots of a cluster that a team starts. -/
def startedSlots (t : Team) (cluster : Nat) : List Nat :=
  (List.range 256).filterMap fun k => if t.smask.getLsbD (k % 16) then some (cluster * 256 + k) else none

/-- Every started slot of a cluster has exited. -/
def State.allExited (s : State) (t : Team) (cluster : Nat) : Bool :=
  (startedSlots t cluster).all fun sid => (s.slot sid).status == .exited

/-- The user slots that a resident team starts. -/
def Team.userSlots (t : Team) : List Nat := t.place.flatMap (startedSlots t)

/-- A slot at a checkpoint instant: its arrival mark goes, and a parked STEP retires (R441). -/
def Slot.passStep (sl : Slot) : Slot :=
  let sl := { sl with ckArr := false }
  if sl.status = .parked .step then { sl with step := sl.step + 1 }.retire else sl

/-- CHECKPOINT_INSTANT (R284, R348): once every started, non-exited user slot has arrived at a pending boundary, the
parked STEPs retire together and the units written since the last commit are the checkpoint's. -/
def State.tryInstant (s : State) (tid : Nat) : State :=
  match s.team? tid with
  | none => s
  | some t =>
    let live := (t.userSlots).filter fun sid => (s.slot sid).status != .exited
    if t.ckWant.isSome && !t.ckRun && t.started && t.saved.isNone && live.all (fun sid => (s.slot sid).ckArr) then
      let s := live.foldl (fun (s : State) sid => s.modSlot sid (·.passStep)) s
      (s.modTeam tid fun t => { t with ckRun := true, ckUnits := t.ckWritten, ckWritten := [],
                                       ckCount := t.ckWritten.length, ckDone := [] }).post (.checkpointUnitCopy tid none)
    else s

/-- The cluster's part of completion is looked for once all its slots have exited; team 0 never completes (R252). -/
def State.lookDone (s : State) (cluster : Nat) : State :=
  match (s.clusterSt cluster).team with
  | none => s
  | some tid =>
    match s.team? tid with
    | none => s
    | some t => if tid ≠ 0 ∧ s.allExited t cluster = true then s.post (.doneMessage tid (s.clusterSt cluster).logical 0) else s

/-- A user slot ends (R372). An EXIT above task level in a team other than the kernel's is the kernel's termination of
the slot, class 5 (R41; log entry 17). -/
def State.exitUser (s : State) (sid : Nat) : State :=
  let sl := s.slot sid
  let cl := clusterOf (coreOf sid)
  let cls := if sl.level ≠ .task ∧ sl.team ≠ 0 then 5 else 0
  (((s.modSlot sid fun sl => { sl with status := .exited, follow := none, pending := [] }).countExit cl sl.fflags cls).lookDone cl).tryInstant sl.team

/-- The checks that EXIT, HOME, MIGR and YIELD share: lease, open copies, domains, with `two` in ktval2 of the last (R44,
R377, R392). -/
def State.leaveChecks (s : State) (two : Word) (k : Unit → Res) : Res :=
  let sl := s.me
  if !isChan s.core && (s.clusterSt s.cluster).holder == some s.sid then .trap (Trap.sync 20 0)
  else if sl.openCopies ≠ 0 then .trap (Trap.sync 11 (BitVec.ofNat 64 sl.openCopies))
  else if sl.cdlvl ≠ 0 then .trap (Trap.sync 11 (BitVec.ofNat 64 sl.cdlvl) two)
  else k ()

/-- The reply of a delegate routine: a0 to a3 and the sequence (R365). -/
def Slot.delegMsg (sl : Slot) (reply : BitVec 32) : Msg :=
  { big := true, data := BitVec.ofNat 512 (((List.range 4).foldr (fun i a => (sl.rx (BitVec.ofNat 5 (10 + i))).toNat + 2 ^ 64 * a) 0)
      + 2 ^ 256 * (reply.toNat / 256)) }

/-- The physical core of a coordinate. -/
def State.coreAt (s : State) (tid : Nat) (coord : Word) : Option Nat := (s.slotAt tid coord).map coreOf

/-- EXIT of a delegate routine: the reply, if one is wanted, once its accesses are performed and the hole has room; a
team that is not resident gets it in its log (R150, R263, R365). -/
def State.exitDelegate (s : State) (v : Trav) : Res :=
  let free := fun (s : State) => s.freeSlot s.sid
  if !v.reply.getLsbD 4 then .done (free s)
  else if s.releaseWaits then .park false
  else
    let h := (v.reply.extractLsb' 0 4).toNat
    match s.team? v.team, s.coreAt v.team v.origin with
    | some _, some core => s.deliver v.team core h (s.me.delegMsg v.reply) v.origin false free
    | _, _ => .done (free s)

/-- A home packet on its way (R38). -/
def State.sendHome (s : State) (p : Packet) : State := s.post (.homePacketArrival ⟨p, p.crc⟩)

/-- EXIT (R44, R372). -/
def execExit (s : State) : Outcome :=
  s.finish (s.leaveChecks 1 fun _ =>
    let sl := s.me
    let sid := s.sid
    match sl.running, sl.trav with
    | .migrated, some v =>
      .done ((s.sendHome { s.packetOf sid 4 v.target sl.pc with exitMark := true }).freeSlot sid)
    | .spawned, some v =>
      match s.team? v.team with
      | none => .done (s.freeSlot sid)
      | some t =>
        let logical := (v.origin.extractLsb' 48 16).toNat * t.c + (v.origin.extractLsb' 32 16).toNat
        .done ((s.post (.spawnExitReport v.team logical sl.fflags)).freeSlot sid)
    | .delegate, some v => s.exitDelegate v
    | _, _ => .done (s.exitUser sid))

/-- SPAWN_EXIT_REPORT (R41, R43): counted at the barrier root of the origin cluster. -/
def execSpawnExitReport (tid logical : Nat) (flags : BitVec 6) (s : State) : Outcome :=
  .next (match (s.team? tid).bind fun t => t.place[logical]? with
    | none => s
    | some cl =>
      ((s.modCluster cl fun c => { c with spawned := c.spawned - 1 }).countExit cl flags 0))

/-! ### MIGR, HOME, SPAWN, DELEG (R363 to R365, R377, R392, R438) -/

/-- The owner of a target given as a load's pointer (R36): remote and malformed pointers, windows and translation take
cause 5. -/
def State.targetOwner (s : State) (a : Word) : Except Trap (Nat × State) :=
  match s.locate s.sid a 1 .load with
  | .error t => .error t
  | .ok h => .ok (h.st.ownerCore h.pa, h.st)

/-- The pc of a routine: cause 0 when misaligned, cause 1 with high bits set. -/
def routineTrap (e : Word) : Option Trap :=
  if e.extractLsb' 0 2 ≠ 0 then some (Trap.sync 0 e) else if e.extractLsb' 57 7 ≠ 0 then some (Trap.sync 1 e) else none

/-- A packet sent to its owner; the slot parks until it is accepted. -/
def State.sendPacket (s : State) (p : Packet) (owner : Nat) (w : Wait) : Res :=
  .done ((s.post (.travellerArrival p owner s.sid 0 p.crc)).upd (·.parkOn w))

/-- MIGR (R392). -/
def execMigr (rs1 : XReg) (s : State) : Outcome :=
  let a := s.me.rx rs1
  s.finish (
    if s.me.running = .delegate then illegalI (.migr rs1)
    else s.leaveChecks 0 fun _ =>
      match s.targetOwner a with
      | .error t => .trap t
      | .ok (o, s') =>
        if o = s.core then s'.ret
        else if s.me.pending ≠ [] then .park true
        else if s.releaseWaits then .park false
        else
          let kind := match s.me.trav with | some v => v.kind | none => 0
          s'.sendPacket (s.packetOf s.sid kind a (s.me.pc + 4)) o .moving)

/-- HOME (R377): only in a migrated traveller. -/
def execHome (s : State) : Outcome :=
  s.finish (
    if s.me.running ≠ .migrated then illegalI .home
    else s.leaveChecks 1 fun _ =>
      if s.me.pending ≠ [] then .park true
      else if s.releaseWaits then .park false
      else .done ((s.sendHome (s.packetOf s.sid 4 0 (s.me.pc + 4))).freeSlot s.sid))

/-- SPAWN (R438). -/
def execSpawn (rs1 rs2 : XReg) (s : State) : Outcome :=
  let a := s.me.rx rs1
  let e := s.me.rx rs2
  s.finish (match routineTrap e with
    | some t => .trap t
    | none => match s.targetOwner a with
      | .error t => .trap t
      | .ok (o, s') =>
        if s.releaseWaits then .park false else s'.sendPacket (s.packetOf s.sid 1 a e) o .reply)

/-- DELEG with the reply word of its packet (R364). -/
def State.delegate (s : State) (i : Instr) (rs1 rs2 : XReg) (hole : Option (BitVec 4)) : Outcome :=
  let a := s.me.rx rs1
  let e := s.me.rx rs2
  s.finish (
    if hole.isSome && s.me.running == .delegate then illegalI i
    else if a.extractLsb' 57 7 ≠ 0 then .trap (Trap.sync 5 a)
    else if inWindows a ∧ (s.window (s.ctx s.sid) a.toNat 1).isNone = true then .trap (Trap.sync 5 a (detail 9 0))
    else match routineTrap e with
      | some t => .trap t
      | none => match s.targetOwner a with
        | .error t => .trap t
        | .ok (o, s') =>
          if s.releaseWaits then .park false
          else
            let reply : BitVec 32 := match hole with
              | none => 0
              | some h => BitVec.ofNat 32 (h.toNat + 16 + s.me.delegSeq % 2 ^ 24 * 256)
            s'.sendPacket { s.packetOf s.sid 2 a e with reply := reply } o .reply)

/-- DELEG (R364). -/
def execDeleg (rs1 rs2 : XReg) (s : State) : Outcome := s.delegate (.deleg rs1 rs2) rs1 rs2 none
/-- DELEG_REPLY (R364). -/
def execDelegReply (rs1 rs2 : XReg) (h : BitVec 4) (s : State) : Outcome :=
  s.delegate (.delegReply rs1 rs2 h) rs1 rs2 (some h)

/-! ### YIELD (R471, R472) -/

/-- YIELD (R471): a traveller gives its slot to a waiting entry and waits as a new arrival; anything else retires and
stands at a safe point. An entry that waits for the innkeeper, or whose team does not run, cannot take a user slot and
does not count as waiting for one (DEDUCED, log entry 103). -/
def execYield (s : State) : Outcome :=
  let sl := s.me
  let core := s.core
  let q := s.queueOf core
  let plain := Res.done (s.upd fun sl => { sl.retire with spCount := 0, safeAt := some 0x1000 })
  s.finish (
    if (sl.running ≠ .migrated ∧ sl.running ≠ .spawned) ∨ sl.cdlvl ≠ 0 then plain
    else match pickEnt s.cycle (fun e => e.moves && s.mayRun e) q with
      | none => plain
      | some e => s.leaveChecks 0 fun _ =>
        if sl.pending ≠ [] then .park true
        else if s.releaseWaits then .park false
        else
          let v := sl.trav.getD { team := 0, gen := 0, kind := 0, prio := 0, cap := 0, origin := 0, target := 0, reply := 0 }
          let p := s.packetOf s.sid v.kind v.target (sl.pc + 4)
          .done ((s.setQueue core (q.erase e ++ [{ p := p, arrived := s.cycle }])).startTrav s.sid e.p))

/-! ### Home packets (R38, R377) -/

/-- The carried registers, p0 and pc of a packet written into a slot. -/
def Slot.receive (sl : Slot) (p : Packet) : Slot :=
  let sl := (((List.range 8).foldl (fun (sl : Slot) i => sl.wx (BitVec.ofNat 5 (10 + i)) (p.a.getD i 0)) sl).wx 5 p.t0).wx 6 p.t1
  { sl.wp 0 p.p0 with pc := pcOf p.pc }

/-- The same written into a frame in memory, with the away bit cleared (R377). -/
def State.receiveFrame (s : State) (pa : Nat) (p : Packet) : State :=
  let s := (List.range 8).foldl (fun (s : State) i => s.put (pa + 8 * (10 + i)) 8 (p.a.getD i 0).toNat) s
  let s := ((s.put (pa + 40) 8 p.t0.toNat).put (pa + 48) 8 p.t1.toNat).put (pa + 0x1E0) 4 p.p0.toNat
  let s := s.put (pa + 0x100) 8 p.pc.toNat
  s.put pa 8 (s.rd pa 8 % 2 ^ 63)

/-- HOME_PACKET_ARRIVAL (R38, R372, R377): the home slot becomes ready with the carried registers, or exited when the
traveller ended; a saved slot receives it in its frame; a slot in a handler that has not yet stored its frame lets the
packet wait. A packet whose CRC does not match its bytes is discarded, counted and sent again (R35, R281); one of another
generation is dropped and counted. -/
def execHomePacketArrival (f : Framed) (s : State) : Outcome :=
  let p := f.p
  .next (match s.team? p.team with
    | none => s
    | some t =>
      if f.crc ≠ p.crc then (s.countCorrupt p.team).sendHome p
      else if p.gen ≠ t.gen then s.modTeam p.team fun t => { t with stale := t.stale + 1 }
      else match s.slotAt p.team p.origin with
        | none => s
        | some sid =>
          let sl := s.slot sid
          if sl.status = .away then
            if p.exitMark then s.exitUser sid
            else s.modSlot sid fun sl => { sl.receive p with status := .ready, safeAt := some 0x1000 }
          else if !sl.savedAway then s
          else match sl.frame with
            | none => s.sendHome p
            | some (pa, _) =>
              if p.exitMark then s.exitUser sid
              else (s.receiveFrame pa p).modSlot sid fun sl => { sl with savedAway := false })

end Sys2Proof.Machine
end

