-- ==== Sys2Proof/Machine/Barriers.lean ====
section
/-! DEFINITION. The eight barriers of a team: leaves, cluster roots and the relay root (spec 07 R159 to R163; 20 R334 to
R336). -/

namespace Sys2Proof.Machine

/-- Barrier b of a cluster. -/
def ClusterSt.bar (c : ClusterSt) (b : Nat) : Bar := c.bars.toList.getD b (Bar.init 0)
def ClusterSt.setBar (c : ClusterSt) (b : Nat) (x : Bar) : ClusterSt := { c with bars := c.bars.set! b x }

/-- The cluster record of a team's logical cluster: the live cluster while the team is resident, else the saved one
(R163). -/
def State.teamCluster (s : State) (tid logical : Nat) : Option ClusterSt :=
  match s.team? tid with
  | none => none
  | some t => match t.saved with
    | some sv => tfind sv.clusters logical
    | none => match t.place[logical]? with
      | some ph => some (s.clusterSt ph)
      | none => none

/-- A change of that record. -/
def State.modTeamCluster (s : State) (tid logical : Nat) (f : ClusterSt → ClusterSt) : State :=
  match s.team? tid with
  | none => s
  | some t => match t.saved with
    | some sv => s.modTeam tid fun t => { t with saved := some { sv with
        clusters := sv.clusters.map fun e => if e.1 = logical then (e.1, f e.2) else e } }
    | none => match t.place[logical]? with
      | some ph => s.modCluster ph f
      | none => s

/-- A pending signal of barrier b of a cluster of a team. -/
def isBarEvent (tid logical b : Nat) : Event → Bool
  | .barrierRootReport t _ c k _ | .barrierPhaseFlip t _ c k => t == tid && c == logical && k == b
  | _ => false

/-- A leaf's report on its way to the cluster's root. -/
def isLeafReport (tid logical b : Nat) : Event → Bool
  | .barrierRootReport t _ c k (some _) => t == tid && c == logical && k == b
  | _ => false

/-- The relay root's round of barrier b: complete when every cluster that holds b at team scope has reported; then
every one of them is sent the flip (R160, R161). -/
def State.evalRound (s : State) (tid b : Nat) : State :=
  match s.team? tid with
  | none => s
  | some t =>
    let ls := (List.range (t.s * t.c)).filter fun l => match s.teamCluster tid l with
      | some c => (c.bar b).team
      | none => false
    let all := ls.all fun l => match s.teamCluster tid l with
      | some c => (c.bar b).rootDone
      | none => false
    if ls ≠ [] ∧ all = true then
      ls.foldl (fun s l => (s.modTeamCluster tid l fun c => c.setBar b { c.bar b with rootDone := false }).post
        (.barrierPhaseFlip tid t.gen l b)) s
    else s

/-- A signal of another generation than its team's is stale: it is dropped and counted (R163). -/
def State.staleGen (s : State) (tid gen : Nat) : Bool :=
  match s.team? tid with
  | some t => gen != t.gen
  | none => true

def State.countStale (s : State) (tid : Nat) : State := s.modTeam tid fun t => { t with stale := t.stale + 1 }

/-- BARRIER_ROOT_REPORT (R161, step 3): a leaf's report at its cluster's root, which flips the phase or reports up the
relay tree once every participating leaf has reported; or a cluster's report at the relay root. -/
def execBarrierRootReport (tid gen cluster b : Nat) (leaf : Option Nat) (s : State) : Outcome :=
  .next (
    if s.staleGen tid gen then s.countStale tid
    else match s.teamCluster tid cluster with
      | none => s
      | some c =>
        let x := c.bar b
        match leaf with
        | some _ =>
          if x.mask &&& x.reported = x.mask ∧ s.agenda.any (isLeafReport tid cluster b) = false then
            s.post (if x.team then .barrierRootReport tid gen cluster b none else .barrierPhaseFlip tid gen cluster b)
          else s
        | none =>
          if x.team then
            (s.modTeamCluster tid cluster fun c => c.setBar b { c.bar b with rootDone := true }).evalRound tid b
          else s)

/-- BARRIER_PHASE_FLIP (R161, step 4): every leaf of the cluster receives the flip and counts anew. -/
def execBarrierPhaseFlip (tid gen cluster b : Nat) (s : State) : Outcome :=
  .next (if s.staleGen tid gen then s.countStale tid
    else s.modTeamCluster tid cluster fun c =>
      c.setBar b { c.bar b with phase := ~~~ (c.bar b).phase, reported := 0 })

/-- Barrier b as the slot whose turn it is sees it. -/
def State.bar (s : State) (b : Nat) : Bar := (s.clusterSt s.cluster).bar b
/-- The phase of the slot's leaf. -/
def State.leafPhase (s : State) (b : Nat) : Bool := (s.bar b).phase.getLsbD (s.core % 16)
/-- The slot has arrived in the leaf's present phase. -/
def State.hasArrived (s : State) (b : Nat) : Bool := tfind s.me.barRec b == some (s.leafPhase b)
/-- The scope code of a barrier's release and acquire (R162). -/
def Bar.scope (x : Bar) : Nat := if x.team then 4 else 2

/-- A trap of a barrier instruction. -/
def barTrap (b : Nat) : Res := .trap (Trap.sync 11 (BitVec.ofNat 64 b))

/-- The slot's arrival counted at its leaf, which reports when the count is reached (R161, R335). -/
def State.countArrival (s : State) (b : Nat) : State :=
  let k := s.core % 16
  let x := s.bar b
  let n := x.counts.toList.getD k 0 + 1
  let tid := s.me.team
  let gen := (s.me.teamid.extractLsb' 16 16).toNat
  let s := s.upd fun sl => { sl with barRec := tset sl.barRec b (x.phase.getLsbD k) }
  if n < x.expect then
    s.modCluster s.cluster fun c => c.setBar b { x with counts := x.counts.set! k n }
  else
    (s.modCluster s.cluster fun c =>
      c.setBar b { x with counts := x.counts.set! k 0, reported := x.reported ||| (1#16 <<< k) }).post
      (.barrierRootReport tid gen (s.clusterSt s.cluster).logical b (some s.core))

/-- The arrival of BARARV and BARSYN: the checks, the release, the arrival (R161, R162, R335). -/
def State.arriveBar (s : State) (b : Nat) (safe : Bool) (k : State → Res) : Res :=
  let x := s.bar b
  let c := s.core % 16
  if !x.mask.getLsbD c || x.reported.getLsbD c || s.hasArrived b then barTrap b
  else if s.unreleased s.core x.scope || s.me.unacquired then .park safe
  else k (s.countArrival b)

/-- The wait of BARWT and BARSYN: until the leaf's phase differs from the record's; then an acquire (R162, R335). -/
def State.waitBar (s : State) (b : Nat) : Res :=
  match tfind s.me.barRec b with
  | none => barTrap b
  | some p =>
    if s.leafPhase b = p ∨ s.me.unacquired = true then
      .done (s.upd fun sl => { sl.parkRetry true with barWait := some (b, sl.pc) })
    else s.ret fun sl => { sl with barRec := tdel sl.barRec b, barWait := none }

/-- BARARV (R335). -/
def execBararv (b : BitVec 3) (s : State) : Outcome :=
  s.clusterOnly (.bararv b) fun _ => s.arriveBar b.toNat false fun s => s.ret fun sl => { sl with barWait := none }

/-- BARWT (R335). -/
def execBarwt (b : BitVec 3) (s : State) : Outcome := s.clusterOnly (.barwt b) fun _ => s.waitBar b.toNat

/-- BARSYN (R335): arrives unless it has arrived already, then waits. One that a pre-emption abandoned after its
arrival waits for the same flip when it executes again (log entry 18). -/
def execBarsyn (b : BitVec 3) (s : State) : Outcome :=
  let n := b.toNat
  s.clusterOnly (.barsyn b) fun _ =>
    if (s.me.barWait == some (n, s.me.pc) && (tfind s.me.barRec n).isSome) || s.hasArrived n then s.waitBar n
    else s.arriveBar n true fun s => s.waitBar n

/-- BARQ (R335). -/
def execBarq (rd : XReg) (b : BitVec 3) (s : State) : Outcome :=
  let n := b.toNat
  s.clusterOnly (.barq rd b) fun _ =>
    let x := s.bar n
    let v := (if s.leafPhase n then 1 else 0) + (if s.hasArrived n then 2 else 0)
      + x.counts.toList.getD (s.core % 16) 0 % 65536 * 256 + (if x.team then 2 ^ 24 else 0)
    s.ret (·.wx rd (BitVec.ofNat 64 v))

/-- A slot has a waiting BARWT or BARSYN on barrier b, parked or abandoned by a pre-emption (R335). -/
def Slot.waitsBar (sl : Slot) (b : Nat) : Bool :=
  (sl.barWait.any fun w => w.1 == b) && (tfind sl.barRec b).isSome

/-- BARINIT (R160, R335): the barrier is configured anew for the cluster; arrivals are discarded, and slots that wait
keep waiting for the new phase's flip. The cluster's reports are withdrawn, and with them a phase flip that is on its way to
it (the model's choice, log entry 98). -/
def execBarinit (b : BitVec 3) (rs1 : XReg) (s : State) : Outcome :=
  let n := b.toNat
  let w := s.me.rx rs1
  let e := (w.extractLsb' 16 5).toNat
  s.clusterOnly (.barinit b rs1) fun _ =>
    if w.extractLsb' 0 16 = 0 ∨ e = 0 ∨ 14 < e ∨ w.extractLsb' 21 3 ≠ 0 ∨ w.extractLsb' 25 39 ≠ 0 then barTrap n
    else
      let cl := s.cluster
      let tid := s.me.team
      let l := (s.clusterSt cl).logical
      let s := s.modCluster cl fun c =>
        c.setBar n { Bar.init e with team := w.getLsbD 24, mask := w.extractLsb' 0 16 }
      let s := { s with
        agenda := s.agenda.filter (fun ev => !isBarEvent tid l n ev),
        slots := s.slots.map fun (sl : Nat × Slot) =>
          if clusterOf (coreOf sl.1) ≠ cl ∨ isChan (coreOf sl.1) then sl
          else if sl.2.waitsBar n then (sl.1, { sl.2 with barRec := tset sl.2.barRec n false })
          else (sl.1, { sl.2 with barRec := tdel sl.2.barRec n }) }
      (s.evalRound tid n).ret

end Sys2Proof.Machine
end

