-- ==== Sys2Proof/Machine/Csr.lean ====
section
/-! DEFINITION. Control and status registers: the map, levels, reads, and what a write does to each (spec 01 R12, R13;
03 R55 to R59; 12 R249, R251; 20 R355 to R357). -/

namespace Sys2Proof.Machine

/-- The least level that may access a CSR number of the map; none outside it (R55). -/
def csrLevel (n : Nat) : Option Level :=
  if (0x800 ≤ n ∧ n ≤ 0x81B) ∨ (0x820 ≤ n ∧ n ≤ 0x822) ∨ n = 0x840 ∨ n = 0x841 ∨ (0xCC0 ≤ n ∧ n ≤ 0xCCC) then some .task
  else if 0x5C0 ≤ n ∧ n ≤ 0x5CE then some .kernel
  else if 0x7C0 ≤ n ∧ n ≤ 0x7C4 then some .monitor
  else none

/-- A slot at level l may access a register of level r. -/
def levelAllows (l r : Level) : Bool :=
  match r with
  | .task => true
  | .kernel => l != .task
  | .monitor => l == .monitor

/-- The read-only registers (R55). -/
def csrReadOnly (n : Nat) : Bool := decide (0xCC0 ≤ n)

/-! ### Reads -/

/-- The oldest unfinished batch, or cbatch when none is (R157). -/
def Slot.cdone (sl : Slot) : BitVec 32 := match sl.batches with | b :: _ => b.num | [] => sl.cbatch

/-- The `lease` register of a slot (R59, R190). -/
def State.leaseWord (s : State) (sid : Nat) : Word :=
  let c := s.clusterSt (clusterOf (coreOf sid))
  match c.holder with
  | none => if c.leaseWaits.contains sid then 2 else 0
  | some h => BitVec.ofNat 64 (coreOf h % 16 * 256 + c.leaseCount * 4 + (if c.leaseWaits.contains sid then 2 else 0)
      + (if h = sid then 1 else 0))

/-- PEND of `preq`: bit i - 1 for icause i (R251). -/
def State.pendBits (s : State) (sid : Nat) : Nat :=
  (List.range 6).foldl (fun a i => if (s.pendOf sid).any (fun e => e.1 == i + 1) then a + 2 ^ i else a) 0

/-- The `slotcfg` register (R251). -/
def State.slotcfg (s : State) (sid : Nat) : Word :=
  let core := coreOf sid
  let vcs := if isChan core then 0 else (s.clusterSt (clusterOf core)).vcs.toNat
  BitVec.ofNat 64 (vcs * 65536 + (s.slot sid).ien.toNat * 8 + (if (s.coreSt core).trel then 1 else 0))

/-- Entry IDX of the die maps as `dmap` shows it (R12). -/
def State.dmapWord (s : State) (sid : Nat) : Word :=
  let i := (s.slot sid).dmapIdx
  let e := s.dmap[i.toNat]
  BitVec.ofNat 64 (i.toNat * 2 ^ 60 + e.gen.toNat * 2 ^ 52 + e.pkg.toNat * 2 ^ 36
    + (if e.pkg = s.ownPkg then 0 else 2 ^ 35) + (if e.v then 2 ^ 34 else 0) + e.pdie.toNat * 2 ^ 30)

/-- A CSR's value as the slot whose turn it is reads it; numbers outside the map read 0 here and trap before. -/
def State.csrRead (s : State) (n : Nat) : Word :=
  let sl := s.me
  let sid := s.sid
  if 0x808 ≤ n ∧ n ≤ 0x80F then (sl.p.toList.getD (n - 0x808) 0).zeroExtend 64
  else if 0x810 ≤ n ∧ n ≤ 0x817 then sl.qb (n - 0x810)
  else if 0xCC6 ≤ n ∧ n ≤ 0xCC9 then (s.coreSt s.core).wptr.toList.getD (n - 0xCC6) 0
  else match n with
  | 0x800 => sl.fmt
  | 0x801 => sl.sptra
  | 0x802 => sl.sptrb
  | 0x803 => sl.rnd
  | 0x804 => sl.fflags.zeroExtend 64
  | 0x805 => sl.loopc
  | 0x806 => sl.loops
  | 0x807 => sl.loope
  | 0x818 => sl.dxe
  | 0x819 => sl.bsrd.zeroExtend 64
  | 0x81A => sl.bswr.zeroExtend 64
  | 0x81B => sl.sprio.zeroExtend 64
  | 0x820 => sl.cbatch.zeroExtend 64
  | 0x821 => sl.cdone.zeroExtend 64
  | 0x822 => if sl.ckchk then 1 else 0
  | 0x840 => sl.step
  | 0x841 => sl.leaderc
  | 0xCC0 => sl.coord
  | 0xCC1 => sl.teamid
  | 0xCC2 => sl.shape
  | 0xCC3 => BitVec.ofNat 64 s.cycle
  | 0xCC4 => BitVec.ofNat 64 s.ptp
  | 0xCC5 => s.leaseWord sid
  | 0xCCA => match s.teamOf sl with | some t => t.tflags.zeroExtend 64 | none => 0
  | 0xCCB => BitVec.ofNat 64 sl.cdlvl
  | 0xCCC => sl.errc.zeroExtend 64
  | 0x5C0 => sl.kstatus
  | 0x5C1 => sl.kcause
  | 0x5C2 => sl.kepc
  | 0x5C3 => sl.ktval
  | 0x5C4 => sl.kvec
  | 0x5C5 => sl.kscratch
  | 0x5C6 => sl.asid
  | 0x5C7 => sl.ptbase
  | 0x5C8 => sl.teamctx
  | 0x5C9 => sl.safeb
  | 0x5CA => s.slotcfg sid
  | 0x5CB => BitVec.ofNat 64 (s.pendBits sid * 2 + (if sl.preqReq then 1 else 0))
  | 0x5CC => sl.ktval2
  | 0x5CD => sl.winbase
  | 0x5CE => sl.winlen
  | 0x7C0 => sl.mstatus
  | 0x7C1 => sl.mcause
  | 0x7C2 => sl.mepc
  | 0x7C3 => sl.mvec
  | 0x7C4 => s.dmapWord sid
  | _ => 0

/-! ### Writes -/

/-- A write of fmt: a format field keeps its value for code 7, the store rounding for codes 2 and 3; bits [63:12] are
zero (R57, R59). -/
def fmtWrite (old v : Word) : Word :=
  let f := fun (lo n : Nat) (ok : Bool) => if ok then v.field lo n * 2 ^ lo else old.field lo n * 2 ^ lo
  BitVec.ofNat 64 (f 0 3 (v.field 0 3 != 7) + f 3 3 (v.field 3 3 != 7) + f 6 3 (v.field 6 3 != 7)
    + f 9 2 (decide (v.field 9 2 < 2)) + f 11 1 true)

/-- REQ of `preq` set or cleared (R251). -/
def Slot.setReq (sl : Slot) (b : Bool) : Slot := { sl with preqReq := b }

/-- IDX of `dmap` chosen (R13). -/
def Slot.setDmap (sl : Slot) (v : Word) : Slot := { sl with dmapIdx := v.extractLsb' 60 4 }

/-- A loop register written (R357). -/
def Slot.setLoop (sl : Slot) (n : Nat) (v : Word) : Slot :=
  match n with
  | 0x805 => { sl with loopc := v }
  | 0x806 => { sl with loops := v }
  | _ => { sl with loope := v }

/-- What a write does to a register held by the slot, bits outside its fields dropped (R57, R356). -/
def Slot.csrSet (sl : Slot) (n : Nat) (v : Word) : Slot :=
  if 0x808 ≤ n ∧ n ≤ 0x80F then { sl with p := sl.p.set! (n - 0x808) (v.extractLsb' 0 32) }
  else match n with
  | 0x800 => { sl with fmt := fmtWrite sl.fmt v }
  | 0x801 => { sl with sptra := v }
  | 0x802 => { sl with sptrb := v }
  | 0x803 => { sl with rnd := v &&& 3 }
  | 0x804 => { sl with fflags := v.extractLsb' 0 6 }
  | 0x805 | 0x806 | 0x807 => sl.setLoop n v
  | 0x818 => { sl with dxe := v }
  | 0x819 => { sl with bsrd := v.extractLsb' 0 20 }
  | 0x81A => { sl with bswr := v.extractLsb' 0 20 }
  | 0x81B => { sl with sprio := v.extractLsb' 0 2 }
  | 0x822 => { sl with ckchk := v.getLsbD 0 }
  | 0x840 => { sl with step := v }
  | 0x841 => { sl with leaderc := v &&& 15 }
  | 0x5C0 => { sl with kstatus := v &&& 15 }
  | 0x5C1 => { sl with kcause := v &&& 0x800000000000001F }
  | 0x5C2 => { sl with kepc := v &&& ~~~3 }
  | 0x5C3 => { sl with ktval := v }
  | 0x5C4 => { sl with kvec := v &&& ~~~0xFFF }
  | 0x5C5 => { sl with kscratch := v }
  | 0x5C6 => { sl with asid := v &&& 0xFFFF }
  | 0x5C7 => { sl with ptbase := v }
  | 0x5C8 => { sl with teamctx := v }
  | 0x5C9 => { sl with safeb := v &&& 0xFFFFFFFF }
  | 0x5CA => { sl with ien := v.extractLsb' 3 6 }
  | 0x5CB => sl.setReq (v.getLsbD 0)
  | 0x5CC => { sl with ktval2 := v }
  | 0x5CD => { sl with winbase := v }
  | 0x5CE => { sl with winlen := v }
  | 0x7C0 => { sl with mstatus := v &&& 15 }
  | 0x7C1 => { sl with mcause := v &&& 0x800000000000001F }
  | 0x7C2 => { sl with mepc := v &&& ~~~3 }
  | 0x7C3 => { sl with mvec := v &&& ~~~0xFFF }
  | 0x7C4 => sl.setDmap v
  | _ => sl

/-- A write of cbatch or cdone: both, and only when no sealed batch is unfinished (R58). -/
def State.batchWrite (s : State) (v : Word) (f : Slot → Slot := id) : Res :=
  let sl := s.me
  if sl.batches = [] then s.ret fun sl => f { sl with cbatch := v.extractLsb' 0 32 }
  else .trap (Trap.sync 11 ((sl.cbatch - sl.cdone).zeroExtend 64))

/-- A write of any writable CSR by the slot whose turn it is; `i` is the instruction, f what else it does to the slot. -/
def State.csrWrite (s : State) (i : Instr) (n : Nat) (v : Word) (f : Slot → Slot := id) : Res :=
  if n = 0x820 ∨ n = 0x821 then s.batchWrite v f
  else if 0x810 ≤ n ∧ n ≤ 0x817 then s.bindQueue i (n - 0x810) v f
  else s.ret fun sl => f (sl.csrSet n v)

/-- A CSR instruction: the checks of R56, the old value, and the write when there is one (R355). -/
def State.csrOp (s : State) (i : Instr) (rd : XReg) (csr : BitVec 12) (writes : Bool) (new : Word → Word) : Outcome :=
  let n := csr.toNat
  s.finish (match csrLevel n with
    | none => illegalI i
    | some l =>
      if !levelAllows s.me.level l || (writes && csrReadOnly n) then illegalI i
      else
        let t := s.csrRead n
        if writes then s.csrWrite i n (new t) (·.wx rd t) else s.ret (·.wx rd t))

/-- CSRRW (R355). -/
def execCsrrw (rd : XReg) (csr : BitVec 12) (rs1 : XReg) (s : State) : Outcome :=
  s.csrOp (.csrrw rd csr rs1) rd csr true fun _ => s.me.rx rs1
/-- CSRRS (R355). -/
def execCsrrs (rd : XReg) (csr : BitVec 12) (rs1 : XReg) (s : State) : Outcome :=
  s.csrOp (.csrrs rd csr rs1) rd csr (rs1 != 0) fun t => t ||| s.me.rx rs1
/-- CSRRC (R355). -/
def execCsrrc (rd : XReg) (csr : BitVec 12) (rs1 : XReg) (s : State) : Outcome :=
  s.csrOp (.csrrc rd csr rs1) rd csr (rs1 != 0) fun t => t &&& ~~~ s.me.rx rs1
/-- CSRRWI (R355). -/
def execCsrrwi (rd : XReg) (csr : BitVec 12) (u : BitVec 5) (s : State) : Outcome :=
  s.csrOp (.csrrwi rd csr u) rd csr true fun _ => u.zeroExtend 64
/-- CSRRSI (R355). -/
def execCsrrsi (rd : XReg) (csr : BitVec 12) (u : BitVec 5) (s : State) : Outcome :=
  s.csrOp (.csrrsi rd csr u) rd csr (u != 0) fun t => t ||| u.zeroExtend 64
/-- CSRRCI (R355). -/
def execCsrrci (rd : XReg) (csr : BitVec 12) (u : BitVec 5) (s : State) : Outcome :=
  s.csrOp (.csrrci rd csr u) rd csr (u != 0) fun t => t &&& ~~~ (u.zeroExtend 64)

/-- A CSR number that the slot whose turn it is may write. -/
def State.csrWritable (s : State) (n : Nat) : Bool :=
  !csrReadOnly n && (match csrLevel n with | some l => levelAllows s.me.level l | none => false)

/-- CBATCH_CDONE_WRITE (R58): the write of cbatch or cdone by the slot whose turn it is. -/
def execCbatchCdoneWrite (v : Word) (s : State) : Outcome := s.finish (s.batchWrite v)

/-- PREQ_WRITE (R251): REQ of a slot is set or cleared; PEND is not writable. -/
def execPreqWrite (sid : Nat) (v : Word) (s : State) : Outcome := .next (s.modSlot sid (·.setReq (v.getLsbD 0)))

/-- DMAP_WRITE (R13): IDX of the slot whose turn it is; no trap. -/
def execDmapWrite (v : Word) (s : State) : Outcome := s.finish (s.ret (·.setDmap v))

/-- LOOP_REGISTER_WRITE (R357): the write is performed before the end-of-body check of the retiring instruction. -/
def execLoopRegisterWrite (csr : BitVec 12) (v : Word) (s : State) : Outcome := s.finish (s.ret (·.setLoop csr.toNat v))

/-- CSR_WRITE (R56, R57): a legal write by the slot whose turn it is; a register that it may not write stays. -/
def execCsrWrite (csr : BitVec 12) (v : Word) (s : State) : Outcome :=
  if s.csrWritable csr.toNat then s.finish (s.csrWrite (.csrrw 0 csr 0) csr.toNat v) else .next s

end Sys2Proof.Machine
end

