-- ==== Sys2Proof/Machine/Tiles.lean ====
section
/-! DEFINITION. Operands of tile commands: elements of A tiles, B tiles, resident vectors and accumulators with their
poison, and what one bank row of each array command becomes (spec 05 R100 to R105, R115 to R118; 09 R195 to R201, R206;
22 R394 to R406). -/

namespace Sys2Proof.Machine

/-! ### Elements (R100 to R105, R389) -/

/-- An element: its value, and whether it comes from a poisoned word. -/
abbrev Elem := Num × Bool

/-- What a poisoned element reads as: 0 for INT8, a NaN otherwise (R389). -/
def poisonElem (code : Nat) : Elem := (if code = 6 then .fin false 0 0 else .nan false, true)

/-- Indexes of the poisoned 8-byte words in n bytes at an address. -/
def State.badIdx (s : State) (pa n : Nat) : List Nat := (List.range ((n + 7) / 8)).filter fun k => s.bad (pa / 8 + k)

/-- Bits [lo, hi) meet a listed word. -/
def bitsBad (bad : List Nat) (lo hi : Nat) : Bool := bad.any fun k => decide (64 * k < hi ∧ lo < 64 * k + 64)

/-- Element e of packed data given as a number: elements follow each other bit by bit in every format (R103). -/
def packed (data bits e : Nat) : Nat := data / 2 ^ (bits * e) % 2 ^ bits

/-- Element e of data of a format; `x` gives E0, E1 and their poison for a DX format. -/
def elemOf (code data : Nat) (bad : List Nat) (e : Nat) (x : Nat × Nat × Bool) : Elem :=
  let w := elemBits code
  if bitsBad bad (w * e) (w * e + w) || (isDx code && x.2.2) then poisonElem code
  else if isDx code then (decodeDx code x.1 x.2.1 (packed data w e), false)
  else (decodeElem code (packed data w e), false)

/-- E0 and E1 at an offset of exponent data given as a number. -/
def expOf (data : Nat) (bad : List Nat) (off : Nat) : Nat × Nat × Bool :=
  (data / 2 ^ (8 * off) % 256, data / 2 ^ (8 * off + 8) % 256, bitsBad bad (8 * off) (8 * off + 16))

/-! ### Format fields (R59) -/

def fmtA (f : Word) : Nat := f.field 0 3
def fmtB (f : Word) : Nat := f.field 3 3
def fmtS (f : Word) : Nat := f.field 6 3
def fmtSrnd (f : Word) : Nat := f.field 9 2
def fmtScale (f : Word) : Bool := f.getLsbD 11

/-- The occupancy of a format (R202). -/
def occ : Nat → Nat
  | 0 => 256 | 1 | 2 => 64 | 5 => 16 | _ => 32

/-- The row stride in bytes: 64 times the field, or the packed row size (R195, R201). -/
def stride (f : BitVec 7) (rowBytes : Nat) : Nat := if f = 0 then rowBytes else f.toNat * 64

/-! ### Operands in place -/

/-- The context of a command's accesses. -/
def State.cmdCtx (s : State) (c : Cmd) : Ctx :=
  { sid := c.sid, core := coreOf c.sid, level := c.level, asid := c.asid, ptb := c.ptb, team := (s.slot c.sid).team,
    thread := false }

/-- The physical address of an array-local operand, which ENQ has checked (R386). -/
def State.localPa (s : State) (c : Cmd) (va : Word) : Nat := (s.window (s.cmdCtx c) va.toNat 1).getD 0

/-- A 57-bit address as a word. -/
def va57 (a : BitVec 57) : Word := a.zeroExtend 64

/-- One row of 64 elements of an A operand: planar data at an address, exponents at 4 bytes a row (R195). -/
def State.aRow (s : State) (c : Cmd) (a : BitVec 57) (st : BitVec 7) (xexp : BitVec 17) (i : Nat) : List Elem :=
  let code := fmtA c.fmt
  let rb := elemBytes code 64
  let pa := s.localPa c (va57 a) + i * stride st rb
  let data := s.rd pa rb
  let bad := s.badIdx pa rb
  let xp := lsPa (coreOf c.sid) + xexp.toNat + 4 * i
  let xd := s.rd (xp / 8 * 8) 8 / 2 ^ (8 * (xp % 8))
  let xbad := if s.bad (xp / 8) then [0] else []
  (List.range 64).map fun k => elemOf code data bad k (expOf xd xbad (2 * (k / 32)))

/-- Kept elements per group of four in a stored form: 4, 2 or 1 (R196). -/
def keptOf (form : Nat) : Nat := match form with | 0 => 4 | 1 => 2 | _ => 1

/-- Element, index and total bytes of a stored B tile (R196). -/
def bElemBytes (code form : Nat) : Nat := elemBytes code (1024 * keptOf form)
def bIndexBytes (form : Nat) : Nat := if form = 0 then 0 else 256 * keptOf form
def bStored (code form : Nat) : Nat := bElemBytes code form + bIndexBytes form + (if isDx code then 256 else 0)

/-- Element (k, j) of a B tile stored as bytes given as a number with their poisoned words (R196, R404). -/
def bElem (code form data : Nat) (bad : List Nat) (k j : Nat) : Elem :=
  let kept := keptOf form
  let eb := bElemBytes code form
  let seq := fun (r : Nat) =>
    let rho := k / 4 * kept + r
    if isDx code then j * 16 * kept + rho else rho * 64 + j
  let posOf := fun (r : Nat) => data / 2 ^ (8 * (eb + seq r / 4) + 2 * (seq r % 4)) % 4
  let idxBad := form != 0 && (List.range kept).any fun r => bitsBad bad (8 * (eb + seq r / 4)) (8 * (eb + seq r / 4) + 8)
  let x := expOf data bad (eb + bIndexBytes form + 4 * j + 2 * (k / 32))
  let pick := if form = 0 then some (k % 4) else ((List.range kept).reverse.find? fun r => posOf r == k % 4)
  if idxBad then poisonElem code
  else match pick with
    | some r => elemOf code data bad (seq r) x
    | none => (.fin false 0 0, false)

/-- The element of a resident vector (R394). -/
def State.resElem (s : State) (cl v k : Nat) : Elem :=
  let pa := resPa cl v k
  if s.bad (pa / 8) then (.nan false, true) else (decodeF fp32 (s.rd pa 4), false)

/-- The FP32 pattern of a value that FP32 holds exactly, NaNs kept as quiet or signalling. -/
def exact32 (v : Num) : Nat :=
  match v with
  | .nan true => 0x7FA00000
  | v => (roundTo fp32 0 v).1

/-! ### Accumulators (R99, R203, R206) -/

/-- A word with its poison, as buffers hold it. -/
def accEnc (v : Nat) (bad : Bool) : Nat := v + (if bad then 2 ^ 64 else 0)
def accVal (e : Nat) : Nat := e % 2 ^ 64
def accBad (e : Nat) : Bool := decide (2 ^ 64 ≤ e)

/-- An accumulator parity error met in cycle t is attributed to the domain that the writer's slot had open at its ENQ, named by
its serial number: its abort begins if it is still open (R206). Answers whether it is. -/
def State.blameParity (s : State) (sid serial t : Nat) : Bool × State :=
  if domDepth (s.slot sid).doms serial = 0 then (false, s) else (true, s.abortDomAt sid serial 1 t)

/-- One bank row read in cycle t: values, the state after attribution of parity errors, PAR where a parity error is
treated as poison, and whether a word was poisoned (R206, R389). -/
def State.readAcc (s : State) (cl bank row t : Nat) : List Nat × State × Bool × Bool :=
  let words := (List.range 64).map fun j => accPa cl bank row j
  let par := words.any fun pa => s.badPar.contains (pa / 8)
  let (inDom, s) := if par then
      match tfind (s.clusterSt cl).writers (bank * 64 + row) with
      | some (sid, serial) => s.blameParity sid serial t
      | none => (false, s)
    else (false, s)
  let vals := words.map fun pa =>
    let bad := s.bad (pa / 8) || (s.badPar.contains (pa / 8) && !inDom)
    accEnc (if bad then canonNaN fa56 else s.rd pa 8) bad
  (vals, s, par && !inDom, vals.any accBad)

/-- One word of a bank written with good parity. -/
def State.writeAccWord (s : State) (pa e : Nat) : State :=
  { (s.wr pa 8 (accVal e)).setBad (pa / 8) (accBad e) with badPar := mark s.badPar (pa / 8) false }

/-- One bank row written by a command of a slot and domain (R203): `old`, the writer of the row earlier in the same
cycle, may stand word by word (log entry 5). -/
def State.writeAcc (s : State) (c : Cmd) (cl bank row : Nat) (vals : List Nat) (clash : Bool) : State :=
  let n := s.free
  let s := if clash then { s with free := n + 64 } else s
  let s := vals.zipIdx.foldl (fun s e =>
    if clash && Config.firstWriteStands (n + e.2) then s else s.writeAccWord (accPa cl bank row e.2) e.1) s
  s.modCluster cl fun k => { k with writers := tset k.writers (bank * 64 + row) (c.sid, c.dom) }

/-! ### Sums (R198 to R200) -/

/-- Products of a row and a column in groups of 32. -/
def groupsOf (a b : List Elem) : List (List (Num × Num)) :=
  let ps := (a.zip b).map fun p => (p.1.1, p.2.1)
  [ps.take 32, ps.drop 32]

/-- One output element: accumulator, row and column. -/
def dotElem (r32 : Bool) (acc : Nat) (a b : List Elem) : Nat × BitVec 6 :=
  let (v, f) := accSum r32 (accVal acc) (groupsOf a b)
  (accEnc v (accBad acc || a.any (·.2) || b.any (·.2)), f)

/-- One output row: the accumulators, the row of A, the columns of B. -/
def dotRow (r32 : Bool) (acc : List Nat) (a : List Elem) (cols : List (List Elem)) : List Nat × BitVec 6 :=
  let rs := (acc.zip cols).map fun p => dotElem r32 p.1 a p.2
  (rs.map (·.1), rs.foldl (fun f r => f ||| r.2) 0)

/-- An element 1 or 0 of a constant matrix (R199). -/
def constElem (b : Bool) : Elem := (.fin false (if b then 1 else 0) 0, false)

/-- The columns of the identity. -/
def idCols : List (List Elem) := (List.range 64).map fun j => (List.range 64).map fun k => constElem (k == j)
/-- The columns of G for a segment exponent (R199). -/
def segCols (g : Nat) : List (List Elem) := (List.range 64).map fun c => (List.range 64).map fun k => constElem (k / 2 ^ g == c)

/-- A zero accumulator row. -/
def zeroRow : List Nat := List.replicate 64 0

/-- The columns of a B tile in the weight buffer. -/
def State.wbCols (s : State) (cl code form off : Nat) : List (List Elem) :=
  let pa := weightPa cl + off
  let n := bStored code form
  let data := s.rd pa n
  let bad := s.badIdx pa n
  (List.range 64).map fun j => (List.range 64).map fun k => bElem code form data bad k j

/-- The poisoned operand that a row meets first: 1 the first source, then the second as `op2` names it, 4 the
accumulator. -/
def poisonName (aBad bBad accBad' : Bool) (op2 : Nat) : Nat := if aBad then 1 else if bBad then op2 else if accBad' then 4 else 0

/-- What a row of a multiplier command becomes: values, flags, and the operand whose poison it met. `acc` is the row
as read, zero where the command does not accumulate. -/
def State.mulRow (s : State) (cl : Nat) (c : Cmd) (i : Nat) (acc : List Nat) : List Nat × BitVec 6 × Nat :=
  let r32 := fmtA c.fmt == 0 && fmtB c.fmt == 0
  let fin := fun (r : List Nat × BitVec 6) (a : List Elem) (cols : List (List Elem)) (op2 : Nat) =>
    (r.1, r.2, poisonName (a.any (·.2)) (cols.any fun l => l.any (·.2)) (acc.any accBad) op2)
  match c.ins with
  | .mma _ _ _ bform xexp a st1 woff =>
    let row := s.aRow c a st1 xexp i
    let cols := s.wbCols cl (fmtB c.fmt) bform.toNat woff.toNat
    fin (dotRow r32 acc row cols) row cols 3
  | .mtrn _ _ xexp a st1 =>
    let rows := (List.range 64).map fun j => s.aRow c a st1 xexp j
    let col := (List.range 64).map fun k => constElem (k == i)
    let rs := rows.map fun r => dotElem false 0 r col
    (rs.map (·.1), rs.foldl (fun f r => f ||| r.2) 0, if rows.any (fun r => r.any (·.2)) then 1 else 0)
  | .mperm _ _ _ xexp a st1 _ =>
    let (x, bad) := c.vec.getD i (0, false)
    let row := s.aRow c a st1 xexp x
    let row := if bad then row.map fun _ => poisonElem (fmtA c.fmt) else row
    let r := dotRow false acc row idCols
    (r.1, r.2, if bad then 2 else poisonName (row.any (·.2)) false (acc.any accBad) 2)
  | .mrsum _ _ _ seg xexp a st1 =>
    let row := s.aRow c a st1 xexp i
    fin (dotRow false acc row (segCols seg.toNat)) row [] 2
  | .mvb _ _ _ _ _ =>
    let row := (List.range 64).map fun k => s.resElem cl i k
    let code := fmtB c.fmt
    let t := c.buf.headD []
    let data := t.headD 0
    let bad := t.drop 1
    let cols := (List.range 64).map fun j => (List.range 64).map fun k => bElem code 0 data bad k j
    fin (dotRow r32 acc row cols) row cols 2
  | _ => (acc, 0, 0)

/-! ### Stored rows (R118, R201, R400) -/

/-- The bits of a stored value in a format that is not DX. -/
def storeElem (code mode : Nat) (v : Num) : Nat × BitVec 6 :=
  if code = 6 then let (i, f) := toInt (-128) 127 mode v; (ofInt 8 i, f) else roundTo (codeFmt code) mode v

/-- Packed elements as a number. -/
def packAll (bits : Nat) : List Nat → Nat
  | [] => 0
  | e :: r => e % 2 ^ bits + 2 ^ bits * packAll bits r

/-- A stored row: its bytes as a number, four exponent bytes as a number, its stored values, flags. -/
structure StoredRow where
  data  : Nat
  exps  : Nat
  vals  : List Num
  flags : BitVec 6
deriving DecidableEq, Repr

/-- 64 values stored in a format (R118, R400). -/
def storeRow (code mode : Nat) (vs : List Num) : StoredRow :=
  if isDx code then
    let (a0, a1, ea, fa) := quantise code (vs.take 32)
    let (b0, b1, eb, fb) := quantise code (vs.drop 32)
    { data := packAll (elemBits code) (ea ++ eb), exps := a0 + 256 * a1 + 65536 * b0 + 2 ^ 24 * b1,
      vals := ea.map (decodeDx code a0 a1) ++ eb.map (decodeDx code b0 b1), flags := fa ||| fb }
  else
    let rs := vs.map (storeElem code mode)
    { data := packAll (elemBits code) (rs.map (·.1)), exps := 0, vals := rs.map fun r => decodeElem code r.1,
      flags := rs.foldl (fun f r => f ||| r.2) 0 }

/-- The largest magnitude of stored values in FP32: a NaN stands, zero when all are zero (R400). -/
def foldMag (m : Nat) (vs : List Num) : Nat :=
  vs.foldl (fun m v => (amFmax m (roundTo fp32 0 v.abs).1).1) m

/-- A row of a bank as MSTC scales it: the values, flags, and the poison of the scales (R118). -/
def State.scaleRow (s : State) (c : Cmd) (i : Nat) (row : List Nat) : List Num × BitVec 6 × Nat :=
  if fmtScale c.fmt then
    let ls := lsPa (coreOf c.sid)
    let pa := ls + c.sptra.toNat + 4 * i
    let sa : Elem := if s.bad (pa / 8) then (.nan false, true) else (decodeF fp32 (s.rd pa 4), false)
    let rs := row.zipIdx.map fun e =>
      let pb := ls + c.sptrb.toNat + 4 * e.2
      let sb : Elem := if s.bad (pb / 8) then (.nan false, true) else (decodeF fp32 (s.rd pb 4), false)
      let (k, f1) := finishF fp32 0 (numMul sa.1 sb.1)
      let (t, f2) := finishF fa56 0 (numMul (decodeF fp32 k) (decodeF fa56 (accVal e.1)))
      (decodeF fa56 t, f1 ||| f2, if sa.2 then 1 else if sb.2 then 2 else 0)
    (rs.map (·.1), rs.foldl (fun f r => f ||| r.2.1) 0, (rs.map (·.2.2)).foldl (fun a b => if a = 0 then b else a) 0)
  else (row.map fun e => decodeF fa56 (accVal e), 0, 0)

/-- The store format and rounding of an MSTC. -/
def mstcCode (c : Cmd) : Nat := match c.ins with
  | .mstc _ _ _ ovr sfmt _ _ _ => if ovr then sfmt.toNat else fmtS c.fmt
  | _ => 0

end Sys2Proof.Machine
end

