-- ==== Sys2Proof/Machine/Spectral.lean ====
section
/-! DEFINITION. Spectral tiles: headers and their checks, the transforms, STAG, and the sums of SCMM, as functions of the
tiles' words (spec 10 R209 to R220). -/

namespace Sys2Proof

/-! ### Shapes and headers (R211, R215, R429) -/

/-- log2 of the block size. -/
def Shape.lg (p : Shape) : Nat := p.lb.toNat + 4
/-- The block size b. -/
def Shape.b (p : Shape) : Nat := 2 ^ p.lg
/-- Blocks per vector of the input. -/
def Shape.nb (p : Shape) : Nat := p.nb1.toNat + 1
/-- Vectors. -/
def Shape.nv (p : Shape) : Nat := p.nv1.toNat + 1
/-- Output blocks of SCMM. -/
def Shape.np (p : Shape) : Nat := p.p1.toNat + 1
/-- Data bytes of a tile of n blocks per vector (R212). -/
def Shape.bytes (p : Shape) (n : Nat) : Nat := n * p.nv * p.b * 2

end Sys2Proof

namespace Sys2Proof.Machine

/-- A tile's block exponent, bytes 4 to 7 of its header. -/
def hdrE (h : Nat) : Int := toSigned 32 (h / 2 ^ 32 % 2 ^ 32)

/-- The range of a block exponent (R211). -/
def eOk (e : Int) : Bool := decide (-65536 ≤ e ∧ e ≤ 65535)

/-- A malformed header (R211). -/
def hdrMalformed (h : Nat) : Bool :=
  let lgb := h / 2 ^ 8 % 256
  let nb := h / 2 ^ 16 % 256
  let nv := h / 2 ^ 24 % 256
  !decide (4 ≤ lgb ∧ lgb ≤ 6) || !decide (1 ≤ nb ∧ nb ≤ 32) || !decide (1 ≤ nv ∧ nv ≤ 32) || !eOk (hdrE h)
    || h % 256 / 4 != 0 || h / 2 ^ 64 % 2 ^ 448 != 0

/-- A header's 64 bytes as a number. -/
def hdrOf (tag lgb nb nv : Nat) (e : Int) : Nat :=
  tag + 2 ^ 8 * lgb + 2 ^ 16 * nb + 2 ^ 24 * nv + 2 ^ 32 * ofInt 32 e

/-- The checks of one header (R215): what they find. -/
inductive HdrRes where
  | ok
  | poison
  | mismatch (detail : Nat)
deriving DecidableEq, Repr

/-- The checks of a header in order: poison first, then form, tag, and LOG2B, NB and NV where they are given. `second`
is bit 4 of DETAIL. -/
def hdrCheck (h : Nat) (bad : Bool) (tag : Nat) (dims : Option (Nat × Nat × Nat)) (second : Bool) : HdrRes :=
  let found := h % 4
  let det := fun (f : Nat) => HdrRes.mismatch (f + 4 * tag + (if second then 16 else 0))
  if bad || found == 3 then .poison
  else if hdrMalformed h then det 3
  else if found ≠ tag then det found
  else match dims with
    | some (l, a, b) => if h / 2 ^ 8 % 256 = l ∧ h / 2 ^ 16 % 256 = a ∧ h / 2 ^ 24 % 256 = b then .ok else det found
    | none => .ok

/-! ### Elements of a tile -/

/-- The BF16 element at a byte offset of data given as a number with its poisoned words. -/
def bfAt (dat : Nat) (bad : List Nat) (o : Nat) : Elem :=
  if bad.contains (o / 8) then (.nan false, true) else (decodeF bf16 (dat / 2 ^ (8 * o) % 65536), false)

/-- Offset of element t of block p of vector n in a spatial tile's data (R212). -/
def spatialOff (d : Shape) (n p t : Nat) : Nat := ((n * d.nb + p) * d.b + t) * 2
/-- Offset of pair h of block p of vector n in a frequency tile's data with nb blocks (R212). -/
def freqOff (nb nv h p n : Nat) : Nat := ((h * nb + p) * nv + n) * 4

/-- A value rounded to BF16, with NV for a signalling NaN (R110). -/
def cvtBf (x : Num) : Nat × BitVec 6 :=
  let (b, f) := roundTo bf16 0 x
  (b, f ||| fIf x.isSNaN fNV)

/-- A value times 2^k. -/
def Num.scale (x : Num) (k : Int) : Num := match x with | .fin n m e => .fin n m (e + k) | x => x

/-! ### Transforms (R216) -/

/-- round_fp32_rne(cos(2π j / 64)) for j = 0 to 16. -/
def cosTable : List Nat :=
  [0x3f800000, 0x3f7ec46d, 0x3f7b14be, 0x3f74fa0b, 0x3f6c835e, 0x3f61c598, 0x3f54db31, 0x3f45e403, 0x3f3504f3,
   0x3f226799, 0x3f0e39da, 0x3ef15aea, 0x3ec3ef15, 0x3e94a031, 0x3e47c5c2, 0x3dc8bd36, 0]

/-- The twiddle cosine for j sixty-fourths of a turn, j ≤ 32. -/
def twCos (j : Nat) : Num :=
  if j ≤ 16 then decodeF fp32 (cosTable.getD j 0) else (decodeF fp32 (cosTable.getD (32 - j) 0)).negate
/-- The twiddle sine for j sixty-fourths of a turn, j ≤ 32. -/
def twSin (j : Nat) : Num := decodeF fp32 (cosTable.getD (if j ≤ 16 then 16 - j else j - 16) 0)

/-- A complex value in the internal format. -/
abbrev Cpx := Num × Num

/-- An exact value with flags rounded once to FP32. -/
def rne32 (x : Num × BitVec 6) : Num × BitVec 6 :=
  let (b, f) := finishF fp32 0 x
  (decodeF fp32 b, f)

/-- One output of a butterfly: u plus or minus the twiddled z; `inv` reverses the twiddle's sign. -/
def butterfly (inv minus : Bool) (j : Nat) (u z : Cpx) : Cpx × BitVec 6 :=
  let c := twCos j
  let d := if inv then (twSin j).negate else twSin j
  let sum := fun (a b : Num × BitVec 6) => let (r, f) := numAdd 0 a.1 b.1; (r, f ||| a.2 ||| b.2)
  let neg := fun (a : Num × BitVec 6) => (a.1.negate, a.2)
  let tr := sum (numMul c z.1) (numMul d z.2)
  let ti := sum (numMul c z.2) (neg (numMul d z.1))
  let sg := fun (a : Num × BitVec 6) => if minus then neg a else a
  let re := rne32 (sum (u.1, 0) (sg tr))
  let im := rne32 (sum (u.2, 0) (sg ti))
  ((re.1, im.1), re.2 ||| im.2)

/-- One stage with butterflies of span m. -/
def fftStage (inv : Bool) (m : Nat) (a : List Cpx) : List Cpx × BitVec 6 :=
  let z : Cpx := (.fin false 0 0, .fin false 0 0)
  let r := (List.range a.length).map fun p =>
    let j := p % m
    let h := m / 2
    if j < h then butterfly inv false (j * (64 / m)) (a.getD p z) (a.getD (p + h) z)
    else butterfly inv true ((j - h) * (64 / m)) (a.getD (p - h) z) (a.getD p z)
  (r.map (·.1), r.foldl (fun f x => f ||| x.2) 0)

/-- The stages with spans 2 to 2^n. -/
def fftStages (inv : Bool) (a : List Cpx) : Nat → List Cpx × BitVec 6
  | 0 => (a, 0)
  | n + 1 =>
    let (a, f) := fftStages inv a n
    let (a, g) := fftStage inv (2 ^ (n + 1)) a
    (a, f ||| g)

/-- t with its low n bits reversed. -/
def bitrev : Nat → Nat → Nat
  | 0, _ => 0
  | n + 1, t => t % 2 * 2 ^ n + bitrev n (t / 2)

/-- The loop of R216 on the values of one block, given in natural order. -/
def fft (inv : Bool) (lg : Nat) (v : List Cpx) : List Cpx × BitVec 6 :=
  let z : Cpx := (.fin false 0 0, .fin false 0 0)
  fftStages inv ((List.range (2 ^ lg)).map fun t => v.getD (bitrev lg t) z) lg

/-- The b packed values of a spectrum (R210). -/
def packSpec (b : Nat) (a : List Cpx) : List Num :=
  let z : Cpx := (.fin false 0 0, .fin false 0 0)
  [(a.getD 0 z).1, (a.getD (b / 2) z).1]
    ++ ((List.range (b / 2)).drop 1).flatMap fun h => [(a.getD h z).1, (a.getD h z).2]

/-- The full spectrum of packed values: the conjugate above b/2, imaginary parts of bins 0 and b/2 +0 (R216). -/
def unpackSpec (b : Nat) (x : List Num) : List Cpx :=
  let z : Num := .fin false 0 0
  (List.range b).map fun f =>
    if f = 0 then (x.getD 0 z, z)
    else if f = b / 2 then (x.getD 1 z, z)
    else if f < b / 2 then (x.getD (2 * f) z, x.getD (2 * f + 1) z)
    else (x.getD (2 * (b - f)) z, (x.getD (2 * (b - f) + 1) z).negate)

/-- What a transform-unit command writes: data elements in memory order with their poison, exponent, flags, whether an
input element was poisoned. -/
structure SpecOut where
  data  : List (Nat × Bool)
  e     : Int
  flags : BitVec 6
  bad   : Bool
deriving DecidableEq, Repr

/-- ⌊log2 M⌋ of the largest finite magnitude, 0 when it is 0 (R217). -/
def topExp (l : List Num) : Int :=
  (l.foldl (fun (a : Option Int) x => match x with
    | .fin _ m e => if m = 0 then a else some (match a with
        | some k => max k ((Nat.log2 m : Int) + e)
        | none => (Nat.log2 m : Int) + e)
    | _ => a) none).getD 0

/-- SFFT or SIFFT of a tile's data with exponent e and tag (R216, R217). -/
def transform (inv : Bool) (d : Shape) (tag : Nat) (e : Int) (dat : Nat) (bad : List Nat) : SpecOut :=
  let b := d.b
  let z : Num := .fin false 0 0
  let blocks : List (List (List Num × BitVec 6 × Bool)) := (List.range d.nv).map fun n => (List.range d.nb).map fun p =>
    let ins : List Elem := if inv then (List.range (b / 2)).flatMap fun h =>
        let o := freqOff d.nb d.nv h p n
        [bfAt dat bad o, bfAt dat bad (o + 2)]
      else (List.range b).map fun t => bfAt dat bad (spatialOff d n p t)
    let vs := ins.map (·.1)
    let (a, f) := fft inv d.lg (if inv then unpackSpec b vs else vs.map fun v => (v, z))
    let y := if inv then a.map (·.1) else packSpec b a
    (y, f, ins.any (·.2))
  let ys := blocks.flatMap fun l => l.flatMap (·.1)
  let k := topExp ys
  let stored : List (List (List (Nat × Bool) × BitVec 6)) := blocks.map fun l => l.map fun r =>
    let c := r.1.map fun (y : Num) => cvtBf (Num.scale y (-k))
    (c.map fun x => (x.1, r.2.2), c.foldl (fun f x => f ||| x.2) r.2.1)
  let at' := fun (n p t : Nat) => (((stored.getD n []).getD p ([], 0)).1).getD t (0, false)
  let data := if inv then (List.range d.nv).flatMap fun n => (List.range d.nb).flatMap fun p => (List.range b).map fun t => at' n p t
    else (List.range (b / 2)).flatMap fun h => (List.range d.nb).flatMap fun p => (List.range d.nv).flatMap fun n =>
      [at' n p (2 * h), at' n p (2 * h + 1)]
  { data := data, e := e + k - (if inv && tag == 1 then (d.lg : Int) else 0),
    flags := stored.foldl (fun f l => l.foldl (fun f r => f ||| r.2) f) 0,
    bad := blocks.any fun l => l.any fun r => r.2.2 }

/-! ### STAG (R218) -/

/-- STAG modes 0 and 1: every element times 2^(E - e'). -/
def restage (d : Shape) (e e' : Int) (dat : Nat) (bad : List Nat) : SpecOut :=
  let rs := (List.range (d.nb * d.nv * d.b)).map fun i =>
    let x := bfAt dat bad (2 * i)
    (cvtBf (Num.scale x.1 (e - e')), x.2)
  { data := rs.map fun r => (r.1.1, r.2), e := e', flags := rs.foldl (fun f r => f ||| r.1.2) 0, bad := rs.any (·.2) }

/-- STAG mode 2: the data unchanged, E adjusted by log2 b (R213, R218); poisoned elements read as R389 gives. -/
def retag (d : Shape) (din : Nat) (e : Int) (dat : Nat) (bad : List Nat) : SpecOut :=
  let rs := (List.range (d.nb * d.nv * d.b)).map fun i =>
    if bad.contains (2 * i / 8) then (canonNaN bf16, true) else (dat / 2 ^ (16 * i) % 65536, false)
  { data := rs, e := if din = 1 then e - d.lg else e + d.lg, flags := 0, bad := rs.any (·.2) }

/-! ### SCMM (R220, R221) -/

/-- The two sums of pair h, block p, vector n: accumulator values, flags, the operand whose poison was met. -/
def scmmPair (d : Shape) (dat : Nat) (bad : List Nat) (wdat : Nat) (wbad : List Nat) (h p n : Nat) :
    Nat × Nat × BitVec 6 × Nat :=
  let q := (List.range d.nb).map fun q =>
    let xo := freqOff d.nb d.nv h q n
    let wo := freqOff d.np d.nb h p q
    (bfAt wdat wbad wo, bfAt wdat wbad (wo + 2), bfAt dat bad xo, bfAt dat bad (xo + 2))
  let g := fun (f : Elem × Elem × Elem × Elem → Num × Num) => q.map f
  let xBad := q.any fun t => t.2.2.1.2 || t.2.2.2.2
  let wBad := q.any fun t => t.1.2 || t.2.1.2
  let rr := g fun t => (t.1.1, t.2.2.1.1)
  let ii := g fun t => (t.2.1.1, t.2.2.2.1)
  let nii := g fun t => (t.2.1.1.negate, t.2.2.2.1)
  let ri := g fun t => (t.1.1, t.2.2.2.1)
  let ir := g fun t => (t.2.1.1, t.2.2.1.1)
  let (re, f1) := if h = 0 then accSum false 0 [rr] else accSum false 0 [rr, nii]
  let (im, f2) := if h = 0 then accSum false 0 [ii] else accSum false 0 [ri, ir]
  let b := xBad || wBad
  (accEnc re b, accEnc im b, f1 ||| f2, if xBad then 1 else if wBad then 3 else 0)

/-- Bank row i of pass k: columns 2n and 2n + 1 hold the parts for vector n; the rest is +0 (R221). -/
def scmmRow (d : Shape) (dat : Nat) (bad : List Nat) (wdat : Nat) (wbad : List Nat) (k i : Nat) :
    List Nat × BitVec 6 × Nat :=
  let h := 2 * k + i / 32
  let p := i % 32
  if d.np ≤ p then (zeroRow, 0, 0) else
  let rs := (List.range d.nv).map fun n => scmmPair d dat bad wdat wbad h p n
  ((rs.flatMap fun r => [r.1, r.2.1]) ++ List.replicate (64 - 2 * d.nv) 0, rs.foldl (fun f r => f ||| r.2.2.1) 0,
    rs.foldl (fun o r => if o = 0 then r.2.2.2 else o) 0)

/-- The output of pass k from its bank rows: halves in memory order with their poison, and the flags. -/
def scmmOut (d : Shape) (rows : List (List Nat)) : List (Nat × Bool) × BitVec 6 :=
  let rs := [0, 1].flatMap fun g => (List.range d.np).flatMap fun p => (List.range (2 * d.nv)).map fun c =>
    let e := (rows.getD (32 * g + p) []).getD c 0
    let (b, f) := roundTo bf16 0 (decodeF fa56 (accVal e))
    (b, accBad e, f)
  (rs.map fun r => (r.1, r.2.1), rs.foldl (fun f r => f ||| r.2.2) 0)

/-! ### Elements packed into words -/

/-- Elements of w bits with their poison as a number and the indexes of the poisoned 8-byte words. -/
def packElems (w : Nat) (l : List (Nat × Bool)) : Nat × List Nat :=
  (packAll w (l.map (·.1)), (List.range ((l.length * w + 63) / 64)).filter fun k =>
    l.zipIdx.any fun e => e.1.2 && decide (64 * k < w * e.2 + w ∧ w * e.2 < 64 * k + 64))

end Sys2Proof.Machine
end

