-- ==== Sys2Proof/Machine/Array.lean ====
section
/-! DEFINITION. The matrix array cycle by cycle: when a command starts, which bank rows it reads and writes in which
cycle, the checking scoreboard, the store path, the loader; completion records of every engine (spec 04 R97; 09 R192 to
R208; 10 R215 to R221; 22 R389 to R406; 24 R431). -/

namespace Sys2Proof.Machine

/-! ### Commands -/

/-- The bank a command works on. -/
def Cmd.bank (c : Cmd) : Nat := match c.ins with
  | .mma _ b _ _ _ _ _ _ | .mvb _ b _ _ _ | .mzero _ b | .mstc _ b _ _ _ _ _ _ | .mtrn _ b _ _ _ | .mperm _ b _ _ _ _ _
  | .mrsum _ b _ _ _ _ _ | .scmm _ b _ _ _ _ => b.toNat
  | _ => 0

/-- The unit of an array command: 0 multiplier, 1 store path, 2 zero path, 3 loader (R202). -/
def Cmd.unit (c : Cmd) : Nat := match c.ins with
  | .mstc _ _ _ _ _ _ _ _ => 1
  | .mzero _ _ => 2
  | .mwld _ _ _ _ | .mldv _ _ _ _ _ _ => 3
  | _ => 0

/-- A command whose occupancy is variable: MVB, MWLD, MLDV (R202). -/
def Cmd.open? (c : Cmd) : Bool := match c.ins with
  | .mvb _ _ _ _ _ | .mwld _ _ _ _ | .mldv _ _ _ _ _ _ => true
  | _ => false

/-- The occupancy T of a command with a fixed one (R202, R397). -/
def Cmd.occ (c : Cmd) : Nat := match c.ins with
  | .mma _ _ _ _ _ _ _ _ => max (Machine.occ (fmtA c.fmt)) (Machine.occ (fmtB c.fmt))
  | .mtrn _ _ _ _ _ | .mperm _ _ _ _ _ _ _ | .mrsum _ _ _ _ _ _ _ => max (Machine.occ (fmtA c.fmt)) 64
  | .scmm _ _ d _ _ _ => 16 * d.b
  | .mstc _ _ _ _ _ _ _ _ => 64
  | _ => 16

/-- The command accumulates. -/
def Cmd.accs (c : Cmd) : Bool := match c.ins with
  | .mma _ _ a _ _ _ _ _ | .mvb _ _ a _ _ | .mperm _ _ a _ _ _ _ | .mrsum _ _ a _ _ _ _ => a
  | _ => false

/-- WAIT of a command (R94). -/
def Cmd.wait (c : Cmd) : Nat := (tileHdr c.w).wait.toNat

/-- Bytes of the weight image of SCMM (R222). -/
def imageBytes (d : Shape) : Nat := 64 + d.b / 2 * d.np * d.nb * 4

/-! ### Operands in memory, local store and vault (R195, R205, R222) -/

/-- What ENQ checks of an operand: the number of its word, address, bytes, whether it is written, whether it must be
array-local. -/
structure Operand where
  word  : Nat
  a     : Word
  n     : Nat
  write : Bool
  loc   : Bool
deriving DecidableEq, Repr

/-- Packed row size of a format (R195, R400). -/
def rowBytes (code : Nat) : Nat := elemBytes code 64

/-- Bytes of an A operand. -/
def aBytes (code : Nat) (st : BitVec 7) : Nat := 63 * stride st (rowBytes code) + rowBytes code

/-- Bytes from its destination that an MSTC may write: its rows, and for a DX format the plane at 64 × ST3 (R400). -/
def mstcBytes (c : Cmd) (st3 : BitVec 7) : Nat :=
  let code := mstcCode c
  let rb := rowBytes code
  if isDx code then 64 * stride st3 rb + 256 else 63 * stride st3 rb + rb

/-- Operands of an array or transform-unit command in the order of their words. -/
def Cmd.operands (c : Cmd) : List Operand :=
  let rd := fun (k : Nat) (a : BitVec 57) (n : Nat) => ({ word := k, a := va57 a, n := n, write := false, loc := true } : Operand)
  let rm := fun (k : Nat) (a : BitVec 57) (n : Nat) => ({ word := k, a := va57 a, n := n, write := false, loc := false } : Operand)
  let wm := fun (a : BitVec 57) (n : Nat) => ({ word := 3, a := va57 a, n := n, write := true, loc := false } : Operand)
  let code := fmtA c.fmt
  let tile := fun (d : Shape) (n : Nat) => 64 + d.bytes n
  match c.ins with
  | .mma _ _ _ _ _ a st _ | .mtrn _ _ _ a st | .mrsum _ _ _ _ _ a st => [rd 1 a (aBytes code st)]
  | .mperm _ _ _ _ a st idx => [rd 1 a (aBytes code st), rd 2 idx 64]
  | .mldv _ _ _ _ _ v => [rd 1 v (rowBytes code)]
  | .mvb _ _ _ _ t => [rm 2 t (bStored (fmtB c.fmt) 0)]
  | .mwld _ form src _ => [rm 1 src (bStored (fmtB c.fmt) form.toNat)]
  | .mstc _ _ _ _ _ _ dst st3 => [wm dst (mstcBytes c st3)]
  | .scmm _ _ d src _ dst => [rd 1 src (tile d d.nb), wm dst (tile d d.np)]
  | .sfft _ d a b | .sifft _ d a b | .stagMode0 _ _ d a b | .stagMode2 _ d a b => [rm 1 a (tile d d.nb), wm b (tile d d.nb)]
  | .stagMode1 _ d a r b => [rm 1 a (tile d d.nb), rm 2 r 64, wm b (tile d d.nb)]
  | _ => []

/-- The DX exponent plane a command reads: offset in local store and bytes (R195, R385, R394). -/
def Cmd.plane (c : Cmd) : Option (Nat × Nat) :=
  if !isDx (fmtA c.fmt) then none
  else match c.ins with
    | .mma _ _ _ _ x _ _ _ | .mtrn _ _ x _ _ | .mperm _ _ _ x _ _ _ | .mrsum _ _ _ _ x _ _ => some (x.toNat, 256)
    | .mldv _ _ xd _ x _ => if xd then none else some (x.toNat, 4)
    | _ => none

/-- The scales an MSTC reads: offsets in local store (R118). -/
def Cmd.scales (c : Cmd) : List Nat := match c.ins with
  | .mstc _ _ _ _ _ _ _ _ => if fmtScale c.fmt then [c.sptra.toNat, c.sptrb.toNat] else []
  | _ => []

/-- The weight-buffer blocks a command reads (R197, R222). -/
def Cmd.wbRead (c : Cmd) : Option Range := match c.ins with
  | .mma _ _ _ form _ _ _ off => some (blocksOf off.toNat (bStored (fmtB c.fmt) form.toNat))
  | .scmm _ _ d _ off _ => some (blocksOf off.toNat (imageBytes d))
  | _ => none
/-- The weight-buffer blocks a command writes. -/
def Cmd.wbWrite (c : Cmd) : Option Range := match c.ins with
  | .mwld _ form _ off => some (blocksOf off.toNat (bStored (fmtB c.fmt) form.toNat))
  | _ => none
/-- The resident vectors a command reads, and the one it writes, as masks. -/
def Cmd.vRead (c : Cmd) : BitVec 8 := match c.ins with | .mvb _ _ _ m _ => m | _ => 0
def Cmd.vWrite (c : Cmd) : BitVec 8 := match c.ins with | .mldv _ v _ _ _ _ => 1 <<< v.toNat | _ => 0

/-- A reader of a weight range or vector that a loader command writes (R197). -/
def Cmd.readsOf (r w : Cmd) : Bool :=
  r.wbRead.toList.any (fun a => w.wbWrite.toList.any a.meets) || (r.vRead &&& w.vWrite) != 0

/-- Rows of MVB's bank (R200). -/
def Cmd.inMask (c : Cmd) (i : Nat) : Bool := decide (i < 8) && c.vRead.getLsbD i

/-! ### Running commands -/

def State.running (s : State) (cl eng : Nat) : List Cmd := (s.clusterSt cl).running.filter fun c => c.eng == eng
def State.runCmd (s : State) (cl ticket : Nat) : Option Cmd := (s.clusterSt cl).running.find? fun c => c.ticket == ticket
def State.setRun (s : State) (cl : Nat) (c : Cmd) : State :=
  s.modCluster cl fun k => { k with running := k.running.map fun (o : Cmd) => if o.ticket = c.ticket then c else o }

/-- Flags and the first poisoned operand added to a command. -/
def Cmd.note (c : Cmd) (f : BitVec 6) (p : Nat) : Cmd :=
  { c with flags := c.flags ||| f.zeroExtend 7, poisonOp := if c.poisonOp = 0 then p else c.poisonOp }

/-- PAR in a command's flags. -/
def Cmd.par (c : Cmd) (on : Bool) : Cmd := if on then { c with flags := c.flags ||| 0x40 } else c

/-- A command meets a translation fault: it is suspended at its step, and its slot takes cause 14 (R143, R207). -/
def State.suspendCmd (s : State) (cl : Nat) (c : Cmd) (va d : Word) : State :=
  (s.setRun cl { c with susp := some (va, engDetail d) }).later c.sid (Trap.sync 14 va (engDetail d))

/-! ### Completion (R97, R181, R389) -/

/-- The completion record (R97). -/
def recordWord (opc status flags seq detail : Nat) : Word :=
  BitVec.ofNat 64 (opc + 2 ^ 8 * status + 2 ^ 16 * flags + 2 ^ 24 * seq + 2 ^ 40 * detail)

/-- The flags of a record with status 2, 3 or 5: PO and PAR, no arithmetic flag (R120). -/
def Cmd.endFlags (c : Cmd) : BitVec 7 := c.flags &&& 0x60

/-- Status, detail and flags that a command reports, with the depth of the abort that it belongs to, if any (R97, R208,
R389). -/
def Cmd.outcome (c : Cmd) (aborted : Option Nat) : Nat × Nat × BitVec 7 :=
  match aborted with
  | some d => (3, d, c.endFlags)
  | none =>
    if c.status ≠ 0 then (c.status, c.detail, if c.status = 4 then c.flags ||| 0x20 else if c.status = 5 then c.endFlags else c.flags)
    else if c.poisonOp ≠ 0 then (4, c.poisonOp, c.flags ||| 0x20)
    else (if c.flags = 0 then 0 else 1, 0, c.flags)

/-- A command's record is pushed and its reservation freed; it leaves tracker, queue and running list. -/
def State.report (s : State) (cl : Nat) (c : Cmd) (status detail : Nat) (flags : BitVec 7) : Word × State :=
  let f := (s.slot c.sid).fifos.toList.getD c.eng ResFifo.init
  let r := recordWord (tileOpc c.w).toNat status flags.toNat f.seq.toNat detail
  let s := s.modSlot c.sid fun sl =>
    { sl with fifos := sl.fifos.set! c.eng { f with recs := f.recs ++ [r], seq := f.seq + 1, reserved := f.reserved - 1 } }
  let s := s.modCluster cl fun k =>
    { k with running := k.running.filter (fun (o : Cmd) => o.ticket != c.ticket),
             queues := k.queues.map fun (q : List Cmd) => q.filter fun (o : Cmd) => o.ticket != c.ticket }
  (r, s.leaveTrack cl c.ticket)

/-- The cycle in which a command stands: the array's clock, or the present cycle. -/
def State.cmdTime (s : State) (cl : Nat) (c : Cmd) : Nat := if c.eng = 0 then (s.clusterSt cl).aclock else s.cycle

/-- The depth of the abort that a command belongs to (R208). -/
def State.cmdAbort (s : State) (cl : Nat) (c : Cmd) : Option Nat := (s.slot c.sid).abortedBy c.dom (s.cmdTime cl c)

/-- A command completes (R389): its record, the done word's flags (R43), what a status 4 or 5 brings (R215, R277,
R280). While its slot has a domain open, a status 4 aborts the innermost one: reason 4 where the command belongs to an open
domain, else reason 2 (log entry 40). -/
def State.complete (s : State) (cl : Nat) (c : Cmd) : State :=
  let t := s.cmdTime cl c
  let (st, d, f) := c.outcome (s.cmdAbort cl c)
  let (r, s) := s.report cl c st d f
  let s := if st = 0 ∨ st = 1 ∨ st = 4 then s.gather cl (errOfFlags (f.truncate 6)) 0 else s
  if st = 4 then
    let doms := (s.slot c.sid).doms
    if doms ≠ [] then s.blameAt c.sid (if domDepth doms c.dom = 0 then 2 else 4) t
    else
      let s := s.gather cl 0 3
      if s.strict (s.slot c.sid).team then s.later c.sid (Trap.sync 15 r) else s.countPoison (s.slot c.sid).team
  else if st = 5 then s.later c.sid (Trap.sync 13 r)
  else s

/-- A loader command or MVB is complete at the array's cycle: its unit is free, and readers may start from now (R197, R202). -/
def State.freeLoader (s : State) (cl : Nat) (c : Cmd) : State :=
  s.modCluster cl fun k =>
    { k with unitFree := k.unitFree.set! c.unit (if c.unit = 0 then k.aclock + 1 else k.aclock),
             queues := k.queues.map fun (q : List Cmd) => q.map fun (o : Cmd) =>
               if o.readsOf c then { o with ready := o.ready.map (max k.aclock) } else o }

/-! ### Row times (R202, R221) -/

/-- A time no cycle reaches: the rows of an MVB that is not complete. -/
def never : Nat := 2 ^ 64

/-- First and last cycle in which a command started at s0 reads and writes a bank row. -/
def Cmd.rowReads (c : Cmd) (s0 i : Nat) : Option (Nat × Nat) := match c.ins with
  | .mma _ _ true _ _ _ _ _ | .mperm _ _ true _ _ _ _ | .mrsum _ _ true _ _ _ _ =>
    some (s0 + i * c.occ / 64, s0 + i * c.occ / 64)
  | .mstc _ _ _ _ _ _ _ _ => some (s0 + i, s0 + i)
  | .mvb _ _ true _ _ => if c.inMask i then some (match c.endAt with | some e => (e - 1, e - 1) | none => (never, never)) else none
  | _ => none
def Cmd.rowWrites (c : Cmd) (s0 i : Nat) : Option (Nat × Nat) := match c.ins with
  | .mma _ _ _ _ _ _ _ _ | .mperm _ _ _ _ _ _ _ | .mrsum _ _ _ _ _ _ _ =>
    some (s0 + 12 + i * c.occ / 64, s0 + 12 + i * c.occ / 64)
  | .mtrn _ _ _ _ _ => some (s0 + 12 + c.occ, s0 + 12 + c.occ)
  | .mzero _ _ => some (s0 + i / 4, s0 + i / 4)
  | .scmm _ _ d _ _ _ => some (s0 + 12 + i, s0 + 64 * (d.b / 4 - 1) + 12 + i)
  | .mvb _ _ _ _ _ => if c.inMask i then some (match c.endAt with | some e => (e, e) | none => (never, never)) else none
  | _ => none

/-- A command started at t against an outstanding one on a bank row (R204). -/
def rowClash (c : Cmd) (t : Nat) (o : Cmd) (i : Nat) : Bool :=
  let s0 := o.start.getD 0
  let notAfter := fun (a b : Option (Nat × Nat)) => match a, b with
    | some x, some y => decide (x.1 ≤ y.2)
    | _, _ => false
  notAfter (c.rowReads t i) (o.rowWrites s0 i) || notAfter (c.rowWrites t i) (o.rowReads s0 i)
    || notAfter (c.rowWrites t i) (o.rowWrites s0 i)

/-- The first offending row of a command that would start at t (R204). -/
def State.boardRow (s : State) (cl : Nat) (c : Cmd) (t : Nat) : Option Nat :=
  let os := (s.running cl 0).filter fun o => o.bank == c.bank
  (List.range 64).find? fun i => os.any fun o => rowClash c t o i

/-! ### Stored output -/

/-- n bytes given as a number with the indexes of their poisoned words written at physical pieces; a word only partly
written keeps its mark unless it is poisoned. -/
def State.putMarked (s : State) (l : List (Nat × Nat)) (v : Nat) (bad : List Nat) : State :=
  let s := s.putPieces l v
  let pas := l.flatMap fun e => (List.range ((e.2 + 7) / 8)).map fun i => e.1 + 8 * i
  pas.zipIdx.foldl (fun s p => if bad.contains p.2 then s.setBad (p.1 / 8) true else s) s

/-- n bytes with their poisoned words written by a command at a virtual address, unless it is protected (R271, R273). -/
def State.cmdWrite (s : State) (c : Cmd) (va : Word) (n v : Nat) (bad : List Nat) : Except (Word × Word) State :=
  let ctx := s.cmdCtx c
  match s.spanWrite ctx va n with
  | .error e => .error e
  | .ok (l, s) => .ok ((s.putMarked l v bad).markSpan ctx.team va l)

/-! ### SCMM -/

/-- Input tile and weight image of an SCMM as they stand: data after the header and poisoned words of each, then both
headers and whether they hold poison. -/
structure ScmmIn where
  dat  : Nat
  bad  : List Nat
  wdat : Nat
  wbad : List Nat
  h    : Nat
  hBad : Bool
  wh   : Nat
  whBad : Bool
deriving DecidableEq, Repr

def State.scmmIn (s : State) (cl : Nat) (c : Cmd) : ScmmIn := match c.ins with
  | .scmm _ _ d src off _ =>
    let pa := s.localPa c (va57 src)
    let n := d.bytes d.nb
    let wp := weightPa cl + off.toNat
    let wn := imageBytes d - 64
    { dat := s.rd (pa + 64) n, bad := s.badIdx (pa + 64) n, wdat := s.rd (wp + 64) wn, wbad := s.badIdx (wp + 64) wn,
      h := s.rd pa 64, hBad := s.badAt pa 64, wh := s.rd wp 64, whBad := s.badAt wp 64 }
  | _ => { dat := 0, bad := [], wdat := 0, wbad := [], h := 0, hBad := false, wh := 0, whBad := false }

/-- What both header checks of SCMM give (R215): status and detail, 0 when they pass. -/
def scmmCheck (h : TileHdr) (d : Shape) (i : ScmmIn) : Nat × Nat :=
  match hdrCheck i.h i.hBad h.din.toNat (some (d.lg, d.nb, d.nv)) false with
  | .poison => (4, 1)
  | .mismatch x => (5, x)
  | .ok => match hdrCheck i.wh i.whBad 1 (some (d.lg, d.np, d.nb)) true with
    | .poison => (4, 3)
    | .mismatch x => (5, x)
    | .ok => (0, 0)

/-- The first header of an output tile: TAG 3, the output's shape, an exponent the spec leaves open (R224; log entry
5). -/
def State.firstHdr (s : State) (d : Shape) (nb : Nat) : Nat × State :=
  let (w, s) := s.fresh
  (hdrOf 3 d.lg nb d.nv 0 + 2 ^ 32 * (w.toNat % 2 ^ 32), s)

/-- A command whose output header is written: step 0 of SCMM (R224, R431). A command that its headers ended stops
there. -/
def State.scmmFirst (s : State) (cl : Nat) (c : Cmd) : State := match c.ins with
  | .scmm _ _ d _ _ dst =>
    let (h, s1) := s.firstHdr d d.np
    match s1.cmdWrite c (va57 dst) 64 h [] with
    | .error (va, x) => s.suspendCmd cl { c with step := 0 } va x
    | .ok s2 =>
      if c.status = 4 then s2.complete cl c else s2.setRun cl { c with step := 1 }
  | _ => s

/-- SCMM as it starts: the header checks, the output's exponent, then its first header (R215, R220, R431). -/
def State.scmmStart (s : State) (cl : Nat) (c : Cmd) : State := match c.ins with
  | .scmm h _ d _ _ _ =>
    let i := s.scmmIn cl c
    let (st, det) := scmmCheck h d i
    let c := { c with status := st, detail := det, e := hdrE i.h + hdrE i.wh }
    if st = 5 ∨ (st = 4 ∧ s.strict (s.slot c.sid).team = true) then s.complete cl c
    else s.scmmFirst cl c
  | _ => s

/-- The final header (R217, R220, R224): an aborted command leaves TAG 3, an exponent out of range gives TAG 3 with OF
and NV. -/
def State.lastHdr (aborted : Bool) (c : Cmd) (d : Shape) (nb tag : Nat) (e : Int) : Cmd × Option Nat :=
  if aborted then (c, none)
  else if eOk e then (c, some (hdrOf tag d.lg nb d.nv e))
  else (c.note (fOF ||| fNV) 0, some (hdrOf 3 d.lg nb d.nv 0))

/-- The last step of SCMM. -/
def State.scmmLast (s : State) (cl : Nat) (c : Cmd) : State := match c.ins with
  | .scmm h _ d _ _ dst =>
    let (c', hd) := State.lastHdr (s.cmdAbort cl c).isSome c d d.np h.din.toNat c.e
    match hd with
    | none => s.complete cl c'
    | some v => match s.cmdWrite c (va57 dst) 64 v [] with
      | .error (va, x) => s.suspendCmd cl c va x
      | .ok s => s.complete cl c'
  | _ => s

/-- The data of one pass of SCMM, whose 64 bank rows have been read back into `buf`: step k + 1. A fault drops the
pass, which is formed anew when the command is resumed (R431). -/
def State.scmmPass (s : State) (cl : Nat) (c : Cmd) : State := match c.ins with
  | .scmm _ _ d _ _ dst =>
    let k := c.step - 1
    let (l, f) := scmmOut d c.buf
    let (v, bad) := packElems 16 l
    let n := d.np * d.nv * 8
    match s.cmdWrite c (va57 dst + BitVec.ofNat 64 (64 + k * n)) n v bad with
    | .error (va, x) => s.suspendCmd cl { c with buf := [], rowsR := 64 * k, rowsW := 64 * k } va x
    | .ok s =>
      let c := { c.note f 0 with buf := [], step := c.step + 1 }
      let s := s.setRun cl c
      if c.step = d.b / 4 + 1 then s.scmmLast cl c else s
  | _ => s

/-! ### MSTC (R201, R400, R401) -/

/-- The fold of an MSTC: AMFMAX of its largest magnitude into the fold word, at the word's owner (R185, R188). -/
def State.mstcFold (s : State) (cl : Nat) (c : Cmd) : State := match c.ins with
  | .mstc _ _ fold _ _ foldw _ _ =>
    if !fold then s.complete cl c
    else match s.spanWrite (s.cmdCtx c) (va57 foldw) 4 with
      | .error (va, x) => s.suspendCmd cl c va x
      | .ok (l, s) =>
        let pa := match l with | (pa, _) :: _ => pa | [] => 0
        let bad := s.bad (pa / 8)
        let (v, f) := amFmax (if bad then canonNaN fp32 else s.rd pa 4) c.fold
        let s := (s.putPieces l v).markSpan (s.cmdCtx c).team (va57 foldw) l
        s.complete cl (c.note f (if bad then 2 else 0))
  | _ => s

/-- The rows of an MSTC that are converted and not yet stored, from its step on; then the fold (R401). `fuel` bounds
the rows. -/
def State.mstcStore (s : State) (cl : Nat) (c : Cmd) : Nat → State
  | 0 => s.setRun cl c
  | fuel + 1 =>
    match c.ins, c.buf with
    | .mstc _ _ _ _ _ _ dst st3, row :: rest =>
      let code := mstcCode c
      let rbs := elemBytes code 64
      let i := c.step
      let base := va57 dst
      let data := row.getD 0 0
      let exps := row.getD 1 0
      let cols := row.drop 2
      let w := elemBits code
      let bad := (List.range ((rbs + 7) / 8)).filter fun k => cols.any fun j => decide (64 * k < w * j + w ∧ w * j < 64 * k + 64)
      match s.cmdWrite c (base + BitVec.ofNat 64 (i * stride st3 rbs)) rbs data bad with
      | .error (va, x) => s.suspendCmd cl c va x
      | .ok s1 =>
        let plane : Except (Word × Word) State :=
          if isDx code then
            match s1.cmdWrite c (base + BitVec.ofNat 64 (64 * stride st3 rbs + 4 * i)) 4 exps (if cols = [] then [] else [0]) with
            | .error e => .error e
            | .ok s2 => .ok s2
          else .ok s1
        match plane with
        | .error (va, x) => s.suspendCmd cl c va x
        | .ok s2 => State.mstcStore s2 cl { c with buf := rest, step := i + 1 } fuel
    | .mstc _ _ _ _ _ _ _ _, [] => if c.step = 64 then s.mstcFold cl c else s.setRun cl c
    | _, _ => s

/-- An MSTC reads and converts bank row i in cycle t (R118, R206). -/
def State.mstcRead (s : State) (cl t : Nat) (c : Cmd) (i : Nat) : Cmd × State :=
  let (vals, s, par, bad) := s.readAcc cl c.bank i t
  let (xs, f1, sp) := s.scaleRow c i vals
  let code := mstcCode c
  let r := storeRow code (fmtSrnd c.fmt) xs
  let scaleBad := fun (j : Nat) => fmtScale c.fmt && (s.bad ((lsPa (coreOf c.sid) + c.sptra.toNat + 4 * i) / 8)
    || s.bad ((lsPa (coreOf c.sid) + c.sptrb.toNat + 4 * j) / 8))
  let cols0 := (List.range 64).filter fun j => accBad (vals.getD j 0) || scaleBad j
  let cols := if isDx code then (List.range 64).filter fun j => cols0.any fun k => k / 32 == j / 32 else cols0
  let p := if sp ≠ 0 then sp else if bad then 4 else 0
  let c := (c.note (f1 ||| r.flags) p).par par
  ({ c with buf := c.buf ++ [[r.data, r.exps] ++ cols], rowsR := i + 1, fold := foldMag c.fold r.vals }, s)

/-! ### One cycle -/

/-- A row of a multiplier command read in cycle t, if it accumulates, and formed. -/
def State.formRow (s : State) (cl t : Nat) (c : Cmd) (i : Nat) : List Nat × Cmd × State :=
  let (acc, s, par, _) := if c.accs then s.readAcc cl c.bank i t else (zeroRow, s, false, false)
  let (out, f, p) := s.mulRow cl c i acc
  (out, (c.note f p).par par, s)

/-- The reads of a running command in cycle t: rows from `rowsR` on that are due. -/
def State.cmdReads (s : State) (cl t : Nat) (c : Cmd) : Nat → State
  | 0 => s.setRun cl c
  | fuel + 1 =>
    let s0 := c.start.getD 0
    match c.ins with
    | .mma _ _ _ _ _ _ _ _ | .mperm _ _ _ _ _ _ _ | .mrsum _ _ _ _ _ _ _ =>
      if c.accs && decide (c.rowsR < 64 ∧ s0 + c.rowsR * c.occ / 64 ≤ t) then
        let (out, c, s) := s.formRow cl t c c.rowsR
        State.cmdReads s cl t { c with buf := c.buf ++ [out], rowsR := c.rowsR + 1 } fuel
      else s.setRun cl c
    | .mstc _ _ _ _ _ _ _ _ =>
      if c.rowsR < 64 ∧ s0 + c.rowsR ≤ t then
        let (c, s) := s.mstcRead cl t c c.rowsR
        State.cmdReads s cl t c fuel
      else if c.susp.isSome then s.setRun cl c
      else s.mstcStore cl c 65
    | .scmm _ _ d _ _ _ =>
      if c.susp.isSome then s.setRun cl c
      else if c.step = 0 then s.scmmFirst cl c
      else if c.rowsR < c.rowsW ∧ s0 + 13 + c.rowsR ≤ t ∧ c.rowsR < 16 * d.b then
        let (row, s, par, bad) := s.readAcc cl c.bank (c.rowsR % 64) t
        let c := (c.note 0 (if bad then 4 else 0)).par par
        let c := { c with buf := c.buf ++ [row], rowsR := c.rowsR + 1 }
        if c.rowsR % 64 = 0 then s.scmmPass cl c else State.cmdReads s cl t c fuel
      else s.setRun cl c
    | .mvb _ _ _ _ _ =>
      if c.endAt = some (t + 1) ∧ c.rowsR = 0 then
        let r := ((List.range 8).filter c.inMask).foldl (fun (x : List (List Nat) × Cmd × State) i =>
          let (out, c, s) := x.2.2.formRow cl t x.2.1 i
          (x.1 ++ [out], c, s)) ([], c, s)
        r.2.2.setRun cl { r.2.1 with buf := r.1, rowsR := 64 }
      else s.setRun cl c
    | _ => s.setRun cl c

/-- The writes of a running command in cycle t, with the rows written earlier in the cycle. -/
def State.cmdWrites (s : State) (cl t : Nat) (hit : List Nat) (c : Cmd) : Nat → List Nat × State
  | 0 => (hit, s.setRun cl c)
  | fuel + 1 =>
    let s0 := c.start.getD 0
    let i := c.rowsW
    let put := fun (s : State) (c : Cmd) (row : Nat) (vals : List Nat) =>
      s.writeAcc c cl c.bank row vals (hit.contains (c.bank * 64 + row))
    let hit' := fun (row : Nat) => (c.bank * 64 + row) :: hit
    let go := fun (s : State) (c : Cmd) (row : Nat) (vals : List Nat) =>
      State.cmdWrites (put s c row vals) cl t (hit' row) { c with rowsW := i + 1 } fuel
    match c.ins with
    | .mma _ _ _ _ _ _ _ _ | .mperm _ _ _ _ _ _ _ | .mrsum _ _ _ _ _ _ _ | .mtrn _ _ _ _ _ =>
      if 64 ≤ i then (hit, s.complete cl c)
      else if (c.rowWrites s0 i).any fun w => decide (w.1 ≤ t) then
        if c.accs then go s { c with buf := c.buf.drop 1 } i (c.buf.headD zeroRow)
        else
          let (out, c, s) := s.formRow cl t c i
          go s c i out
      else (hit, s.setRun cl c)
    | .mzero _ _ =>
      if 64 ≤ i then (hit, s.complete cl c)
      else if s0 + i / 4 ≤ t then go s c i zeroRow
      else (hit, s.setRun cl c)
    | .scmm _ _ d _ _ _ =>
      if c.susp.isNone && decide (c.step ≠ 0 ∧ i < 16 * d.b ∧ s0 + 12 + i ≤ t) then
        let x := s.scmmIn cl c
        let (out, f, p) := scmmRow d x.dat x.bad x.wdat x.wbad (i / 64) (i % 64)
        go s (c.note f p) (i % 64) out
      else (hit, s.setRun cl c)
    | .mvb _ _ _ _ _ =>
      if c.endAt = some t ∧ i = 0 then
        let rows := (List.range 8).filter c.inMask
        let s := (rows.zip c.buf).foldl (fun s r => put s c r.1 r.2) s
        let s := s.freeLoader cl c
        (rows.map (c.bank * 64 + ·) ++ hit, s.complete cl c)
      else (hit, s.setRun cl c)
    | _ => (hit, s.setRun cl c)

/-- The slot's stores before the ENQ are performed, the atomics without a result among them (R180). -/
def State.markReady (s : State) (cl eng : Nat) : State :=
  s.modCluster cl fun k => { k with queues := k.queues.set! eng ((k.queues.toList.getD eng []).map fun (c : Cmd) =>
    if c.ready.isNone && !s.unreleased (coreOf c.sid) 2 then { c with ready := some s.cycle } else c) }

/-- The head of a queue may start at cycle t but for units and the scoreboard: accepted, its slot's stores performed, its
dependences complete, nothing held or suspended ahead of it, its domain not aborted (R178, R202, R204, R207, R208). -/
def State.canStart (s : State) (cl t : Nat) (c : Cmd) : Bool :=
  let k := s.clusterSt cl
  !k.quiesced && !c.held && ((s.slot c.sid).abortedBy c.dom t).isNone && !(s.running cl c.eng).any (fun o => o.susp.isSome) && decide (c.accepted ≤ t)
    && c.ready.any (fun r => decide (r ≤ t)) && s.depsClear cl c.ticket
    && (k.tracker.all fun e => e.ticket != c.ticket || decide (e.since ≤ t))

/-- The pieces that a command reads from local store, vault and weight buffer, in which flips are corrected (R281). -/
def State.arrayReads (s : State) (cl : Nat) (c : Cmd) : List (Nat × Nat) :=
  let ls := lsPa (coreOf c.sid)
  (c.operands.filter (·.loc)).map (fun o => (s.localPa c o.a, o.n)) ++ c.plane.toList.map (fun p => (ls + p.1, p.2))
    ++ c.scales.map (fun o => (ls + o, 256)) ++ c.wbRead.toList.map fun r => (weightPa cl + 64 * r.lo, 64 * (r.hi - r.lo))

/-- The index vector of an MPERM, read once, at its start: bits [5:0] of each byte and whether its word is poisoned (R199,
R397). -/
def State.permVec (s : State) (c : Cmd) : List (Nat × Bool) := match c.ins with
  | .mperm _ _ _ _ _ _ idx =>
    let pa := s.localPa c (va57 idx)
    (List.range 64).map fun i => ((s.byte (pa + i)).toNat % 64, s.bad ((pa + i) / 8))
  | _ => []

/-- One start at cycle t, if the head of the array's queue may start (R202, R204). -/
def State.arrayStart (s : State) (cl t : Nat) : Option State :=
  let k := s.clusterSt cl
  match (k.queues.toList.getD 0 []) with
  | [] => none
  | c :: rest =>
    let u := c.unit
    if !s.canStart cl t c then none
    else if k.lastStart.any (fun p => decide (t < p + c.wait)) || decide (t < k.unitFree.toList.getD u 0)
        || (s.running cl 0).any (fun o => o.unit == u && o.open?) || (s.running cl 0).any (fun o => c.readsOf o) then none
    else match (if c.ckchk && !c.checked then s.boardRow cl c t else none) with
      | some row =>
        let s := s.modCluster cl fun k => { k with queues := k.queues.set! 0 ({ c with held := true } :: rest) }
        some (s.later c.sid (Trap.sync 12 (tileW c.w 0) (BitVec.ofNat 64 (c.bank * 256 + row))))
      | none =>
        let s := s.correctPieces c.sid (s.arrayReads cl c)
        let c := { c with start := some t, vec := s.permVec c }
        let s := s.modCluster cl fun k =>
          { k with queues := k.queues.set! 0 rest, running := k.running ++ [c], lastStart := some t,
                   unitFree := if c.open? then k.unitFree else k.unitFree.set! u (t + c.occ) }
        let s := s.post (.tileCommandComplete cl 0 c.ticket)
        some (match c.ins with | .scmm _ _ _ _ _ _ => s.scmmStart cl c | _ => s)

/-- Every start of cycle t. -/
def State.arrayStarts (s : State) (cl t : Nat) : Nat → State
  | 0 => s
  | fuel + 1 => match s.arrayStart cl t with
    | some s => State.arrayStarts s cl t fuel
    | none => s

/-- The tickets of the array's running commands, in the order of their starts. -/
def State.arrayTickets (s : State) (cl : Nat) : List Nat := (s.running cl 0).map (·.ticket)

/-- The array in cycle t: starts, then reads, then writes (R203). -/
def State.arrayCycle (s : State) (cl t : Nat) : State :=
  let s := s.arrayStarts cl t 16
  let s := (s.arrayTickets cl).foldl (fun s n => match s.runCmd cl n with | some c => s.cmdReads cl t c 65 | none => s) s
  ((s.arrayTickets cl).foldl (fun (x : List Nat × State) n => match x.2.runCmd cl n with
    | some c => x.2.cmdWrites cl t x.1 c 66
    | none => x) ([], s)).2

/-- n cycles of the array from its clock. -/
def State.arrayCycles (s : State) (cl : Nat) : Nat → State
  | 0 => s
  | n + 1 =>
    let t := (s.clusterSt cl).aclock
    State.arrayCycles ((s.arrayCycle cl t).modCluster cl fun k => { k with aclock := t + 1 }) cl n

/-- The array brought to the present cycle; an idle array only moves its clock. -/
def State.arrayRun (s : State) (cl : Nat) : State :=
  let k := s.clusterSt cl
  if k.queues.toList.getD 0 [] = [] ∧ s.running cl 0 = [] then s.modCluster cl fun k => { k with aclock := s.cycle }
  else s.arrayCycles cl (s.cycle - k.aclock)

/-! ### The loader and the tile of MVB (R200, R394, R404, R405) -/

/-- Earlier running commands still read what a loader command writes (R197). -/
def State.readersLeft (s : State) (cl : Nat) (c : Cmd) : Bool :=
  (s.running cl 0).any fun o => decide (o.ticket < c.ticket) && o.readsOf c

/-- At most 64 bytes of a 64-byte block at a virtual address: their number and their poisoned words. The read looks in the
cluster's vault cache for a VC page, and flips are corrected (R129, R281). -/
def State.cmdBlock (s : State) (c : Cmd) (va : Word) (n : Nat) : Except (Word × Word) (Nat × List Nat × State) :=
  match s.resolve (s.cmdCtx c) va n .load with
  | .error d => .error (va, d)
  | .ok h =>
    let s := (h.st.vcLoad c.sid h).correctAt c.sid h.pa n
    .ok (s.rd h.pa n, s.badIdx h.pa n, s)

/-- MWLD: blocks from its step on, copied with their poison marks. -/
def State.mwldBlocks (s : State) (cl : Nat) (c : Cmd) : Nat → State
  | 0 => (s.freeLoader cl c).complete cl c
  | fuel + 1 => match c.ins with
    | .mwld _ form src off =>
      if bStored (fmtB c.fmt) form.toNat ≤ 64 * c.step then (s.freeLoader cl c).complete cl c
      else match s.cmdBlock c (va57 src + BitVec.ofNat 64 (64 * c.step)) 64 with
        | .error (va, x) => s.suspendCmd cl c va x
        | .ok (v, bad, s) =>
          let s := s.putMarked [(weightPa cl + off.toNat + 64 * c.step, 64)] v bad
          State.mwldBlocks s cl { c.note 0 (if bad = [] then 0 else 1) with step := c.step + 1 } fuel
    | _ => s

/-- MLDV: 64 elements into a resident vector, held exactly. -/
def State.mldvLoad (s : State) (cl : Nat) (c : Cmd) : State := match c.ins with
  | .mldv _ v xd xsel xexp vec =>
    let code := fmtA c.fmt
    let n := elemBytes code 64
    let pa := s.localPa c (va57 vec)
    let data := s.rd pa n
    let bad := s.badIdx pa n
    let xp := lsPa (coreOf c.sid) + xexp.toNat
    let exps := fun (b : Nat) =>
      if xd then
        let k := 2 * (if xsel then 1 else 0) + b
        (c.dxe.field (16 * k) 8, c.dxe.field (16 * k + 8) 8, false)
      else (s.rd (xp + 2 * b) 1, s.rd (xp + 2 * b + 1) 1, s.bad ((xp + 2 * b) / 8))
    let els := (List.range 64).map fun k => elemOf code data bad k (exps (k / 32))
    let s := els.zipIdx.foldl (fun s e => s.putWord (resPa cl v.toNat e.2) (exact32 e.1.1) e.1.2) s
    (s.freeLoader cl c).complete cl (c.note 0 (if els.any (·.2) then 1 else 0))
  | _ => s

/-- MVB: blocks of the tile from its step on, then the cycle of its writes is fixed. With the scoreboard on it waits
until earlier commands are done with its rows. -/
def State.mvbBlocks (s : State) (cl : Nat) (c : Cmd) : Nat → State
  | 0 => s.setRun cl c
  | fuel + 1 => match c.ins with
    | .mvb _ _ _ _ tile =>
      if bStored (fmtB c.fmt) 0 ≤ 64 * c.step then
        let clash := c.ckchk && !c.checked && (s.running cl 0).any fun o =>
          decide (o.ticket < c.ticket) && o.bank == c.bank && (List.range 8).any fun i =>
            c.inMask i && ((o.rowReads (o.start.getD 0) i).isSome || (o.rowWrites (o.start.getD 0) i).isSome)
        s.setRun cl (if clash then c else { c with endAt := some ((s.clusterSt cl).aclock + 1) })
      else match s.cmdBlock c (va57 tile + BitVec.ofNat 64 (64 * c.step)) 64 with
        | .error (va, x) => s.suspendCmd cl c va x
        | .ok (v, bad, s) =>
          let t := c.buf.headD [0]
          let row := (t.headD 0 + 2 ^ (512 * c.step) * v) :: (t.drop 1 ++ bad.map (· + 8 * c.step))
          State.mvbBlocks s cl { c with buf := [row], step := c.step + 1 } fuel
    | _ => s

/-- What the loader or an MVB does at present. -/
def State.loaderStep (s : State) (cl : Nat) (c : Cmd) : State :=
  if c.susp.isSome then s
  else match c.ins with
    | .mwld _ _ _ _ => if s.readersLeft cl c then s else s.mwldBlocks cl c 300
    | .mldv _ _ _ _ _ _ => if s.readersLeft cl c then s else s.mldvLoad cl c
    | .mvb _ _ _ _ _ => if c.endAt.isSome then s else s.mvbBlocks cl c 300
    | _ => s

end Sys2Proof.Machine
end

