-- ==== Sys2Proof/Machine/Units.lean ====
section
/-! DEFINITION. The transform unit and the tinker: one command at a time, block by block through its reads and then its
writes (spec 10 R215 to R219, R224 to R226; 24 R431, R448 to R454). -/

namespace Sys2Proof.Machine

/-- 64-byte blocks joined: one number, and the indexes of the poisoned 8-byte words. -/
def joinBlocks : List (List Nat) → Nat × List Nat
  | [] => (0, [])
  | b :: r =>
    let (v, bad) := joinBlocks r
    (b.headD 0 + 2 ^ 512 * v, b.drop 1 ++ bad.map (· + 8))

/-- Block k of n bytes held as a number with its poisoned words: length, number, poisoned words. -/
def blockOf (n v : Nat) (bad : List Nat) (k : Nat) : Nat × Nat × List Nat :=
  let len := min 64 (n - 64 * k)
  (len, v / 2 ^ (512 * k) % 2 ^ (8 * len), (bad.filter fun w => w / 8 == k).map fun w => w - 8 * k)

/-- Blocks of n bytes. -/
def blocks (n : Nat) : Nat := (n + 63) / 64

/-! ### The transform unit -/

/-- A transform-unit command: shape, input, reference, output, output tag. -/
structure SpecCmd where
  d   : Shape
  src : Word
  ref : Option Word
  dst : Word
deriving DecidableEq, Repr

def specOf : Instr → Option SpecCmd
  | .sfft _ d a b | .sifft _ d a b | .stagMode0 _ _ d a b | .stagMode2 _ d a b =>
    some { d := d, src := va57 a, ref := none, dst := va57 b }
  | .stagMode1 _ d a r b => some { d := d, src := va57 a, ref := some (va57 r), dst := va57 b }
  | _ => none

/-- Headers a command reads before its data. -/
def SpecCmd.hdrs (p : SpecCmd) : Nat := if p.ref.isSome then 2 else 1
/-- Bytes of data of input and output. -/
def SpecCmd.bytes (p : SpecCmd) : Nat := p.d.bytes p.d.nb

/-- Address and length of read k: the input header, the reference header, then the data (log entry 20). -/
def SpecCmd.readAt (p : SpecCmd) (k : Nat) : Word × Nat :=
  if k = 0 then (p.src, 64)
  else match p.ref with
    | some r => if k = 1 then (r, 64) else (p.src + BitVec.ofNat 64 (64 * (k - 1)), min 64 (p.bytes - 64 * (k - 2)))
    | none => (p.src + BitVec.ofNat 64 (64 * k), min 64 (p.bytes - 64 * (k - 1)))

/-- The check that follows read k (R215). -/
def SpecCmd.check (p : SpecCmd) (tag k : Nat) (b : List Nat) : HdrRes :=
  let h := b.headD 0
  let bad := decide (1 < b.length)
  if k = 0 then hdrCheck h bad tag (some (p.d.lg, p.d.nb, p.d.nv)) false
  else if k = 1 ∧ p.ref.isSome = true then hdrCheck h bad tag none true
  else .ok

/-- What a command writes, from its blocks (R216 to R218). -/
def specOut (i : Instr) (p : SpecCmd) (buf : List (List Nat)) : SpecOut :=
  let h := (buf.headD []).headD 0
  let e := hdrE h
  let (dat, bad) := joinBlocks (buf.drop p.hdrs)
  match i with
  | .sfft _ _ _ _ => transform false p.d 0 e dat bad
  | .sifft _ _ _ _ => transform true p.d (h % 4) e dat bad
  | .stagMode0 _ et _ _ _ => restage p.d e et.toInt dat bad
  | .stagMode1 _ _ _ _ _ => restage p.d e (hdrE ((buf.getD 1 []).headD 0)) dat bad
  | _ => retag p.d (h % 4) e dat bad

/-- The writes of a command from its step on: the first header, the data, the final header (R224, R431). `rowsR` holds
the number of its reads. -/
def State.specWrite (s : State) (cl : Nat) (c : Cmd) (p : SpecCmd) (out : SpecOut) (v : Nat) (bad : List Nat) : Nat → State
  | 0 => s.setRun cl c
  | fuel + 1 =>
    let j := c.step - c.rowsR
    if j = 0 then
      let (h, s1) := s.firstHdr p.d p.d.nb
      match s1.cmdWrite c p.dst 64 h [] with
      | .error (va, x) => s.suspendCmd cl c va x
      | .ok s =>
        if c.status = 4 then s.complete cl c
        else State.specWrite s cl { c with step := c.step + 1 } p out v bad fuel
    else if j ≤ blocks p.bytes then
      let (n, w, b) := blockOf p.bytes v bad (j - 1)
      match s.cmdWrite c (p.dst + BitVec.ofNat 64 (64 * j)) n w b with
      | .error (va, x) => s.suspendCmd cl c va x
      | .ok s => State.specWrite s cl { c with step := c.step + 1 } p out v bad fuel
    else
      let (c', hd) := State.lastHdr (s.cmdAbort cl c).isSome (c.note out.flags (if out.bad then 1 else 0)) p.d p.d.nb (tileHdr c.w).dout.toNat out.e
      match hd with
      | none => s.complete cl c'
      | some h => match s.cmdWrite c p.dst 64 h [] with
        | .error (va, x) => s.suspendCmd cl c va x
        | .ok s => s.complete cl c'

/-- The reads of a command from its step on, each header checked as it comes; then its writes (R215, R219). `rowsW` is 1
once the reads are over. -/
def State.specRun (s : State) (cl : Nat) (c : Cmd) (p : SpecCmd) : Nat → State
  | 0 => s.setRun cl c
  | fuel + 1 =>
    if c.rowsW = 1 then
      let out := specOut c.ins p c.buf
      let (v, bad) := packElems 16 out.data
      s.specWrite cl c p out v bad 1200
    else if c.step = p.hdrs + blocks p.bytes then State.specRun s cl { c with rowsR := c.step, rowsW := 1 } p fuel
    else
      let (a, n) := p.readAt c.step
      match s.cmdBlock c a n with
      | .error (va, x) => s.suspendCmd cl c va x
      | .ok (v, bad, s) =>
        let b := v :: bad
        let c' := { c with buf := c.buf ++ [b], step := c.step + 1 }
        match p.check (tileHdr c.w).din.toNat c.step b with
        | .ok => State.specRun s cl c' p fuel
        | .mismatch x => s.complete cl { c' with status := 5, detail := x }
        | .poison =>
          let c' := { c' with status := 4, detail := c.step + 1, rowsR := c.step + 1, rowsW := 1 }
          if s.strict (s.slot c.sid).team then s.complete cl c'
          else s.specWrite cl c' p { data := [], e := 0, flags := 0, bad := false } 0 [] 2

/-! ### The tinker (R448 to R454) -/

/-- Entries of a list: NBLK × k. -/
def KBlk.entries (k : KBlk) : Nat := (k.n1.toNat + 1) * (k.k1.toNat + 1)

/-- Elements of a block: 2^(LB + 5). -/
def blkLen (lb : BitVec 3) : Nat := 2 ^ (lb.toNat + 5)

/-- Element i of w bits of joined blocks, and whether its word is poisoned. -/
def elemAt (j : Nat × List Nat) (w i : Nat) : Nat × Bool := (j.1 / 2 ^ (w * i) % 2 ^ w, j.2.contains (w * i / 64))

/-- An FP32 element: poison reads as the canonical NaN (R389). -/
def f32At (j : Nat × List Nat) (w i sh : Nat) : Nat × Bool :=
  let (v, bad) := elemAt j w i
  (if bad then canonNaN fp32 else v / 2 ^ sh % 2 ^ 32, bad)

/-- Operands a tinker command reads whole, in order, with their bytes. -/
def tinkSources : Instr → List (Word × Nat)
  | .ttopk _ lb res kb x r _ =>
    let n := 4 * (kb.n1.toNat + 1) * blkLen lb
    (x, n) :: (if res then [(r, n)] else [])
  | .tspadd _ kb a _ _ => [(a, 8 * KBlk.entries kb)]
  | .tpack _ _ kb a _ => [(a, 8 * KBlk.entries kb)]
  | .tunpk _ _ kb a _ => [(a, 4 * KBlk.entries kb)]
  | _ => []

/-- Reads of the operands, block by block: operand, offset, length. -/
def sourceReads (l : List (Word × Nat)) : List (Word × Nat × Nat) :=
  l.flatMap fun e => (List.range (blocks e.2)).map fun k => (e.1, 64 * k, min 64 (e.2 - 64 * k))

/-- The pairs of a TSPADD: index and value, poisoned pairs at index 0 with a NaN (R454). -/
def pairsOf (kb : KBlk) (j : Nat × List Nat) : List (Nat × Nat × Bool) :=
  (List.range (KBlk.entries kb)).map fun e =>
    let (v, bad) := elemAt j 64 e
    if bad then (0, canonNaN fp32, true) else (v % 2 ^ 32, v / 2 ^ 32, false)

/-- The blocks of its dense vector that a TSPADD touches, rising (log entry 20). -/
def touched (kb : KBlk) (len : Nat) (j : Nat × List Nat) : List Nat :=
  (pairsOf kb j).foldl (fun l p => if p.1 < len then mark l (p.1 / 16) true else l) []

/-- Every read of a command, given the blocks read so far. -/
def tinkReads (i : Instr) (buf : List (List Nat)) : List (Word × Nat × Nat) :=
  let l := sourceReads (tinkSources i)
  match i with
  | .tspadd _ kb _ len vec =>
    if buf.length < l.length then l
    else l ++ (touched kb len.toNat (joinBlocks (buf.take l.length))).map fun b =>
      (vec, 64 * b, min 64 (4 * len.toNat - 64 * b))
  | _ => l

/-- What a command writes, block by block: operand, offset, length, number, poisoned words; its flags; the operand whose
poison it met. -/
structure TinkOut where
  writes : List (Word × Nat × Nat × Nat × List Nat)
  flags  : BitVec 6
  bad    : Nat
deriving DecidableEq, Repr

/-- A list of elements as writes to an operand. -/
def writesOf (op : Word) (w : Nat) (l : List (Nat × Bool)) : List (Word × Nat × Nat × Nat × List Nat) :=
  let (v, bad) := packElems w l
  let n := l.length * w / 8
  (List.range (blocks n)).map fun k =>
    let b := blockOf n v bad k
    (op, 64 * k, b.1, b.2.1, b.2.2)

/-- The rank of a magnitude in TTOPK: NaN highest, both zeros equal. -/
def magOf (v : Nat) : Nat := v % 2 ^ 31

/-- An FP32 result with the canonical NaN and the flags of a signalling one. -/
def quiet32 (v : Nat) : Nat × BitVec 6 :=
  let x := decodeF fp32 v
  (if x.isNaN then canonNaN fp32 else v, fIf x.isSNaN fNV)

/-- TTOPK (R451). -/
def ttopkOut (lb : BitVec 3) (res : Bool) (kb : KBlk) (r out : Word) (buf : List (List Nat)) : TinkOut :=
  let B := blkLen lb
  let n := (kb.n1.toNat + 1) * B
  let k := kb.k1.toNat + 1
  let jx := joinBlocks (buf.take (blocks (4 * n)))
  let jr := joinBlocks (buf.drop (blocks (4 * n)))
  let ys := (List.range n).map fun i =>
    let (x, xb) := f32At jx 32 i 0
    let (q, qb) := if res then f32At jr 32 i 0 else (0, false)
    let (y, f) := if res then finishF fp32 0 (numAdd 0 (decodeF fp32 x) (decodeF fp32 q)) else quiet32 x
    (y, f, xb, qb)
  let keep := fun (i : Nat) =>
    let blk := i / B * B
    let m := magOf (ys.getD i (0, 0, false, false)).1
    decide (((List.range B).filter fun j =>
      let mj := magOf (ys.getD (blk + j) (0, 0, false, false)).1
      decide (m < mj) || (decide (m = mj) && decide (blk + j < i))).length < k)
  let kept := (List.range n).filter keep
  let at' := fun (i : Nat) => ys.getD i (0, 0, false, false)
  let pairs := kept.map fun i => (i + 2 ^ 32 * (at' i).1, (at' i).2.2.1 || (at' i).2.2.2)
  let resid := (List.range n).map fun i => if keep i then (0, false) else ((at' i).1, (at' i).2.2.1 || (at' i).2.2.2)
  { writes := writesOf out 64 pairs ++ (if res then writesOf r 32 resid else []),
    flags := ys.foldl (fun f y => f ||| y.2.1) 0,
    bad := if ys.any (fun y => y.2.2.1) then 1 else if ys.any (fun y => y.2.2.2) then 2 else 0 }

/-- TSPADD (R452): the touched blocks of the vector with every pair added in list order. -/
def tspaddOut (kb : KBlk) (len : Nat) (vec : Word) (buf : List (List Nat)) : TinkOut :=
  let np := blocks (8 * KBlk.entries kb)
  let jp := joinBlocks (buf.take np)
  let bs := touched kb len jp
  let vblocks := bs.zip (buf.drop np)
  let v0 := fun (i : Nat) => match vblocks.find? fun e => e.1 == i / 16 with
    | some e => f32At (e.2.headD 0, e.2.drop 1) 32 (i % 16) 0
    | none => (0, false)
  let r := (pairsOf kb jp).foldl (fun (a : List (Nat × (Nat × Bool)) × BitVec 6 × Nat) p =>
    if p.1 < len then
      let old := tget (v0 p.1) a.1 p.1
      let (y, f) := finishF fp32 0 (numAdd 0 (decodeF fp32 old.1) (decodeF fp32 p.2.1))
      (tset a.1 p.1 (y, old.2 || p.2.2), a.2.1 ||| f, if a.2.2 ≠ 0 then a.2.2 else if p.2.2 then 1 else if old.2 then 2 else 0)
    else (a.1, a.2.1 ||| fNV, if a.2.2 ≠ 0 then a.2.2 else if p.2.2 then 1 else 0)) ([], 0, 0)
  { writes := vblocks.map fun e =>
      let n := min 64 (4 * len - 64 * e.1)
      let els := (List.range (n / 4)).map fun i =>
        match tfind r.1 (16 * e.1 + i) with
        | some x => x
        | none => (e.2.headD 0 / 2 ^ (32 * i) % 2 ^ 32, (e.2.drop 1).contains (i / 2))
      let (v, bad) := packElems 32 els
      (vec, 64 * e.1, n, v, bad),
    flags := r.2.1, bad := r.2.2 }

/-- TPACK (R452). -/
def tpackOut (lb : BitVec 3) (kb : KBlk) (dst : Word) (buf : List (List Nat)) : TinkOut :=
  let rs := (pairsOf kb (joinBlocks buf)).map fun p =>
    let (b, f) := cvtBf (decodeF fp32 p.2.1)
    (p.1 % blkLen lb + 2 ^ 16 * b, f, p.2.2)
  { writes := writesOf dst 32 (rs.map fun r => (r.1, r.2.2)), flags := rs.foldl (fun f r => f ||| r.2.1) 0,
    bad := if rs.any (fun r => r.2.2) then 1 else 0 }

/-- TUNPK (R452). -/
def tunpkOut (lb : BitVec 3) (kb : KBlk) (dst : Word) (buf : List (List Nat)) : TinkOut :=
  let j := joinBlocks buf
  let k := kb.k1.toNat + 1
  let rs := (List.range (KBlk.entries kb)).map fun e =>
    let (v, bad) := elemAt j 32 e
    let (x, f) := if bad then (canonNaN fp32, 0) else quiet32 (v / 2 ^ 16 * 2 ^ 16)
    let off := if bad then 0 else v % 2 ^ 16 % blkLen lb
    (e / k * blkLen lb + off + 2 ^ 32 * x, f, bad)
  { writes := writesOf dst 64 (rs.map fun r => (r.1, r.2.2)), flags := rs.foldl (fun f r => f ||| r.2.1) 0,
    bad := if rs.any (fun r => r.2.2) then 1 else 0 }

/-- What a tinker command writes. -/
def tinkOut (i : Instr) (buf : List (List Nat)) : TinkOut :=
  match i with
  | .ttopk _ lb res kb _ r out => ttopkOut lb res kb r out buf
  | .tspadd _ kb _ len vec => tspaddOut kb len.toNat vec buf
  | .tpack _ lb kb _ dst => tpackOut lb kb dst buf
  | .tunpk _ lb kb _ dst => tunpkOut lb kb dst buf
  | _ => { writes := [], flags := 0, bad := 0 }

/-- A block of an operand read: of the private buffer when BUF is set, else of memory. -/
def State.tinkRead (s : State) (cl : Nat) (c : Cmd) (op : Word) (off n : Nat) : Except (Word × Word) (Nat × List Nat × State) :=
  if op.getLsbD 63 then
    let pa := tinkPa cl + op.toNat % 2 ^ 16 + off
    .ok (s.rd pa n, s.badIdx pa n, s)
  else s.cmdBlock c (op + BitVec.ofNat 64 off) n

/-- A block of an operand written. -/
def State.tinkWrite (s : State) (cl : Nat) (c : Cmd) (op : Word) (off n v : Nat) (bad : List Nat) : Except (Word × Word) State :=
  if op.getLsbD 63 then .ok (s.putMarked [(tinkPa cl + op.toNat % 2 ^ 16 + off, n)] v bad)
  else s.cmdWrite c (op + BitVec.ofNat 64 off) n v bad

/-- The step of a command in its present inner command (R454). -/
def Cmd.innerStep (c : Cmd) : Nat := c.step % 2 ^ 20

/-- The reads of an inner command from its step on. -/
def State.tinkLoad (s : State) (cl : Nat) (c : Cmd) (i : Instr) : Nat → Cmd × State × Bool
  | 0 => (c, s, false)
  | fuel + 1 =>
    match (tinkReads i c.buf)[c.innerStep]? with
    | none => ({ c with rowsR := c.innerStep, rowsW := 1 }, s, true)
    | some (op, off, n) => match s.tinkRead cl c op off n with
      | .error (va, x) => (c, s.suspendCmd cl c va x, false)
      | .ok (v, bad, s) => State.tinkLoad s cl { c with buf := c.buf ++ [v :: bad], step := c.step + 1 } i fuel

/-- The writes of an inner command from its step on. -/
def State.tinkPut (s : State) (cl : Nat) (c : Cmd) : List (Word × Nat × Nat × Nat × List Nat) → Cmd × State × Bool
  | [] => (c, s, true)
  | (op, off, n, v, bad) :: r => match s.tinkWrite cl c op off n v bad with
    | .error (va, x) => (c, s.suspendCmd cl c va x, false)
    | .ok s => State.tinkPut s cl { c with step := c.step + 1 } r

/-- One inner command, or a command by itself, with what it adds to flags and status (R453). -/
def State.tinkOne (s : State) (cl : Nat) (c : Cmd) (i : Instr) : Cmd × State × Bool :=
  let (c, s, ok) := if c.rowsW = 0 then s.tinkLoad cl c i 5000000 else (c, s, true)
  if !ok then (c, s, false)
  else
    let out := tinkOut i c.buf
    let (c, s, ok) := s.tinkPut cl c (out.writes.drop (c.innerStep - c.rowsR))
    if !ok then (c, s, false)
    else
      let c := { c with flags := c.flags ||| out.flags.zeroExtend 7 ||| (if out.bad ≠ 0 then 0x20 else 0) }
      let st := if out.bad ≠ 0 then 4 else if out.flags ≠ 0 then 1 else 0
      (if c.status = 0 then { c with status := st, detail := out.bad } else c, s, true)

/-- A tinker command from its step on: the inner commands of a TLINK in list order through the private buffer, which
reads as +0 at its start and does not outlive it (R453). -/
def State.tinkRun (s : State) (cl : Nat) (c : Cmd) : List Instr → State
  | [] => (if c.inner = [] then s else s.zero (tinkPa cl) 0x10000).complete cl c
  | i :: r =>
    let s := if c.step = 0 ∧ c.inner ≠ [] ∧ c.rowsW = 0 then s.zero (tinkPa cl) 0x10000 else s
    let (c, s, ok) := s.tinkOne cl c i
    if ok then State.tinkRun s cl { c with step := (c.step / 2 ^ 20 + 1) * 2 ^ 20, buf := [], rowsR := 0, rowsW := 0 } r
    else s

/-- The inner commands still to run. -/
def Cmd.todo (c : Cmd) : List Instr := (if c.inner = [] then [c.ins] else c.inner).drop (c.step / 2 ^ 20)

/-- What a transform-unit or tinker command does at present. -/
def State.unitStep (s : State) (cl : Nat) (c : Cmd) : State :=
  if c.susp.isSome then s
  else if c.eng = 1 then match specOf c.ins with
    | some p => s.specRun cl c p 1200
    | none => s
  else s.tinkRun cl c c.todo

/-- The next command of the transform unit or tinker starts when the one before it is complete (R219, R454). -/
def State.unitStart (s : State) (cl eng : Nat) : State :=
  let k := s.clusterSt cl
  match k.queues.toList.getD eng [] with
  | [] => s
  | c :: rest =>
    if s.running cl eng ≠ [] ∨ s.canStart cl s.cycle c = false then s
    else
      let c := { c with start := some s.cycle }
      (s.modCluster cl fun k => { k with queues := k.queues.set! eng rest, running := k.running ++ [c] }).post
        (.tileCommandComplete cl eng c.ticket)

end Sys2Proof.Machine
end

