-- ==== Sys2Proof/Machine/Engines.lean ====
section
/-! DEFINITION. The lease, ENQ and its checks, EFENCE, ERES, the tile commands and the events of their engines (spec 04
R94 to R97; 08 R178 to R182; 09 R190 to R197, R204, R205; 10 R214, R222; 21 R368 to R371; 22 R385 to R406; 24 R429 to
R454). -/

namespace Sys2Proof.Machine

/-! ### The lease (R190, R191, R395) -/

/-- The pending MLEASE that wins: the highest `sprio`, the earliest among equals. -/
def State.leaseWinner (s : State) : List Nat → Option Nat
  | [] => none
  | a :: r => match State.leaseWinner s r with
    | none => some a
    | some b => if (s.slot a).sprio.toNat < (s.slot b).sprio.toNat then some b else some a

/-- A lease granted to a slot. -/
def State.grantLease (s : State) (cl sid : Nat) : State :=
  s.modCluster cl fun k => { k with holder := some sid, leaseCount := 0, leaseWaits := k.leaseWaits.filter (· != sid) }

/-- A lease ends: the winner is granted it; with none pending, `again` is. -/
def State.endLease (s : State) (cl : Nat) (again : Option Nat) : State :=
  match (s.leaseWinner (s.clusterSt cl).leaseWaits).or again with
  | some w => s.grantLease cl w
  | none => s.modCluster cl fun k => { k with holder := none, leaseCount := 0 }

/-- MLEASE (R190). -/
def execMlease (s : State) : Outcome :=
  s.clusterOnly .mlease fun _ =>
    let cl := s.cluster
    let k := s.clusterSt cl
    if k.holder = some s.sid then s.ret
    else if k.holder = none then (s.grantLease cl s.sid).ret
    else .done ((s.modCluster cl fun k =>
      { k with leaseWaits := if k.leaseWaits.contains s.sid then k.leaseWaits else k.leaseWaits ++ [s.sid] }).upd (·.parkRetry true))

/-- MREL (R190). -/
def execMrel (s : State) : Outcome :=
  s.clusterOnly .mrel fun _ =>
    (if (s.clusterSt s.cluster).holder = some s.sid then s.endLease s.cluster none else s).ret

/-! ### Operands of a command (R195, R205, R222, R454) -/

/-- The weight-buffer offset of a command and the bytes it covers (R194, R430). -/
def Cmd.weights (c : Cmd) : Option (Nat × Nat) := match c.ins with
  | .mma _ _ _ form _ _ _ off | .mwld _ form _ off => some (off.toNat, bStored (fmtB c.fmt) form.toNat)
  | .scmm _ _ d _ off _ => some (off.toNat, imageBytes d)
  | _ => none

/-- The fold word of an MSTC. -/
def Cmd.foldAt (c : Cmd) : Option Word := match c.ins with
  | .mstc _ _ fold _ _ fw _ _ => if fold then some (va57 fw) else none
  | _ => none

/-- Operands of a tinker command in memory or buffer, in the order of their words (R449, R454). -/
def tinkOperands : Instr → List Operand
  | .ttopk _ lb res kb x r out =>
    let n := 4 * (kb.n1.toNat + 1) * blkLen lb
    [{ word := 1, a := x, n := n, write := false, loc := false }] ++ (if res then [{ word := 2, a := r, n := n, write := false, loc := false }] else [])
      ++ [{ word := 3, a := out, n := 8 * KBlk.entries kb, write := true, loc := false }]
  | .tspadd _ kb p len v =>
    [{ word := 1, a := p, n := 8 * KBlk.entries kb, write := false, loc := false }, { word := 3, a := v, n := 4 * len.toNat, write := true, loc := false }]
  | .tpack _ _ kb a b =>
    [{ word := 1, a := a, n := 8 * KBlk.entries kb, write := false, loc := false }, { word := 3, a := b, n := 4 * KBlk.entries kb, write := true, loc := false }]
  | .tunpk _ _ kb a b =>
    [{ word := 1, a := a, n := 4 * KBlk.entries kb, write := false, loc := false }, { word := 3, a := b, n := 8 * KBlk.entries kb, write := true, loc := false }]
  | _ => []

/-- The smallest range that covers all, none of nothing. -/
def hull : List Range → Option Range
  | [] => none
  | r :: rs => match hull rs with
    | none => some r
    | some h => some ⟨min r.lo h.lo, max r.hi h.hi⟩

/-- Memory ranges that operands read or write; a residual of TTOPK is both. -/
def tinkRanges (is : List Instr) (write : Bool) : List Range :=
  is.flatMap fun i =>
    let ops := tinkOperands i
    let resid := match i with | .ttopk _ _ true _ _ r _ => ops.filter fun o => o.a == r | _ => []
    ((ops.filter fun o => o.write == write) ++ (if write then resid else [])).filterMap fun o =>
      if o.a.getLsbD 63 then none else some ⟨o.a.toNat, o.a.toNat + o.n⟩

/-- The exponent plane that is a read region of a command: R205 gives MPERM none beside its A operand and index vector. -/
def Cmd.planeFoot (c : Cmd) : Option (Nat × Nat) := match c.ins with
  | .mperm _ _ _ _ _ _ _ => none
  | _ => c.plane

/-- Bytes from its destination that the footprint of an MSTC covers: 63 × ST3 + RBS, extended by 256 for a DX format, as R205
gives them, also where ST3 is above RBS and the plane ends beyond (log entry 97). -/
def Cmd.footBytes (c : Cmd) (o : Operand) : Nat := match c.ins with
  | .mstc _ _ _ _ _ _ _ st3 =>
    let rb := rowBytes (mstcCode c)
    63 * stride st3 rb + rb + (if isDx (mstcCode c) then 256 else 0)
  | _ => o.n

/-- A command's footprint in bytes: read regions and write region (R205, R222, R454). -/
def Cmd.foot (c : Cmd) : List Range × Option Range :=
  let ls := lsBase.toNat
  let rng := fun (o : Operand) => (⟨o.a.toNat, o.a.toNat + c.footBytes o⟩ : Range)
  match c.ins with
  | .tlink _ n list =>
    (⟨(va57 list).toNat, (va57 list).toNat + 32 * (n.toNat + 1)⟩ :: (hull (tinkRanges c.inner false)).toList,
      hull (tinkRanges c.inner true))
  | .ttopk _ _ _ _ _ _ _ | .tspadd _ _ _ _ _ | .tpack _ _ _ _ _ | .tunpk _ _ _ _ _ =>
    (tinkRanges [c.ins] false, hull (tinkRanges [c.ins] true))
  | _ =>
    ((c.operands.filter fun o => !o.write).map rng
        ++ c.planeFoot.toList.map (fun p => ⟨ls + p.1, ls + p.1 + p.2⟩)
        ++ c.scales.map (fun o => ⟨ls + o, ls + o + 256⟩),
      ((c.operands.filter fun o => o.write).map rng).head?)

/-- A range in 64-byte blocks. -/
def Range.blocks (r : Range) : Range := ⟨r.lo / 64, (r.hi + 63) / 64⟩

/-! ### The checks of ENQ (R94, R95, R194, R214, R385 to R387, R429, R430, R449, R450) -/

/-- The first trap whose check fails. -/
def firstFail : List (Bool × Trap) → Option Trap
  | [] => none
  | (bad, t) :: r => if bad then some t else firstFail r

/-- An address in the own local-store or own vault window (R386; log entry 19). -/
def ownWindow (a : Word) : Bool := decide (0xF000000000 ≤ a.toNat ∧ a.toNat < 0xF200000000)

/-- Cause 5 or 7 by direction. -/
def faultOf (write : Bool) (a : Word) (d : Word := 0) : Trap := Trap.sync (if write then 7 else 5) a d
/-- Cause 4 or 6 by direction. -/
def alignOf (write : Bool) (a : Word) (d : Word := 0) : Trap := Trap.sync (if write then 6 else 4) a d

/-- An operand crosses the end of its window's extent (R61, R194). -/
def State.crosses (s : State) (ctx : Ctx) (a : Word) (n : Nat) : Bool := ownWindow a && (s.window ctx a.toNat n).isNone

/-- A memory operand in a refused window (R386): its trap. -/
def refused (level : Level) (o : Operand) : List (Bool × Trap) :=
  [(inWindows o.a && !ownWindow o.a, faultOf o.write o.a),
   (inPhysWindow o.a && level == .task, faultOf o.write o.a (detail 7 0))]

/-- A format code 7 is selected, or a field is set that needs a DX format (R194, R385). -/
def Cmd.fmtBad (c : Cmd) : Bool :=
  let a := fmtA c.fmt
  let b := fmtB c.fmt
  match c.ins with
  | .mma _ _ _ _ x _ _ _ => a == 7 || b == 7 || (!isDx a && x != 0)
  | .mtrn _ _ x _ _ | .mperm _ _ _ x _ _ _ | .mrsum _ _ _ _ x _ _ => a == 7 || (!isDx a && x != 0)
  | .mldv _ _ xd xsel x _ => a == 7 || (!isDx a && (x != 0 || xd || xsel))
  | .mvb _ _ _ _ _ | .mwld _ _ _ _ => b == 7
  | .mstc _ _ _ _ _ _ _ _ => mstcCode c == 7
  | _ => false

/-- ktval2 of a check of R194: the number of the word concerned. -/
def wordNo (k : Nat) : Word := BitVec.ofNat 64 k

/-- The checks of an array command after its layout (R194, R387, R214, R430). -/
def State.arrayChecks (s : State) (ctx : Ctx) (c : Cmd) : List (Bool × Trap) :=
  let w0 := tileW c.w 0
  let w2 := tileW c.w 2
  let ls := fun (o : Nat) => lsBase + BitVec.ofNat 64 o
  let ops := c.operands
  [(c.fmtBad, Trap.sync 2 w0)]
    ++ (ops.filter (·.loc)).map (fun o => (!ownWindow o.a, faultOf false o.a (wordNo o.word)))
    ++ ops.map (fun o => (o.a.toNat % 64 != 0, alignOf o.write o.a (wordNo o.word)))
    ++ c.scales.map (fun o => (o % 4 != 0, alignOf false (ls o)))
    ++ c.foldAt.toList.map (fun a => (a.toNat % 4 != 0, alignOf true a (wordNo 2)))
    ++ ops.map (fun o => (s.crosses ctx o.a o.n, faultOf o.write o.a (wordNo o.word)))
    ++ c.scales.map (fun o => (decide (0x20000 < o + 256), faultOf false (ls o)))
    ++ c.foldAt.toList.map (fun a => (s.crosses ctx a 4, faultOf true a (wordNo 2)))
    ++ c.weights.toList.map (fun p => (p.1 % 64 != 0 || decide (0x100000 < p.1 + p.2), Trap.sync 11 w2 (wordNo 2)))
    ++ c.plane.toList.flatMap (fun p => [(p.1 % 4 != 0, alignOf false (ls p.1)), (decide (0x20000 < p.1 + p.2), faultOf false (ls p.1))])
    ++ (match c.ins with
      | .mstc _ _ _ _ _ _ _ st3 => [(st3 != 0 && decide (st3.toNat * 64 < rowBytes (mstcCode c)), Trap.sync 11 (tileW c.w 3))]
      | _ => [])
    ++ (ops.filter fun o => !o.loc).flatMap (refused c.level)
    ++ c.foldAt.toList.flatMap (fun a => refused c.level { word := 2, a := a, n := 4, write := true, loc := false })

/-- The checks of a transform-unit command after its layout (R214). -/
def unitChecks (c : Cmd) : List (Bool × Trap) :=
  let ops := c.operands
  (match specOf c.ins with
    | some p => [(decide (32768 < p.d.nb * p.d.nv * p.d.b), Trap.sync 11 (tileW c.w 0))]
    | none => [])
    ++ ops.map (fun o => (o.a.toNat % 64 != 0, alignOf o.write o.a))
    ++ ops.flatMap (refused c.level)

/-- LEN of a TSPADD is zero. -/
def lenZero : Instr → Bool
  | .tspadd _ _ _ len _ => len == 0
  | _ => false

/-- The number of the word that holds a BUF operand, none where there is none (R449). -/
def bufWord (w : BitVec 256) : Option Nat := ([1, 2, 3].find? fun k => (tileW w k).getLsbD 63)

/-- The checks of a tinker command's operands (R450). -/
def State.tinkChecks (s : State) (ctx : Ctx) (level : Level) (ops : List Operand) : List (Bool × Trap) :=
  ops.map (fun o => (o.a.toNat % 64 != 0, alignOf o.write o.a))
    ++ ops.flatMap (fun o => refused level o ++ [(s.crosses ctx o.a o.n, faultOf o.write o.a (detail 9 0))])

/-- An inner word of a TLINK that breaks a rule (R450). -/
def State.innerBad (s : State) (ctx : Ctx) (level : Level) (w : BitVec 256) : Option Instr :=
  let h := tileHdr w
  let opc := (tileOpc w).toNat
  match decodeTile w with
  | .error _ => none
  | .ok i =>
    let ops := tinkOperands i
    let mem := ops.filter fun o => !o.a.getLsbD 63
    let buf := ops.filter fun o => o.a.getLsbD 63
    if opc < 0x40 ∨ 0x43 < opc ∨ h.wait ≠ 0 ∨ h.s1 ≠ 0 ∨ h.s2 ≠ 0 ∨ h.s3 ≠ 0 then none
    else if lenZero i || (firstFail (s.tinkChecks ctx level mem)).isSome
        || buf.any (fun o => o.a.toNat % 64 != 0 || decide (0x10000 < o.a.toNat % 2 ^ 16 + o.n)) then none
    else some i

/-- The inner words of a TLINK, decoded in list order; or the trap of the first that breaks a rule. -/
def State.innerWords (s : State) (ctx : Ctx) (level : Level) : Nat → List (BitVec 256) → Except Trap (List Instr)
  | _, [] => .ok []
  | k, w :: r => match s.innerBad ctx level w with
    | none => .error (Trap.sync 2 (tileW w 0) (BitVec.ofNat 64 (0x100 + k)))
    | some i => match State.innerWords s ctx level (k + 1) r with
      | .error t => .error t
      | .ok l => .ok (i :: l)

/-- The list of a TLINK as local store holds it, poisoned words read as 0 (R280, R450). -/
def State.linkList (s : State) (core : Nat) (a : Word) (n : Nat) : List (BitVec 256) :=
  (List.range n).map fun k => BitVec.ofNat 256 (s.rdClean (lsPa core + (a.toNat - lsBase.toNat) + 32 * k) 32)

/-- The engine checks of a decoded command; a TLINK gets its inner commands. -/
def State.engineChecks (s : State) (ctx : Ctx) (c : Cmd) : Except Trap Cmd :=
  let w0 := tileW c.w 0
  match c.eng with
  | 0 => match firstFail (s.arrayChecks ctx c) with
    | some t => .error t
    | none => .ok c
  | 1 => match firstFail (unitChecks c) with
    | some t => .error t
    | none => .ok c
  | _ =>
    match c.ins with
    | .tlink _ n list =>
      let a := va57 list
      let len := 32 * (n.toNat + 1)
      match firstFail ((a.toNat % 32 != 0, alignOf false a)
          :: refused c.level { word := 1, a := a, n := len, write := false, loc := false }
          ++ [(s.crosses ctx a len, faultOf false a (detail 9 0)),
              (!decide (0xF000000000 ≤ a.toNat ∧ a.toNat + len ≤ 0xF000020000), Trap.sync 5 (tileW c.w 1))]) with
      | some t => .error t
      | none => match s.innerWords ctx c.level 0 (s.linkList ctx.core a (n.toNat + 1)) with
        | .error t => .error t
        | .ok l => .ok { c with inner := l }
    | i =>
      match (match bufWord c.w with
          | some k => some (Trap.sync 2 w0 (BitVec.ofNat 64 k))
          | none => if lenZero i then some (Trap.sync 11 (tileW c.w 2)) else firstFail (s.tinkChecks ctx c.level (tinkOperands i))) with
      | some t => .error t
      | none => .ok c

/-- The command word with S1 to S3 applied (R94). -/
def Slot.substitute (sl : Slot) (w : BitVec 256) : BitVec 256 :=
  let h := tileHdr w
  let sub := fun (k : Nat) (r : BitVec 5) =>
    if r = 0 then tileW w k else tilePch w k ++ (sl.rx r).extractLsb' 0 57
  encTile (tileW w 0) (sub 1 h.s1) (sub 2 h.s2) (sub 3 h.s3)

/-- A command of a slot as ENQ samples it (R193). -/
def State.sampleCmd (s : State) (sid eng : Nat) (w : BitVec 256) (i : Instr) : Cmd :=
  let sl := s.slot sid
  { ticket := 0, sid := sid, eng := eng, w := w, ins := i, inner := [], fmt := sl.fmt, sptra := sl.sptra, sptrb := sl.sptrb,
    dxe := sl.dxe, ckchk := sl.ckchk, asid := sl.asid, ptb := sl.ptbase, level := sl.level,
    dom := match sl.doms with | [] => 0 | d :: _ => d.serial,
    accepted := s.cycle, ready := if s.unreleased (coreOf sid) 2 then none else some s.cycle,
    start := none, endAt := none, rowsR := 0, rowsW := 0, buf := [], step := 0, fold := 0, vec := [], e := 0, flags := 0, poisonOp := 0,
    status := 0, detail := 0, susp := none, held := false, checked := false }

/-- A command accepted: its footprint in the tracker, its word in the queue, a record reserved (R178, R192, R369). -/
def State.acceptCmd (s : State) (c : Cmd) : State :=
  let cl := clusterOf (coreOf c.sid)
  let s := if c.eng = 0 then s.arrayRun cl else s
  let (rs, w) := c.foot
  let (t, s) := s.enterTrack cl (rs.map (·.blocks)) (w.map (·.blocks))
  let s := s.modCluster cl fun k =>
    { k with queues := k.queues.set! c.eng (k.queues.toList.getD c.eng [] ++ [{ c with ticket := t }]) }
  let s := s.modSlot c.sid fun sl =>
    let f := sl.fifos.toList.getD c.eng ResFifo.init
    { sl with fifos := sl.fifos.set! c.eng { f with reserved := f.reserved + 1 } }
  if s.agenda.contains (.tileCommandStart cl c.eng) then s else s.post (.tileCommandStart cl c.eng)

/-- COUNT counts an accepted array command; the 32nd ends the lease (R191). -/
def State.countLease (s : State) (cl sid : Nat) : State :=
  let n := (s.clusterSt cl).leaseCount + 1
  if n = 32 then s.endLease cl (some sid) else s.modCluster cl fun k => { k with leaseCount := n }

/-- The address at which a command's write footprint meets a protected range (R271, R273, R369). -/
def State.footProtected (s : State) (ctx : Ctx) (c : Cmd) : Option Word :=
  match c.foot.2 with
  | none => none
  | some r => s.protectedAt ctx (BitVec.ofNat 64 r.lo) (r.hi - r.lo)

/-- The first poisoned word of a TLINK's list, met by the slot as it issues ENQ. -/
def State.listPoison (s : State) (core : Nat) (i : Instr) : Option Word := match i with
  | .tlink _ n list =>
    let pa := lsPa core + ((va57 list).toNat - lsBase.toNat)
    if decide (0xF000000000 ≤ (va57 list).toNat ∧ (va57 list).toNat + 32 * (n.toNat + 1) ≤ 0xF000020000) then
      ((List.range (4 * (n.toNat + 1))).find? fun k => s.bad (pa / 8 + k)).map fun k => va57 list + BitVec.ofNat 64 (8 * k)
    else none
  | _ => none

/-- ENQ after the decode check: engine checks, protection, parks, acceptance (R369). -/
def State.enqueue (s : State) (eng : Nat) (w : BitVec 256) (i : Instr) : Res :=
  let ctx := { s.ctx s.sid with thread := false }
  let go := fun (s : State) => match s.engineChecks ctx (s.sampleCmd s.sid eng w i) with
    | .error t => Res.trap t
    | .ok c =>
      match s.footProtected ctx c with
      | some a => .trap (Trap.sync 7 a (detail 8 0))
      | none =>
        if !s.enqRoom eng then .park true
        else
          let s' := s.acceptCmd c
          (if eng = 0 then s'.countLease s.cluster s.sid else s').ret
  match s.listPoison s.core i with
  | none => go s
  | some va => match s.consume s.sid va with
    | .abort s => .done s
    | .trap t => .trap t
    | .held _ s => go s
    | .zero s => go s

/-- ENQ (R369). -/
def execEnq (q : QReg) (vs2 : VReg) (s : State) : Outcome :=
  s.clusterOnly (.enq q vs2) fun _ =>
    let sl := s.me
    let n := q.toNat
    let b := sl.qb n
    if qKind b ≠ 2 ∨ s.breaksRow s.sid b = true then .trap (Trap.sync 11 (BitVec.ofNat 64 n))
    else
      let w := sl.substitute ((sl.rv vs2).extractLsb' 0 256)
      let w0 := tileW w 0
      let eng := qSub b
      if tileHeadOk w = false ∨ tileEngine (tileOpc w) ≠ some eng then .trap (Trap.sync 2 w0)
      else if eng = 2 ∧ (s.coreSt s.core).trel = true then .trap (Trap.sync 11 (BitVec.ofNat 64 n))
      else if eng = 0 ∧ (s.clusterSt s.cluster).holder ≠ some s.sid then .trap (Trap.sync 20 w0)
      else match decodeTile w with
        | .error .head => .trap (Trap.sync 2 w0)
        | .error (.field k) => .trap (Trap.sync 2 w0 (BitVec.ofNat 64 k))
        | .ok i => s.enqueue eng w i

/-! ### EFENCE (R182, R368) -/

/-- EFENCE: waits for every outstanding entry of the cluster's tracker that meets the range. -/
def execEfence (rs1 rs2 : XReg) (s : State) : Outcome :=
  s.clusterOnly (.efence rs1 rs2) fun _ =>
    let a := (s.me.rx rs1).toNat
    let n := (s.me.rx rs2).toNat
    if n = 0 then s.ret
    else if 2 ^ 57 < a + n then .trap (Trap.sync 11 (s.me.rx rs1))
    else
      let r := blocksOf a n
      if (s.clusterSt s.cluster).tracker.any fun e => e.reads.any r.meets || e.write.toList.any r.meets then .park true
      else s.ret

/-! ### ERES (R370, R371) -/

/-- A copy or stream of a slot that is suspended on a porter channel, or a command suspended or held. -/
inductive Work where
  | cmd (cl : Nat) (c : Cmd)
  | held (cl : Nat) (c : Cmd)
  | copy (core ch : Nat) (c : Copy)
  | stream (sid q : Nat) (t : Stream)
deriving DecidableEq, Repr

/-- The work a selector names, in the team of the issuing slot's `teamctx`. -/
def State.workOf (s : State) (v : Word) : Option Work :=
  let alt := v.getLsbD 15
  let idx := v.field 16 16
  let eng := v.field 4 2
  let ch := v.field 8 2
  let core := if alt then
      match (s.teamBySave s.me.teamctx).bind s.team? with
      | some t => (t.place[idx / 16]?).map fun ph => ph * 16 + idx % 16
      | none => none
    else some s.core
  if v.extractLsb' 32 32 ≠ 0 ∨ v.extractLsb' 10 5 ≠ 0 ∨ v.getLsbD 7 = true ∨ (alt = false ∧ idx ≠ 0) ∨ (eng ≠ 3 ∧ ch ≠ 0) then none
  else core.bind fun k =>
    let sid := k * 16 + v.field 0 4
    let cl := clusterOf k
    if eng = 3 then
      match (((s.coreSt k).chans.toList.getD ch []).head?).filter fun c => c.susp.isSome && c.sid == sid with
      | some c => some (.copy k ch c)
      | none => ((s.slot sid).streams.find? fun e => e.2.susp.isSome && e.2.flags / 4 % 4 == ch).map fun e => .stream sid e.1 e.2
    else match (s.running cl eng).find? fun c => c.susp.isSome && c.sid == sid with
      | some c => some (.cmd cl c)
      | none => (((s.clusterSt cl).queues.toList.getD eng []).head?.filter fun c => c.held && c.sid == sid).map fun c => .held cl c

/-- A suspended array command goes on: SCMM forms the pass of its step anew from this cycle (R431). -/
def State.resumeArray (s : State) (cl : Nat) (c : Cmd) : State :=
  match c.ins with
  | .scmm _ _ d _ _ _ =>
    let k := c.step - 1
    if c.step = d.b / 4 + 1 then s.scmmLast cl c
    else
      let s0 := s.cycle - 64 * k
      (s.setRun cl { c with start := some s0 }).modCluster cl fun k =>
        { k with unitFree := k.unitFree.set! 0 (s0 + c.occ) }
  | _ => s

/-- ERES on one piece of work. -/
def State.release (s : State) (abandon : Bool) : Work → State
  | .held cl c =>
    if abandon then (s.report cl c 2 0 c.endFlags).2
    else (s.modCluster cl fun k => { k with
      lastStart := some s.cycle,
      queues := k.queues.map fun (q : List Cmd) => q.map fun (o : Cmd) =>
        if o.ticket = c.ticket then { o with held := false, checked := true } else o })
  | .cmd cl c =>
    if abandon then
      let s := if c.eng = 0 ∧ c.open? = true then s.freeLoader cl c else s
      (s.report cl c 2 (c.step % 2 ^ 24) c.endFlags).2
    else
      let c := { c with susp := none }
      let s := (s.setRun cl c).post (.tileCommandComplete cl c.eng c.ticket)
      if c.eng = 0 then s.resumeArray cl c else s
  | .copy core ch c =>
    if abandon then s.abandonCopy core ch c
    else (s.setHead core ch { c with susp := none }).kick core ch
  | .stream sid q t =>
    if abandon then s.setStream sid q { t with susp := none, bad := true, ahead := [] }
    else (s.setStream sid q { t with susp := none }).feed sid q

/-- ERES (R370, R371): retires at once. -/
def execEres (rs1 : XReg) (s : State) : Outcome :=
  s.kernelOnly (.eres rs1) fun _ =>
    let v := s.me.rx rs1
    let cl := s.cluster
    let s := if isChan s.core then s else s.arrayRun cl
    match s.workOf v with
    | none => .trap (Trap.sync 11 v)
    | some w => (s.release (v.getLsbD 6) w).ret

/-! ### The engines' events -/

/-- TILE_COMMAND_START (R202): the engine starts what may start; it is asked again while its queue holds a command. -/
def execTileCommandStart (cluster eng : Nat) (s : State) : Outcome :=
  let s := s.markReady cluster eng
  let s := if eng = 0 then s.arrayRun cluster else s.unitStart cluster eng
  .next (if (s.clusterSt cluster).queues.toList.getD eng [] = [] ∨ s.agenda.contains (.tileCommandStart cluster eng) = true then s
    else s.post (.tileCommandStart cluster eng))

/-- TILE_COMMAND_COMPLETE (R389): the command goes on as far as it can, and reports once all its writes are performed;
a suspended one waits for ERES. -/
def execTileCommandComplete (cluster eng ticket : Nat) (s : State) : Outcome :=
  let s := if eng = 0 then s.arrayRun cluster else s
  let s := match s.runCmd cluster ticket with
    | none => s
    | some c => if eng = 0 then s.loaderStep cluster c else s.unitStep cluster c
  .next (match s.runCmd cluster ticket with
    | none => s
    | some c => if c.susp.isSome || s.agenda.contains (.tileCommandComplete cluster eng ticket) then s
      else s.post (.tileCommandComplete cluster eng ticket))

/-! ### The tile commands -/

/-- The array goes on by itself, cycle by cycle, until a command is reported, suspended or held; n cycles at most. -/
def State.drive (s : State) (cl ticket : Nat) : Nat → State
  | 0 => s
  | n + 1 =>
    let t := (s.clusterSt cl).aclock
    let s := match s.runCmd cl ticket with | some c => s.loaderStep cl c | none => s
    let s := (s.arrayCycle cl t).modCluster cl fun k => { k with aclock := t + 1 }
    match s.runCmd cl ticket with
    | none =>
      if ((s.clusterSt cl).queues.toList.getD 0 []).any (fun c => c.ticket == ticket && !c.held) then State.drive s cl ticket n else s
    | some c => if c.susp.isSome then s else State.drive s cl ticket n

/-- A tile command as one step: it is accepted for the slot whose turn it is, as ENQ accepts it, and its engine then runs
it whole, to its record or to a fault; behind other commands it takes its place in the queue (log entry 21). -/
def State.tile (s : State) (i : Instr) : Outcome :=
  match encodeTile i with
  | none => .next s
  | some w =>
    let eng := (tileEngine (tileOpc w)).getD 0
    if isChan s.core then .next (s.trap (Trap.sync 2 (tileW w 0)))
    else
      let ctx := { s.ctx s.sid with thread := false }
      let c := s.sampleCmd s.sid eng w i
      let c : Cmd := match i with
        | .tlink _ n list => match s.innerWords ctx c.level 0 (s.linkList s.core (va57 list) (n.toNat + 1)) with
          | .ok l => { c with inner := l }
          | .error _ => c
        | _ => c
      let cl := s.cluster
      let t := (s.clusterSt cl).nextTicket
      let s := s.acceptCmd c
      .next (if eng = 0 then s.drive cl t 100000
        else
          let s := s.unitStart cl eng
          match s.runCmd cl t with
          | some c => s.unitStep cl c
          | none => s)

/-- MMA (R396). -/
def execMma (h : TileHdr) (bank : BitVec 2) (acc : Bool) (bform : BitVec 2) (xexp : BitVec 17) (a : BitVec 57) (st1 : BitVec 7) (woff : BitVec 57) (s : State) : Outcome :=
  s.tile (.mma h bank acc bform xexp a st1 woff)
/-- MVB (R403). -/
def execMvb (h : TileHdr) (bank : BitVec 2) (acc : Bool) (vmask : BitVec 8) (tile : BitVec 57) (s : State) : Outcome :=
  s.tile (.mvb h bank acc vmask tile)
/-- MLDV (R394). -/
def execMldv (h : TileHdr) (vslot : BitVec 3) (xd xsel : Bool) (xexp : BitVec 17) (vec : BitVec 57) (s : State) : Outcome :=
  s.tile (.mldv h vslot xd xsel xexp vec)
/-- MWLD (R404). -/
def execMwld (h : TileHdr) (form : BitVec 2) (src woff : BitVec 57) (s : State) : Outcome :=
  s.tile (.mwld h form src woff)
/-- MZERO (R406). -/
def execMzero (h : TileHdr) (bank : BitVec 2) (s : State) : Outcome :=
  s.tile (.mzero h bank)
/-- MSTC (R400). -/
def execMstc (h : TileHdr) (bank : BitVec 2) (fold ovr : Bool) (sfmt : BitVec 3) (foldw dst : BitVec 57) (st3 : BitVec 7) (s : State) : Outcome :=
  s.tile (.mstc h bank fold ovr sfmt foldw dst st3)
/-- MTRN (R397). -/
def execMtrn (h : TileHdr) (bank : BitVec 2) (xexp : BitVec 17) (a : BitVec 57) (st1 : BitVec 7) (s : State) : Outcome :=
  s.tile (.mtrn h bank xexp a st1)
/-- MPERM (R397). -/
def execMperm (h : TileHdr) (bank : BitVec 2) (acc : Bool) (xexp : BitVec 17) (a : BitVec 57) (st1 : BitVec 7) (idx : BitVec 57) (s : State) : Outcome :=
  s.tile (.mperm h bank acc xexp a st1 idx)
/-- MRSUM (R397). -/
def execMrsum (h : TileHdr) (bank : BitVec 2) (acc : Bool) (seg : BitVec 3) (xexp : BitVec 17) (a : BitVec 57) (st1 : BitVec 7) (s : State) : Outcome :=
  s.tile (.mrsum h bank acc seg xexp a st1)
/-- SFFT (R216). -/
def execSfft (h : TileHdr) (shape : Shape) (src dst : BitVec 57) (s : State) : Outcome :=
  s.tile (.sfft h shape src dst)
/-- SIFFT (R216). -/
def execSifft (h : TileHdr) (shape : Shape) (src dst : BitVec 57) (s : State) : Outcome :=
  s.tile (.sifft h shape src dst)
/-- SCMM (R220). -/
def execScmm (h : TileHdr) (bank : BitVec 2) (shape : Shape) (src woff dst : BitVec 57) (s : State) : Outcome :=
  s.tile (.scmm h bank shape src woff dst)
/-- STAG_MODE_0 (R218). -/
def execStagMode0 (h : TileHdr) (et : BitVec 17) (shape : Shape) (src dst : BitVec 57) (s : State) : Outcome :=
  s.tile (.stagMode0 h et shape src dst)
/-- STAG_MODE_1 (R218). -/
def execStagMode1 (h : TileHdr) (shape : Shape) (src ref dst : BitVec 57) (s : State) : Outcome :=
  s.tile (.stagMode1 h shape src ref dst)
/-- STAG_MODE_2 (R218). -/
def execStagMode2 (h : TileHdr) (shape : Shape) (src dst : BitVec 57) (s : State) : Outcome :=
  s.tile (.stagMode2 h shape src dst)
/-- TTOPK (R451). -/
def execTtopk (h : TileHdr) (lb : BitVec 3) (res : Bool) (kb : KBlk) (x r out : Word) (s : State) : Outcome :=
  s.tile (.ttopk h lb res kb x r out)
/-- TSPADD (R452). -/
def execTspadd (h : TileHdr) (kb : KBlk) (pairs : Word) (len : BitVec 26) (vec : Word) (s : State) : Outcome :=
  s.tile (.tspadd h kb pairs len vec)
/-- TPACK (R452). -/
def execTpack (h : TileHdr) (lb : BitVec 3) (kb : KBlk) (src dst : Word) (s : State) : Outcome :=
  s.tile (.tpack h lb kb src dst)
/-- TUNPK (R452). -/
def execTunpk (h : TileHdr) (lb : BitVec 3) (kb : KBlk) (src dst : Word) (s : State) : Outcome :=
  s.tile (.tunpk h lb kb src dst)
/-- TLINK (R453). -/
def execTlink (h : TileHdr) (n1 : BitVec 4) (list : BitVec 57) (s : State) : Outcome :=
  s.tile (.tlink h n1 list)

end Sys2Proof.Machine
end

