-- ==== Sys2Proof/Machine/Frame.lean ====
section
/-! DEFINITION. The slot frame: where each register of a slot lies in it, for snapshots, CTXST and CTXLD (spec 12 R261;
13 R271, R272). -/

namespace Sys2Proof.Machine

/-- The control registers that a snapshot and a frame share, with their offsets (R261, R272). -/
def Slot.sharedWords (sl : Slot) : List (Nat × Word) :=
  [(0x110, sl.loopc), (0x118, sl.loops), (0x120, sl.loope), (0x128, sl.fmt), (0x130, sl.sptra), (0x138, sl.sptrb),
   (0x140, sl.rnd), (0x148, sl.fflags.zeroExtend 64), (0x1A8, sl.dxe), (0x1B0, sl.bsrd.zeroExtend 64),
   (0x1B8, sl.bswr.zeroExtend 64), (0x1C0, sl.sprio.zeroExtend 64), (0x1D8, if sl.ckchk then 1 else 0)]

/-- The control block, 0x100 to 0x1D8 (R261). -/
def Slot.ctlWords (sl : Slot) (pc kst : Word) : List (Nat × Word) :=
  [(0x100, pc), (0x108, kst)] ++ sl.sharedWords
    ++ [(0x150, BitVec.ofNat 64 sl.cdlvl), (0x198, sl.cbatch.zeroExtend 64), (0x1A0, sl.cdone.zeroExtend 64),
        (0x1C8, sl.step), (0x1D0, sl.leaderc)]
    ++ (List.range 8).map fun q => (0x158 + 8 * q, sl.qb q)

/-- The CSR that a word of a snapshot or control block belongs to. -/
def frameCsr (off : Nat) : Option Nat :=
  match off with
  | 0x110 => some 0x805 | 0x118 => some 0x806 | 0x120 => some 0x807 | 0x128 => some 0x800 | 0x130 => some 0x801
  | 0x138 => some 0x802 | 0x140 => some 0x803 | 0x148 => some 0x804 | 0x1A8 => some 0x818 | 0x1B0 => some 0x819
  | 0x1B8 => some 0x81A | 0x1C0 => some 0x81B | 0x1C8 => some 0x840 | 0x1D0 => some 0x841 | 0x1D8 => some 0x822
  | _ => none

/-- One word of a snapshot or control block goes back into its register as a CSR write puts it there (R57); pc and
kstatus are the caller's. -/
def Slot.setWord (sl : Slot) (off : Nat) (w : Word) : Slot :=
  if 0x158 ≤ off ∧ off < 0x198 then { sl with qbind := sl.qbind.set! ((off - 0x158) / 8) w }
  else match frameCsr off with
  | some n => sl.csrSet n w
  | none =>
    if off = 0x150 then { sl with cdlvl := w.toNat % 16 }
    else if off = 0x198 then { sl with cbatch := w.extractLsb' 0 32 }
    else sl

/-- The x registers that a mask word marks (R75). -/
def maskX (m : Word) : List Nat := ((List.range 32).drop 1).filter fun i => m.getLsbD i
/-- The v registers that a mask word marks. -/
def maskV (m : Word) : List Nat := (List.range 16).filter fun i => m.getLsbD (32 + i)
/-- The p registers that a mask word marks. -/
def maskP (m : Word) : List Nat := (List.range 8).filter fun i => m.getLsbD (48 + i)

/-- Registers that a mask marks as offset, bytes and value. -/
def Slot.maskedX (sl : Slot) (m : Word) : List (Nat × Nat × Nat) :=
  (maskX m).map fun i => (8 * i, 8, (sl.rx (BitVec.ofNat 5 i)).toNat)
def Slot.maskedV (sl : Slot) (m : Word) : List (Nat × Nat × Nat) :=
  (maskV m).map fun i => (0x200 + 64 * i, 64, (sl.rv (BitVec.ofNat 4 i)).toNat)
def Slot.maskedP (sl : Slot) (m : Word) : List (Nat × Nat × Nat) :=
  (maskP m).map fun i => (0x1E0 + 4 * i, 4, (sl.rp (BitVec.ofNat 3 i)).toNat)

/-- Registers that a mask marks taken from a frame given as a function of offset and bytes. -/
def Slot.loadX (sl : Slot) (m : Word) (f : Nat → Nat → Nat) : Slot :=
  (maskX m).foldl (fun sl i => sl.wx (BitVec.ofNat 5 i) (BitVec.ofNat 64 (f (8 * i) 8))) sl
def Slot.loadV (sl : Slot) (m : Word) (f : Nat → Nat → Nat) : Slot :=
  (maskV m).foldl (fun sl i => sl.wv (BitVec.ofNat 4 i) (BitVec.ofNat 512 (f (0x200 + 64 * i) 64))) sl
def Slot.loadP (sl : Slot) (m : Word) (f : Nat → Nat → Nat) : Slot :=
  (maskP m).foldl (fun sl i => sl.wp (BitVec.ofNat 3 i) (BitVec.ofNat 32 (f (0x1E0 + 4 * i) 4))) sl

/-- Items of a frame written into physical memory at an address. -/
def State.putItems (s : State) (pa : Nat) (l : List (Nat × Nat × Nat)) : State :=
  l.foldl (fun s e => s.put (pa + e.1) e.2.1 e.2.2) s

/-- Words of a frame as items. -/
def items (l : List (Nat × Word)) : List (Nat × Nat × Nat) := l.map fun e => (e.1, 8, e.2.toNat)

end Sys2Proof.Machine
end

