-- ==== Sys2Proof/Machine/Containment.lean ====
section
/-! DEFINITION. Containment domains: CDOPEN, CDPRES, CDCLOSE, CDABORT, CDSTAT, abort, restoration and escalation (spec 13
R270 to R279; 20 R343 to R346). -/

namespace Sys2Proof.Machine

/-- The header word of a record (R271). -/
def recHdr (inUse : Bool) (slot depth retry : Nat) : Nat :=
  (if inUse then 2 ^ 63 else 0) + slot * 2 ^ 12 + depth * 2 ^ 8 + retry

/-- The mask of a snapshot: all x, the given v, all p (R271). -/
def snapMask (v : BitVec 16) : Word := (0xFF#8 ++ v ++ 0xFFFFFFFE#32).zeroExtend 64

/-- The pool top of a core: the highest end of pool space that an open domain holds or that lies below it (R273). -/
def State.poolEnd (s : State) (core : Nat) : Nat :=
  (s.slots.filter fun e => coreOf e.1 == core).foldl (fun m e =>
    e.2.doms.foldl (fun m d => (d.entries.filter fun p => !p.ref).foldl (fun m p => max m (p.pool + p.len)) (max m d.pool)) m) 0

/-- A slot's domains changed, and the pool top with them. -/
def State.setDoms (s : State) (sid : Nat) (l : List Dom) : State :=
  let s := s.modSlot sid fun sl => { sl with doms := l }
  s.modCore (coreOf sid) fun k => { k with poolTop := s.poolEnd (coreOf sid) }

/-- A domain's record and ref protections are freed (R274, R278). -/
def State.freeDom (s : State) (sid : Nat) (d : Dom) : State :=
  let core := coreOf sid
  let pa := recPa core d.recNo + 0x600
  let s := s.wr pa 8 (s.rd pa 8 % 2 ^ 63)
  s.modCluster (clusterOf core) fun c => { c with refs := c.refs.filter fun e => !(e.2.1 == sid && e.2.2 == d.serial) }

/-- CDOPEN (R272, R343). -/
def execCdopen (rs1 : XReg) (s : State) : Outcome :=
  s.clusterOnly (.cdopen rs1) fun _ =>
    let sl := s.me
    let v := sl.rx rs1
    let core := s.core
    if v.extractLsb' 16 48 ≠ 0 then .trap (Trap.sync 11 v)
    else match (List.range 8).find? fun r => !s.recUsed core r with
      | none => .trap (Trap.sync 11 (BitVec.ofNat 64 sl.cdlvl))
      | some r =>
        if 8 ≤ sl.cdlvl then .trap (Trap.sync 11 (BitVec.ofNat 64 sl.cdlvl))
        else
          let pa := recPa core r
          let m := snapMask (v.extractLsb' 0 16)
          let top := (s.coreSt core).poolTop
          let s := s.putItems pa (items ([(0, m), (0x100, sl.pc + 4)] ++ sl.sharedWords)
            ++ sl.maskedX m ++ sl.maskedP m ++ sl.maskedV m)
          let s := s.put (pa + 0x610) 0x1F0 0
          let s := (s.put (pa + 0x600) 8 (recHdr true (s.sid % 16) (sl.cdlvl + 1) 0)).put (pa + 0x608) 8 (top / 64)
          let d : Dom := { recNo := r, serial := sl.domSerial + 1, retry := 0, pool := top, entries := [], aborting := none, abortAt := 0, opened := s.cycle }
          s.ret fun sl => { sl.wx 10 0 with cdlvl := sl.cdlvl + 1, domSerial := sl.domSerial + 1, doms := d :: sl.doms }

/-! ### Preserving (R273, R343, R344) -/

/-- The address in the preserve pool of a slot's core at an offset (R273). -/
def State.poolVa (s : State) (sid off : Nat) : Word :=
  let sl := s.slot sid
  let core := coreOf sid
  let (sc, n) := match s.teamOf sl with
    | some t => (t.s * t.c, t.place.findIdx (· == clusterOf core))
    | none => (0, 0)
  sl.teamctx + BitVec.ofNat 64 (0x20000 + sc * 0x800000 + n * 0x1000000 + core % 16 * 0x100000 + off)

/-- The device's accesses for a slot's domains. -/
def State.domCtx (s : State) (sid : Nat) : Ctx := { s.ctx sid with level := .kernel, thread := false }

/-- An entry recorded in the domain and in its record. -/
def State.addEntry (s : State) (p : Preserve) : State :=
  let sl := s.me
  match sl.doms with
  | [] => s
  | d :: ds =>
    let at' := recPa s.core d.recNo + 0x610 + 16 * d.entries.length
    let s := (s.put at' 8 (p.addr.toNat + (if p.ref then 2 ^ 63 else 0))).put (at' + 8) 8 (p.len + 2 ^ 32 * (p.pool / 64))
    s.setDoms s.sid ({ d with entries := d.entries ++ [p] } :: ds)

/-- The checks that both forms of CDPRES share (R343). -/
def State.presChecks (s : State) (a n : Word) : Option Trap :=
  let sl := s.me
  let full := match sl.doms with | d :: _ => decide (16 ≤ d.entries.length) | [] => true
  firstFail [(sl.cdlvl == 0 || full, Trap.sync 11 (BitVec.ofNat 64 sl.cdlvl)),
    (a.toNat % 64 != 0, Trap.sync 11 a),
    (n.toNat % 64 != 0 || decide (n.toNat < 64) || decide (2 ^ 20 < n.toNat), Trap.sync 11 n),
    (a.extractLsb' 57 7 != 0, Trap.sync 5 a)]

/-- CDPRES, copy mode: the range goes into the core's pool once the core's stores to it are performed. -/
def execCdpresCopy (rs1 rs2 : XReg) (s : State) : Outcome :=
  s.clusterOnly (.cdpresCopy rs1 rs2) fun _ =>
    let sid := s.sid
    let a := s.me.rx rs1
    let n := (s.me.rx rs2).toNat
    let top := (s.coreSt s.core).poolTop
    match s.presChecks a (s.me.rx rs2) with
    | some t => .trap t
    | none =>
      if 2 ^ 20 < top + n then .trap (Trap.sync 11 (s.me.rx rs2))
      else if s.unreleased s.core 2 then .park true
      else match s.span { s.ctx sid with thread := false } a n .load with
        | .error (va, d) => .trap (Trap.sync 5 va d)
        | .ok (ps, s1) =>
          let copy := fun (s : State) => match s.span (s.domCtx sid) (s.poolVa sid top) n .store with
            | .error (va, d) => Res.trap (Trap.sync 5 va d)
            | .ok (pd, s2) =>
              (((s2.moveWords ((wordsOf pd).zip (wordsOf ps))).markSpan s.me.team (s.poolVa sid top) pd).addEntry { addr := a, ref := false, len := n, pool := top }).ret
          let s1 := s1.correctPieces sid ps
          if s1.badPieces ps then
            match s1.consume sid a with
            | .abort s => .done s
            | .trap t => .trap t
            | .held _ s => copy s
            | .zero s => copy s
          else copy s1

/-- CDPRES, ref mode: the range is protected as written. -/
def execCdpresRef (rs1 rs2 : XReg) (s : State) : Outcome :=
  s.clusterOnly (.cdpresRef rs1 rs2) fun _ =>
    let a := s.me.rx rs1
    let n := (s.me.rx rs2).toNat
    match s.presChecks a (s.me.rx rs2), s.me.doms with
    | some t, _ => .trap t
    | none, [] => .trap (Trap.sync 11 (BitVec.ofNat 64 s.me.cdlvl))
    | none, d :: _ =>
      let s := s.addEntry { addr := a, ref := true, len := n, pool := 0 }
      (s.modCluster s.cluster fun c => { c with refs := c.refs ++ [(⟨a.toNat, a.toNat + n⟩, s.sid, d.serial)] }).ret

/-! ### CDCLOSE, CDABORT, CDSTAT (R274 to R276) -/

/-- A command or copy of a slot belongs to one of some domains, named by their serial numbers. -/
def State.domWork (s : State) (sid : Nat) (l : List Nat) : Bool :=
  let k := s.clusterSt (clusterOf (coreOf sid))
  let mine := fun (c : Cmd) => c.sid == sid && l.contains c.dom
  k.running.any mine || k.queues.toList.any (fun q => q.any mine)
    || (s.coreSt (coreOf sid)).chans.toList.any fun ch => ch.any fun c => c.sid == sid && l.contains c.dom

/-- CDCLOSE (R274): waits for the domain's work, then for the release at device scope. -/
def execCdclose (s : State) : Outcome :=
  s.clusterOnly .cdclose fun _ =>
    match s.me.doms with
    | [] => .trap (Trap.sync 11 0)
    | d :: ds =>
      if s.domWork s.sid [d.serial] || s.releaseWaits then .park true
      else ((s.freeDom s.sid d).setDoms s.sid ds).ret fun sl => { sl with cdlvl := sl.cdlvl - 1 }

/-- CDABORT (R275): above task level the abort is held until KRET, and the instruction retires (R277). -/
def execCdabort (s : State) : Outcome :=
  s.finish (match s.me.doms with
    | [] => .trap (Trap.sync 11 0)
    | _ :: _ => if s.me.level = .task then .done (s.blame s.sid 3) else (s.blame s.sid 3).ret)

/-- The CDSTAT value (R276). -/
def Slot.cdstat (sl : Slot) : Word :=
  BitVec.ofNat 64 (min sl.cdEsc 0xFFFF * 2 ^ 48 + min sl.cdRetry 0xFFFF * 2 ^ 32 + sl.cdLcause * 2 ^ 24 + sl.cdLdepth * 2 ^ 20
    + sl.cdlvl * 2 ^ 16 + (match sl.doms with | d :: _ => d.retry | [] => 0))

/-- CDSTAT (R276). -/
def execCdstat (rd : XReg) (s : State) : Outcome := s.finish (s.ret fun sl => sl.wx rd sl.cdstat)

/-! ### Abort and escalation (R278, R279) -/

/-- A copy leaves its channel unfinished: it counts as finished for its batch, its undelivered bytes leave its
byte-count barrier (R155). -/
def State.cancelCopy (s : State) (core ch : Nat) (c : Copy) : State :=
  let s := s.modCore core fun k =>
    { k with bcnt := match c.bar with
               | none => k.bcnt
               | some b => k.bcnt.set! b (BitVec.ofNat 64 ((k.bcnt.toList.getD b 0).toNat - c.undelivered)),
             chans := k.chans.set! ch ((k.chans.toList.getD ch []).filter fun (o : Copy) => o.ticket != c.ticket) }
  let s := s.leaveTrack (clusterOf core) c.ticket
  match c.batch with
  | none => s
  | some n => s.modSlot c.sid fun sl =>
      { sl with batches := (sl.batches.map fun (b : Batch) => if b.num = n then { b with left := b.left - 1 } else b).filter fun (b : Batch) => b.left != 0 }

/-- Step 1 of R278 for the domains of a list: unstarted and suspended commands report status 3, started ones will when they
end; copies stop. -/
def State.stopWork (s : State) (sid depth : Nat) (l : List Nat) : State :=
  let core := coreOf sid
  let cl := clusterOf core
  let mine := fun (c : Cmd) => c.sid == sid && l.contains c.dom
  let k := s.clusterSt cl
  let s := (k.queues.toList.flatMap fun q => q.filter mine).foldl (fun s c => (s.report cl c 3 depth c.endFlags).2) s
  let s := (k.running.filter fun c => mine c && c.susp.isSome).foldl (fun s c =>
    (State.report (if c.eng = 0 ∧ c.open? = true then s.freeLoader cl c else s) cl c 3 depth c.endFlags).2) s
  (List.range 4).foldl (fun s ch =>
    let list := (s.coreSt core).chans.toList.getD ch []
    let gone := list.filter fun c => c.sid == sid && l.contains c.dom
    let s := gone.foldl (fun s c => s.cancelCopy core ch c) s
    match list.head? with
    | some c => if c.sid = sid ∧ l.contains c.dom = true then s.kick core ch else s
    | none => s) s

/-- A range preserved by reference lies in part in lost memory (R282). -/
def State.refLost (s : State) (sid : Nat) (p : Preserve) : Bool :=
  match s.span (s.domCtx sid) p.addr p.len .load with
  | .error _ => false
  | .ok (l, _) => (wordsOf l).any fun pa => s.lost.contains (pa / 8) && s.bad (pa / 8)

/-- Copy-mode inputs of a domain restored from the pool in reverse preserve order (R278 step 3). The first error ends the
restoration with its reason, 2 for a poisoned pool word, and leaves what is restored (R279, R282; log entry 40). -/
def State.restoreInputs (s : State) (sid reason : Nat) : List Preserve → Option Nat × State
  | [] => (none, s)
  | p :: r =>
    if p.ref then
      if s.refLost sid p then (some reason, s) else State.restoreInputs s sid reason r
    else match s.span (s.domCtx sid) (s.poolVa sid p.pool) p.len .load with
      | .error _ => (some reason, s)
      | .ok (src, s1) =>
        let s1 := s1.correctPieces sid src
        if s1.badPieces src then (some 2, s1)
        else match s1.span (s1.domCtx sid) p.addr p.len .store with
          | .error _ => (some reason, s1)
          | .ok (dst, s2) =>
            State.restoreInputs ((s2.moveWords ((wordsOf dst).zip (wordsOf src))).markSpan (s2.slot sid).team p.addr dst) sid reason r

/-- Domains inside an aborted one: their inputs restored as far as they can be, their records and protections freed; the
reason of the first error. -/
def State.dropInner (s : State) (sid reason : Nat) (l : List Dom) : Option Nat × State :=
  l.foldl (fun (x : Option Nat × State) d =>
    let (e, s) := x.2.restoreInputs sid reason d.entries.reverse
    (x.1.or e, s.freeDom sid d)) (none, s)

/-- An abort of the domain at the head begins anew for a reason. -/
def State.abortHead (s : State) (sid reason : Nat) : State :=
  match (s.slot sid).doms with
  | [] => s
  | d :: ds => (s.setDoms sid ({ d with aborting := some reason, abortAt := s.cycle } :: ds)).post (.domainAbort sid (ds.length + 1) reason)

/-- DOMAIN_ESCALATION (R279): the innermost domain is discarded; the error moves to the enclosing one, and with none the
slot takes cause 16 and the error adds its own ERR bit. -/
def State.escalate (s : State) (sid reason : Nat) : State :=
  match (s.slot sid).doms with
  | [] => s
  | _ :: ds =>
    let cl := clusterOf (coreOf sid)
    let s := (s.setDoms sid ds).modSlot sid fun sl => { sl with cdEsc := sl.cdEsc + 1, cdlvl := ds.length }
    let s := s.gather cl (errBit 8) 2
    if ds ≠ [] then s.abortHead sid reason
    else
      let s := if reason = 2 ∨ reason = 4 then s.gather cl (errBit 5) 2 else s
      (s.modSlot sid fun sl => { sl with status := .ready }).later sid (Trap.sync 16 (s.slot sid).cdstat)

/-- Replies that could still write the slot's registers are outstanding. -/
def Slot.repliesDue (sl : Slot) : Bool :=
  sl.pending != [] || sl.mcast.isSome || (match sl.status with | .parked .reply | .parked .atom | .parked .moving => true | _ => false)

/-- DOMAIN_ABORT (R278, R279): unstarted work ends, started work is waited for, inner domains go; then the restoration,
or the escalation when the domain has been retried three times or an inner domain's inputs met an error. An abort that an
enclosing domain's abort has overtaken does nothing. -/
def execDomainAbort (sid depth reason : Nat) (s : State) : Outcome :=
  let cl := clusterOf (coreOf sid)
  .next (if depth = 0 ∨ abortDepth (s.slot sid).doms s.cycle ≠ depth then s
    else
      let s := if isChan (coreOf sid) then s else s.arrayRun cl
      let sl := s.slot sid
      let inner := sl.doms.take (sl.doms.length - depth)
      let serials := (sl.doms.take (sl.doms.length - depth + 1)).map (·.serial)
      let s := (s.stopWork sid depth serials).withdraw sid
      if s.domWork sid serials || (s.slot sid).repliesDue then s.post (.domainAbort sid depth reason)
      else
        let (e, s) := s.dropInner sid reason inner
        match sl.doms.drop (sl.doms.length - depth) with
        | [] => s
        | d :: ds =>
          if d.retry = 3 ∨ e.isSome = true then
            let (e', s) := s.restoreInputs sid reason d.entries.reverse
            ((s.freeDom sid d).setDoms sid (d :: ds)).escalate sid ((e.or e').getD reason)
          else (s.setDoms sid ({ d with aborting := some reason } :: ds)).post (.domainRestore sid))

/-- DOMAIN_RESTORE (R278 steps 3 to 5): inputs from the pool, registers from the record, the retry count. An error met here
escalates at once (R279). -/
def execDomainRestore (sid : Nat) (s : State) : Outcome :=
  .next (match (s.slot sid).doms with
    | [] => s
    | d :: ds =>
      match d.aborting with
      | none => s
      | some reason =>
        if abortDepth (d :: ds) s.cycle ≠ ds.length + 1 then s
        else match s.restoreInputs sid reason d.entries.reverse with
        | (some e, s) => (s.freeDom sid d).escalate sid e
        | (none, s) =>
          let core := coreOf sid
          let cl := clusterOf core
          let pa := recPa core d.recNo
          let f := fun (off n : Nat) => s.rd (pa + off) n
          let m : Word := BitVec.ofNat 64 (f 0 8)
          let n := d.retry + 1
          let s := s.put (pa + 0x600) 8 (recHdr true (sid % 16) (ds.length + 1) n)
          let s := s.modSlot sid fun sl =>
            let sl := (((Slot.sharedWords sl).foldl (fun (sl : Slot) e => sl.setWord e.1 (BitVec.ofNat 64 (f e.1 8))) sl).loadX m f)
            let sl := (sl.loadV m f).loadP m f
            { sl.wx 10 (BitVec.ofNat 64 n) with
              pc := pcOf (BitVec.ofNat 64 (f 0x100 8)), cdlvl := ds.length + 1, status := .ready, safeAt := none, follow := none, barWait := none,
              doms := { d with retry := n, aborting := none } :: ds,
              cdRetry := sl.cdRetry + 1, cdLcause := reason, cdLdepth := ds.length + 1 }
          (s.gather cl (errBit 7) 2).modCluster cl fun c => { c with done := { c.done with reexec := c.done.reexec + 1 } })

end Sys2Proof.Machine
end

