-- ==== Sys2Proof/Machine/Pages.lean ====
section
/-! DEFINITION. Page operations and SCRUB: PGZERO, PGCOPY, SCRUB and their row and line steps (spec 11 R242; 23 R410 to
R412; 24 R434, R435). -/

namespace Sys2Proof.Machine

/-- The checks of a page address before its translation, alignment apart: remote or malformed, team window, physical
window from task level; c is the cause (R412). -/
def pageRemote (a : Word) (c : Nat) : Bool × Trap := (a.extractLsb' 57 7 != 0, Trap.sync c a)
def pageWindow (a : Word) (c : Nat) : Bool × Trap := (inWindows a, Trap.sync c a (detail 9 0))
def pagePhys (l : Level) (a : Word) (c : Nat) : Bool × Trap := (inPhysWindow a && l == .task, Trap.sync c a (detail 7 0))

/-- The physical page behind an address, with its leaf; the device's write to a VC page is allowed (R412). -/
def State.pageAt (s : State) (a : Word) (dir : Dir) : Except Word Hit :=
  if inPhysWindow a then .ok { pa := physOf a, leaf := 0, st := s }
  else match s.translate (s.kctx s.sid) a dir with
    | .error (r, l) => .error (detail r l)
    | .ok (pa, leaf, s') => .ok { pa := pa, leaf := leaf, st := s' }

/-- The page, or a part of it, is preserved by reference in an open domain of the cluster (R412). -/
def State.pageKept (s : State) (d : Word) : Bool :=
  (s.clusterSt s.cluster).refs.any fun e => e.1.meets ⟨d.toNat, d.toNat + 0x10000⟩

/-- A page operation at issue: the checks of R412 in order, the release, then the row or line steps while the slot is
parked (R411). Rows are taken whole when every page of the operation is RL (R242). -/
def State.pageOp (s : State) (d : Word) (src : Option Word) : Res :=
  let sl := s.me
  let forSrc := fun (f : Word → Bool × Trap) => match src with | some a => [f a] | none => []
  let checks := [(d.toNat % 0x10000 != 0, Trap.sync 6 d)]
    ++ forSrc (fun a => (a.toNat % 0x10000 != 0, Trap.sync 4 a))
    ++ [pageRemote d 7] ++ forSrc (pageRemote · 5)
    ++ [pageWindow d 7] ++ forSrc (pageWindow · 5)
    ++ [pagePhys sl.level d 7] ++ forSrc (pagePhys sl.level · 5)
  match firstFail checks with
  | some t => .trap t
  | none =>
    match s.pageAt d .store with
    | .error e => .trap (Trap.sync 7 d e)
    | .ok hd =>
      let run := fun (from' : Option Nat) (rl : Bool) (s1 : State) =>
        if s.releaseWaits then Res.park false
        else
          .done (((s1.markCk sl.team d hd.pa).post (.pageRowStep s.sid hd.pa from' rl 0)).upd (·.parkOn .reply))
      match src with
      | none =>
        if s.pageKept d then .trap (Trap.sync 7 d (detail 8 0))
        else if ownerOf hd.pa ≠ .hbm then .trap (Trap.sync 11 d)
        else run none (pteRL hd.leaf) hd.st
      | some a =>
        match hd.st.pageAt a .load with
        | .error e => .trap (Trap.sync 5 a e)
        | .ok hs =>
          if s.pageKept d then .trap (Trap.sync 7 d (detail 8 0))
          else if ownerOf hd.pa ≠ .hbm then .trap (Trap.sync 11 d)
          else if ownerOf hs.pa ≠ .hbm then .trap (Trap.sync 11 a)
          else run (some hs.pa) (pteRL hd.leaf && pteRL hs.leaf) hs.st

/-- PGZERO (R410 to R412). -/
def execPgzero (rs1 : XReg) (s : State) : Outcome := s.finish (s.pageOp (s.me.rx rs1) none)

/-- PGCOPY (R410 to R412). -/
def execPgcopy (rs1 rs2 : XReg) (s : State) : Outcome := s.finish (s.pageOp (s.me.rx rs1) (some (s.me.rx rs2)))

/-- The bytes of one step of a page operation: a row, or a line (R242, R411). -/
def rowBytesOf (rl : Bool) : Nat := if rl then 1024 else 64

/-- The physical row of a usable row: the last row of each subarray of 512 is its zero row (R241). -/
def usableRow (u : Nat) : Nat := u / 511 * 512 + u % 511

/-- A row copy counts as an activate of the row of row-local page `pa` that it touches (R245); the zero row has no counter. -/
def State.activateRow (s : State) (pa k : Nat) : State :=
  match s.rowOf (pa / 0x10000) with
  | some u => s.post (.rowPrecharge (s.chanOf pa) (usableRow (u + k)) true)
  | none => s

/-- One row or line of a page operation: zero, full and good, or the data, presence bits and poison marks of the source's,
after the vault copies have gone; entries that wait on its words are looked at again (R130, R133, R242). -/
def State.pageStep (s : State) (dst : Nat) (src : Option Nat) (n : Nat) : State :=
  let s := match src with
    | none => s.zeroPage dst n
    | some a => s.keepHost (if a = dst then s.beforeWrite dst n else (s.beforeWrite dst n).move dst a n) dst n
  s.reexamineAll dst n

/-- PAGE_ROW_STEP (R242, R411): the step of row or line k. After the last one the slot goes on. -/
def execPageRowStep (sid dst : Nat) (src : Option Nat) (rl : Bool) (k : Nat) (s : State) : Outcome :=
  let n := rowBytesOf rl
  let s := s.pageStep (dst + k * n) (src.map (· + k * n)) n
  let s := if rl then (match src with | some a => s.activateRow a k | none => s).activateRow dst k else s
  .next (if (k + 1) * n < 0x10000 then s.post (.pageRowStep sid dst src rl (k + 1))
    else if (s.slot sid).status = .parked .reply then s.modSlot sid (·.retire) else s)

/-- Where a SCRUB may lie: not remote or malformed, and of the team windows only the own two (R434). -/
def scrubRefused (a : Word) : Bool := a.extractLsb' 57 7 != 0 || (inWindows a && !ownWindow a)

/-- The first address of a SCRUB beyond its own window's extent. -/
def State.scrubPast (s : State) (a : Word) (n : Nat) : Option Word :=
  if inWindows a then s.pastExtent (s.ctx s.sid) a n else none

/-- SCRUB (R434): the checks in order, the release, then a line at a time while the slot is parked. -/
def execScrub (rs1 rs2 : XReg) (s : State) : Outcome :=
  let a := s.me.rx rs1
  let n := s.me.rx rs2
  s.kernelOnly (.scrub rs1 rs2) fun _ =>
    if isChan s.core then illegalI (.scrub rs1 rs2)
    else if a.toNat % 64 ≠ 0 then .trap (Trap.sync 6 a)
    else if n.toNat % 64 ≠ 0 ∨ n = 0 ∨ 2 ^ 32 < n.toNat then .trap (Trap.sync 11 n)
    else if scrubRefused a then .trap (Trap.sync 7 a)
    else match s.scrubPast a n.toNat with
      | some x => .trap (Trap.sync 7 x (detail 9 0))
      | none =>
        match s.resolve (s.kctx s.sid) a 64 .store with
        | .error d => .trap (Trap.sync 7 a d)
        | .ok _ =>
          if s.releaseWaits then .park false
          else .done ((s.post (.scrubLineStep s.sid a n.toNat)).upd (·.parkOn .reply))

/-- SCRUB_LINE_STEP (R434, R435): one line becomes zero, full and good, reference protection or not; a fault partway leaves the
lines before it scrubbed and is taken by the slot, whose SCRUB has not retired. -/
def execScrubLineStep (sid : Nat) (va : Word) (left : Nat) (s : State) : Outcome :=
  .next (if (s.slot sid).status ≠ .parked .reply then s
    else if left = 0 then s.modSlot sid (·.retire)
    else match s.resolve (s.kctx sid) va 64 .store with
      | .error d => s.modSlot sid (·.enter (Trap.sync 7 va d))
      | .ok h =>
        let s := ((h.st.markCk (s.slot sid).team va h.pa).zeroPage h.pa 64).reexamineAll h.pa 64
        if left ≤ 64 then s.modSlot sid (·.retire)
        else s.post (.scrubLineStep sid (va + 64) (left - 64)))

end Sys2Proof.Machine
end

