-- ==== Sys2Proof/Machine/Kernel.lean ====
section
/-! DEFINITION. STEP and CKPT, TLBINV, the context instructions CTXST and CTXLD, the page-table walk and the fetch
buffer of a channel core (spec 06 R138 to R141; 11 R229; 12 R261; 13 R284; 20 R347, R348, R358 to R361; 24 R441, R446,
R447). -/

namespace Sys2Proof.Machine

/-! ### Checkpoint requests (R284, R347, R441) -/

/-- The boundary that is pending for a team. -/
def Team.boundary (t : Team) : Option Nat := if t.ckRun then none else t.ckWant

/-- STEP (R441): it increments `step`; at a pending boundary a task-level user slot arrives and parks until the
checkpoint instant. One that executes it again after a pre-emption parks again while the boundary is pending (log
entry 22). -/
def execStep (s : State) : Outcome :=
  let sl := s.me
  let n := sl.step + 1
  let waits : Bool := match (s.teamOf sl).bind (·.boundary) with
    | some k => sl.level == .task && sl.running == .user && decide (k ≤ n.toNat)
    | none => false
  s.finish (
    if waits then .done ((s.upd fun sl => { sl.parkOn .step with ckArr := true }).tryInstant sl.team)
    else s.ret fun sl => { sl with step := n })

/-- The largest `step` among a team's user slots, as they stand or as they were saved (R284, R348). -/
def State.maxStep (s : State) (t : Team) : Nat :=
  let live := match t.saved with
    | some sv => sv.slots.map fun (e : Nat × Nat × Slot) => e.2.2.step.toNat
    | none => t.userSlots.map fun sid => (s.slot sid).step.toNat
  live.foldl max 0

/-- A checkpoint of a team is requested; none while one is pending or running (R284). -/
def State.wantCheckpoint (s : State) (tid : Nat) : State :=
  match s.team? tid with
  | none => s
  | some t =>
    if t.ckWant.isSome || t.ckRun then s
    else (s.modTeam tid fun t => { t with ckWant := some (s.maxStep t + 1) }).tryInstant tid

/-- CKPT (R347): of the slot's own team at task level, of the team at `teamctx` above. -/
def execCkpt (s : State) : Outcome :=
  let sl := s.me
  let tid : Option Nat := if sl.level = .task then some sl.team else s.teamBySave sl.teamctx
  s.finish (match tid with
    | some tid => (s.wantCheckpoint tid).ret
    | none => s.ret)

/-! ### TLBINV (R446, R447) -/

/-- A TLB entry that a TLBINV with a selector and an address removes. -/
def TlbEnt.gone (e : TlbEnt) (sel va : Word) : Bool :=
  (sel.getLsbD 16 || e.global || e.asid == (sel.extractLsb' 0 16).zeroExtend 64)
    && (sel.getLsbD 17 || e.vpn == pageNo va e.level)

/-- A fetch line that it empties: the page size of its leaf is not kept, so the largest page is taken. -/
def lineGone (e : Word × Nat × VWord) (sel va : Word) : Bool :=
  sel.getLsbD 17 || e.2.1 / 2 ^ 23 == va.toNat % 2 ^ 57 / 2 ^ 29

/-- TLBINV (R447): after a release at device scope every matching entry goes, in every TLB and fetch buffer of the
package. A walk is one step, so none is in flight. -/
def execTlbinv (rs1 rs2 : XReg) (s : State) : Outcome :=
  let sel := s.me.rx rs1
  let va := s.me.rx rs2
  s.kernelOnly (.tlbinv rs1 rs2) fun _ =>
    if isChan s.core then illegalI (.tlbinv rs1 rs2)
    else if sel.extractLsb' 18 46 ≠ 0 then .trap (Trap.sync 11 sel)
    else if s.releaseWaits then .park false
    else
      let keep := fun (l : List TlbEnt) => l.filter fun e => !e.gone sel va
      let core := fun (e : Nat × CoreSt) => (e.1, { e.2 with tlb := keep e.2.tlb })
      let cluster := fun (e : Nat × ClusterSt) => (e.1, { e.2 with tlb := keep e.2.tlb })
      let chan := fun (e : Nat × ChanSt) => (e.1, { e.2 with fbuf := e.2.fbuf.filter fun l => !lineGone l sel va })
      State.ret { s with coreTab := s.coreTab.map core, clusters := s.clusters.map cluster, chans := s.chans.map chan }

/-! ### Walks and fetch lines (R138 to R141, R229) -/

/-- PAGE_TABLE_WALK (R138 to R140): a walk for an access of a slot sets A and D and installs the translation, or ends
with nothing installed; the access itself takes the fault. -/
def execPageTableWalk (sid : Nat) (va : Word) (dir : Dir) (s : State) : Outcome :=
  .next (match s.walk (s.ctx sid) va dir with
    | .ok (_, _, s') => s'
    | .error _ => s)

/-- Lines of 64 bytes in a channel core's 32 KiB fetch buffer. -/
def fetchLines : Nat := 512

/-- A slot of a channel core that fetches from a line (64 bytes of virtual address) under an ASID. -/
def State.lineUser (s : State) (chan : Nat) (asid : Word) (line : Nat) : Option Nat :=
  ((List.range 16).map fun i => (chanCore0 + chan) * 16 + i).find? fun sid =>
    (s.slot sid).asid == asid && (s.slot sid).pc.toNat / 64 == line

/-- FETCH_LINE_ARRIVAL (R229): a line tagged with its ASID enters the channel core's fetch buffer with the bytes of its
page, the oldest one leaving a full buffer (log entry 13). -/
def execFetchLineArrival (chan asid line : Nat) (s : State) : Outcome :=
  let a : Word := BitVec.ofNat 64 asid
  let va : Word := BitVec.ofNat 64 (line * 64)
  .next (match s.lineUser chan a line with
    | none => s
    | some sid => match s.resolve (s.ctx sid) va 64 .fetch with
      | .error _ => s
      | .ok h => h.st.modChan chan fun c =>
        let ent : Word × Nat × VWord := (a, line, BitVec.ofNat 512 (h.st.rd h.pa 64))
        let l := c.fbuf.filter (fun e => !(e.1 == a && e.2.1 == line)) ++ [ent]
        { c with fbuf := l.drop (l.length - fetchLines) })

/-! ### CTXST and CTXLD (R358 to R361) -/

/-- The fields of a selector. -/
def selSlot (v : Word) : Nat := v.field 0 4
def selX (v : Word) : Bool := v.getLsbD 8
def selV (v : Word) : Bool := v.getLsbD 9
def selP (v : Word) : Bool := v.getLsbD 10
def selC (v : Word) : Bool := v.getLsbD 11
def selQ (v : Word) : Bool := v.getLsbD 12

/-- The target slot of a selector. -/
def State.selTarget (s : State) (v : Word) : Nat := s.core * 16 + selSlot v

/-- A target other than the issuing slot that CTXST accepts (R359). -/
def Status.storable (st : Status) : Bool := st == .idle || st == .exited || st.safePark
/-- And CTXLD (R360). -/
def Status.loadable (st : Status) : Bool := st == .idle || st == .exited

/-- The checks of R361 up to the translation. -/
def State.ctxChecks (s : State) (v a : Word) (store : Bool) : Option Trap :=
  let t := s.selTarget v
  let st := (s.slot t).status
  let ok := t == s.sid || (if store then st.storable else st.loadable)
  firstFail [(v.extractLsb' 13 51 != 0 || v.extractLsb' 4 4 != 0 || !s.isUserSlot s.core (selSlot v) || !ok, Trap.sync 11 v),
    (a.toNat % 2048 != 0, Trap.sync (if store then 6 else 4) a)]

/-- The tag of a pending-reply record (R261). -/
def repTag (p : PendRep) (outstanding : Bool) : Nat :=
  2 ^ 63 + (if outstanding then 2 ^ 62 else 0) + p.kind * 256 + p.dest

/-- Word 0 of a queue residue (R261): POS of a stream, next SEQ and record count of a result FIFO, else zero. -/
def Slot.residue (sl : Slot) (q : Nat) : Nat :=
  let b := sl.qb q
  match qKind b with
  | 3 => let f := sl.fifos.toList.getD (qSub b) ResFifo.init; f.seq.toNat + f.recs.length % 64 * 2 ^ 16
  | 4 | 5 => match tfind sl.streams q with | some t => t.pos | none => 0
  | _ => 0

/-- The Q part of a frame: the pending registers in issue order, unused records invalid, and the queue residues. -/
def Slot.queueItems (sl : Slot) : List (Nat × Nat × Nat) :=
  (List.range 8).map (fun i => (0x600 + 16 * i, 8, match sl.pending[i]? with | some p => repTag p true | none => 0))
    ++ (List.range 8).map fun q => (0x680 + 48 * q, 48, sl.residue q)

/-- The parts of a frame that CTXLD reads, as offset and bytes. -/
def selParts (v : Word) : List (Nat × Nat) :=
  [(0, 8)] ++ (if selX v then [(8, 0xF8)] else []) ++ (if selC v then [(0x100, 0xE0)] else [])
    ++ (if selP v then [(0x1E0, 0x20)] else []) ++ (if selV v || selQ v then [(0x200, 0x400)] else [])
    ++ (if selQ v then [(0x600, 0x200)] else [])

/-- The offset of the first poisoned word of some parts of a frame. -/
def State.firstBad (s : State) (pa : Nat) (parts : List (Nat × Nat)) : Option Nat :=
  (parts.flatMap fun e => (List.range (e.2 / 8)).map fun i => e.1 + 8 * i).find? fun off => s.bad ((pa + off) / 8)

/-- How a slot reads parts of its frame (R167, R277, R280): the reader of n bytes at an offset, poisoned words as the
poison policy says; or the outcome that ends the instruction. -/
def State.frameReader (s : State) (pa : Nat) (va : Word) (parts : List (Nat × Nat)) :
    Except Res ((Nat → Nat → Nat) × State) :=
  match s.firstBad pa parts with
  | none => .ok (fun off k => s.rd (pa + off) k, s)
  | some bad => match s.consume s.sid (va + BitVec.ofNat 64 bad) with
    | .abort s => .error (.done s)
    | .trap t => .error (.trap t)
    | .zero s' => .ok (fun off k => s.rdClean (pa + off) k, s')
    | .held v s' => .ok (fun off k => if s.badAt (pa + off) k then v.toNat % 2 ^ (8 * k) else s.rd (pa + off) k, s')

/-- The parts of a frame that CTXST writes (R359). A home slot whose traveller is away gets the away bit. -/
def State.frameItems (s : State) (v : Word) (m : Word) : List (Nat × Nat × Nat) :=
  let t := s.selTarget v
  let sl := s.slot t
  let own := t == s.sid
  let away := sl.status == .away || sl.savedAway
  (if selX v then sl.maskedX m else []) ++ (if selV v then sl.maskedV m else []) ++ (if selP v then sl.maskedP m else [])
    ++ (if selC v then
          items (sl.ctlWords (if own then sl.kepc else sl.pc) sl.kstatus)
            ++ (if away then [(0, 8, (m ||| 2 ^ 63).toNat)] else [])
        else [])
    ++ (if selQ v then sl.queueItems else [])

/-- CTXST (R359). The frame is written once no earlier store of the core to it is on its way (R167). -/
def execCtxst (rs1 rs2 : XReg) (s : State) : Outcome :=
  let v := s.me.rx rs1
  let a := s.me.rx rs2
  let i : Instr := .ctxst rs1 rs2
  s.kernelOnly i fun _ =>
    if isChan s.core then illegalI i
    else match s.ctxChecks v a true with
      | some t => .trap t
      | none =>
        match s.locateStore s.sid a 2048 with
        | .error t => .trap t
        | .ok h =>
          if s.inFlight s.core h.pa 2048 true then .park false
          else match h.st.frameReader h.pa a [(0, 8)] with
            | .error r => r
            | .ok (f, s1) =>
              let t := s1.selTarget v
              let s2 := (s1.markCk s1.me.team a h.pa).putItems h.pa (s1.frameItems v (BitVec.ofNat 64 (f 0 8)))
              let s3 := s2.modSlot t fun sl =>
                { sl with saved := sl.saved ||| (if selC v then 1 else 0) ||| (if selQ v then 2 else 0),
                          frame := if selQ v then some (h.pa, sl.pending.take 8) else sl.frame }
              s3.ret

/-- The control registers of a frame go into a slot (R360). -/
def Slot.loadC (sl : Slot) (own : Bool) (f : Nat → Nat → Nat) : Slot :=
  let w := fun (off : Nat) => (BitVec.ofNat 64 (f off 8) : Word)
  let l := (sl.ctlWords 0 0).map (·.1)
  let sl := l.foldl (fun (sl : Slot) off => sl.setWord off (w off)) sl
  if own then { sl with kepc := w 0x100 &&& ~~~3, kstatus := w 0x108 &&& 15 }
  else { sl with pc := pcOf (w 0x100), kstatus := w 0x108 &&& 15 }

/-- One pending-reply record of a frame goes into a slot: a returned value into its destination, an outstanding one as
a pending mark (R360). -/
def Slot.loadRep (sl : Slot) (f : Nat → Nat → Nat) (i : Nat) : Slot :=
  let tag : Word := BitVec.ofNat 64 (f (0x600 + 16 * i) 8)
  let p : PendRep := ⟨tag.field 8 2, tag.field 0 6⟩
  if !tag.getLsbD 63 then sl
  else if tag.getLsbD 62 then { sl with pending := if sl.pending.contains p then sl.pending else sl.pending ++ [p] }
  else if p.kind = 2 then sl.wv (BitVec.ofNat 4 p.dest) (BitVec.ofNat 512 (f (0x200 + 64 * (p.dest - 32)) 64))
  else sl.wx (BitVec.ofNat 5 p.dest) (BitVec.ofNat 64 (f (0x608 + 16 * i) 8))

/-- A FIFO with the SEQ and record count of a residue word. Records that a command has added since the frame was stored
stay, and SEQ counts on from the frame's; missing ones are free values (log entry 23). -/
def State.loadFifo (s : State) (sid eng : Nat) (w : Word) : State :=
  let f := (s.slot sid).fifos.toList.getD eng ResFifo.init
  let n := w.field 16 6
  let extra := f.recs.length - n
  let lack := (List.range (n - f.recs.length)).map fun i => Config.freeValue (s.free + i)
  let f' : ResFifo := { f with recs := f.recs ++ lack, seq := BitVec.ofNat 16 (w.field 0 16 + extra) }
  ({ s with free := s.free + lack.length }).modSlot sid fun sl => { sl with fifos := sl.fifos.set! eng f' }

/-- A stream at the position of a residue word; what was read ahead or pushed at that position stays (R360). -/
def Stream.at (t : Stream) (pos : Nat) : Stream :=
  if t.pos = pos then t else { t with pos := pos, fetched := pos, ahead := [] }

/-- A queue residue goes into the binding of queue q (R360). -/
def State.loadResidue (s : State) (sid : Nat) (f : Nat → Nat → Nat) (q : Nat) : State :=
  let b := (s.slot sid).qb q
  let w : Word := BitVec.ofNat 64 (f (0x680 + 48 * q) 8)
  if qKind b = 3 then s.loadFifo sid (qSub b) w
  else if qKind b = 4 ∨ qKind b = 5 then
    let t := (s.stream? sid q).getD (s.readStream sid q (qKind b == 5) (qDesc b))
    (s.setStream sid q (t.at (w.toNat % 2 ^ 32))).feed sid q
  else s

/-- The selected parts of a frame go into the target (R360): C, then X, V and P, then Q. -/
def State.loadFrame (s : State) (v : Word) (f : Nat → Nat → Nat) : State :=
  let t := s.selTarget v
  let m : Word := BitVec.ofNat 64 (f 0 8)
  let s := if selC v then s.modSlot t (·.loadC (t == s.sid) f) else s
  let s := if selX v then s.modSlot t (·.loadX m f) else s
  let s := if selV v then s.modSlot t (·.loadV m f) else s
  let s := if selP v then s.modSlot t (·.loadP m f) else s
  if selQ v then
    let s := s.modSlot t fun sl =>
      { (List.range 8).foldl (fun (sl : Slot) i => sl.loadRep f i) sl with frame := none }
    (List.range 8).foldl (fun (s : State) q => s.loadResidue t f q) s
  else s

/-- CTXLD (R360). A frame whose away bit is set leaves the issuing slot away after KRET (R264). -/
def execCtxld (rs1 rs2 : XReg) (s : State) : Outcome :=
  let v := s.me.rx rs1
  let a := s.me.rx rs2
  let i : Instr := .ctxld rs1 rs2
  s.kernelOnly i fun _ =>
    if isChan s.core then illegalI i
    else match s.ctxChecks v a false with
      | some t => .trap t
      | none =>
        match s.locate s.sid a 2048 .load with
        | .error t => .trap t
        | .ok h =>
          if s.inFlight s.core h.pa 2048 false then .park false
          else match h.st.frameReader h.pa a (selParts v) with
            | .error r => r
            | .ok (f, s1) =>
              let own := s1.selTarget v == s1.sid
              let awayBit := f 7 1 / 128 == 1
              let s2 := s1.loadFrame v f
              (if own && selC v then s2.upd fun sl => { sl with savedAway := awayBit } else s2).ret

end Sys2Proof.Machine
end

