-- ==== Sys2Proof/Machine/Images.lean ====
section
/-! DEFINITION. The images of a team in its save area: what is written of each cluster at a save and read back at a
resume, and the renaming of slots when a team moves to other clusters (spec 02 R29; 12 R260 to R265). -/

namespace Sys2Proof.Machine

/-! ### Slots of a moved team (R29) -/

/-- The slot that takes the place of a slot when logical cluster i moves from `old[i]` to `new[i]`. -/
def renSid (old new : List Nat) (sid : Nat) : Nat :=
  match old.findIdx? (· == clusterOf (coreOf sid)) with
  | some i => new.getD i (sid / 256) * 256 + sid % 256
  | none => sid

/-- A command, a copy, a cluster and a core with their slots renamed. -/
def Cmd.ren (f : Nat → Nat) (c : Cmd) : Cmd := { c with sid := f c.sid }
def Copy.ren (f : Nat → Nat) (c : Copy) : Copy := { c with sid := f c.sid }
def ClusterSt.ren (f : Nat → Nat) (k : ClusterSt) : ClusterSt :=
  { k with queues := k.queues.map fun (l : List Cmd) => l.map fun c => c.ren f,
           running := k.running.map fun c => c.ren f,
           holder := k.holder.map f, leaseWaits := k.leaseWaits.map f,
           refs := k.refs.map fun e => (e.1, f e.2.1, e.2.2),
           writers := k.writers.map fun e => (e.1, f e.2.1, e.2.2) }
def CoreSt.ren (f : Nat → Nat) (k : CoreSt) : CoreSt :=
  { k with chans := k.chans.map fun (l : List Copy) => l.map fun c => c.ren f }

/-! ### Images (R260) -/

/-- n bytes of device storage at an address moved to a virtual range of the save area, or back, as far as the range is
mapped. The save area's own words carry the presence bits and poison marks of the storage's words (the model's choice for
the presence bits that R131 has saved, log entry 99). -/
def State.moveImage (s : State) (ctx : Ctx) (va : Word) (pa n : Nat) (out : Bool) : State :=
  match s.span ctx va n (if out then .store else .load) with
  | .error _ => s
  | .ok (ps, s) =>
    (ps.foldl (fun (x : Nat × State) e =>
      let s := if out then (x.2.beforeWrite e.1 e.2).move e.1 (pa + x.1) e.2 else x.2.move (pa + x.1) e.1 e.2
      (x.1 + e.2, s)) (0, s)).2

/-- Address of the cluster record of logical cluster l, and of its core block k (R260). -/
def Team.clusterRec (t : Team) (l : Nat) : Word := t.save + BitVec.ofNat 64 (0x20000 + l * 0x800000)
def Team.coreBlock (t : Team) (l k : Nat) : Word := t.clusterRec l + BitVec.ofNat 64 (0x530000 + k * 0x2B000)

/-- The model's place for a saved team's resident vectors and tinker buffers, which lie in its engine records (log
entry 6). -/
def parkPa (tid l : Nat) : Nat := 2 ^ 55 + (tid * 512 + l) * 0x20000

/-- A cluster of a die whose identity a peer package serves; what lies there is the peer's (R12; log entry 68). -/
def atPeer (c : Nat) : Bool := decide (1024 ≤ c)

/-- The memory images of logical cluster l on physical cluster c are written to the save area or read back from it. -/
def State.clusterImages (s : State) (t : Team) (tid l c : Nat) (out : Bool) : State :=
  if atPeer c then s else
  let ctx := t.ctx tid
  let b := t.clusterRec l
  let s := s.moveImage ctx b (vaultPa c) (0x400000 - t.vcsh.toNat * 0x100000) out
  let s := s.moveImage ctx (b + 0x400000) (weightPa c) 0x100000 out
  let s := s.moveImage ctx (b + 0x500000) (accPa c 0 0 0) 0x20000 out
  let s := (List.range 16).foldl (fun (s : State) k =>
    s.moveImage ctx (t.coreBlock l k) (lsPa (c * 16 + k)) 0x20000 out) s
  let p := parkPa tid l
  if out then (s.move p (resPa c 0 0) 4096).move (p + 0x10000) (tinkPa c) 0x10000
  else (s.move (resPa c 0 0) p 4096).move (tinkPa c) (p + 0x10000) 0x10000

/-- A parity error met in the accumulators while they are saved (R206, R263): it is attributed to the row's last writer
while its domain is open, and else the word is saved as poison. -/
def State.saveParity (s : State) (c : Nat) : State :=
  let lo := accPa c 0 0 0
  let s := (List.range 256).foldl (fun (s : State) r => (s.readAcc c (r / 64) (r % 64) s.cycle).2.1) s
  let bad := s.badPar.filter fun w => decide (lo ≤ 8 * w ∧ 8 * w < lo + 0x20000)
  { s with poison := bad.foldl (fun l w => mark l w true) s.poison }

/-- The device-private parts of a placed team. -/
def State.privateParts (s : State) (t : Team) : Saved :=
  let rows := (List.range t.place.length).zip t.place
  { place := t.place,
    slots := rows.flatMap fun (e : Nat × Nat) =>
      (s.slots.filter fun x => !isChan (coreOf x.1) && x.1 / 256 == e.2).map fun x => (e.1, x.1 % 256, x.2),
    cores := rows.flatMap fun (e : Nat × Nat) => (List.range 16).map fun k => (e.1, k, s.coreSt (e.2 * 16 + k)),
    clusters := rows.map fun (e : Nat × Nat) => (e.1, s.clusterSt e.2) }

/-- The device-private parts of a cluster record in memory: the engine record and the queue block of every core, whose layout
is the device's own (R260; log entry 15). -/
def State.privateImages (s : State) (t : Team) (tid l : Nat) : State :=
  let put := fun (s : State) (va : Word) (n : Nat) =>
    match s.writeVa (t.ctx tid) va n (Config.privateRecord s.free % 2 ^ (8 * n)) with
    | .ok s => { s with free := s.free + 1 }
    | .error _ => s
  (List.range 16).foldl (fun (s : State) k => put s (t.coreBlock l k + 0x2A000) 0x1000) (put s (t.clusterRec l + 0x520000) 0x10000)

/-- Everything of a stopped team written: its images, its device-private parts, and counters (R263, step 8). -/
def State.writeImages (s : State) (t : Team) (tid : Nat) : State :=
  let rows := (List.range t.place.length).zip t.place
  let s := rows.foldl (fun (s : State) e => s.saveParity e.2) s
  let sv := s.privateParts t
  let s := rows.foldl (fun (s : State) e => (s.clusterImages t tid e.1 e.2 true).privateImages t tid e.1) s
  (s.modTeam tid fun t => { t with saved := some sv }).publish tid

/-! ### The porter frame (R262) -/

/-- A porter copy record of 32 bytes as a number: the source bytes that remain, and the bytes delivered, which are those of the
destination (R153, R262). -/
def State.copyRecord (s : State) (ch : Nat) (c : Copy) : Nat :=
  c.dst.toNat + c.src.toNat * 2 ^ 64 + (c.len - c.done) % 2 ^ 32 * 2 ^ 128 + c.done * c.num / c.den % 2 ^ 32 * 2 ^ 160
    + (match c.batch with | some n => n.toNat | none => (s.slot c.sid).cbatch.toNat) * 2 ^ 192
    + (ch + (match c.bar with | some b => b * 4 + 32 | none => 0) + c.kind * 64) * 2 ^ 224
    + ((match c.ksf with | some b => 1 + b.slot * 2 | none => 0) + (if c.batch.isNone then 16 else 0)) * 2 ^ 232
    + c.sid % 16 * 2 ^ 240

/-- The descriptor of a patterned copy as 32 bytes (R154, R262). -/
def copyDesc (c : Copy) : Nat :=
  c.len / max 1 c.rowBytes + c.rowBytes * 2 ^ 32
    + (if c.kind = 1 then c.sstride.toNat * 2 ^ 64 + c.dstride.toNat * 2 ^ 128 else c.idx * 2 ^ 64)

/-- The incomplete copies of a core with their channels, in issue order within each channel. -/
def CoreSt.copies (k : CoreSt) : List (Nat × Copy) :=
  (List.range 4).flatMap fun ch => (k.chans.toList.getD ch []).map fun c => (ch, c)

/-- The porter frame of a core as offset, bytes and value (R262). -/
def State.porterItems (s : State) (core : Nat) : List (Nat × Nat × Nat) :=
  let k := s.coreSt core
  [(0, 8, k.copies.length)] ++ (List.range 8).map (fun b => (8 + 8 * b, 8, (k.bcnt.toList.getD b 0).toNat))
    ++ (List.range 4).map (fun ch => (0x48 + 8 * ch, 8, (k.wptr.toList.getD ch 0).toNat))
    ++ k.copies.zipIdx.flatMap fun e =>
      [(0x68 + 32 * e.2, 32, s.copyRecord e.1.1 e.1.2)]
        ++ if e.1.2.kind = 0 then [] else [(0x1000 + 32 * e.2, 32, copyDesc e.1.2)]

/-- A saved copy as its record r, and the descriptor d of a patterned one, give it (R262, R264). -/
def Copy.ofRecord (c : Copy) (r d : Nat) : Copy :=
  let f := fun (off n : Nat) => r / 2 ^ (8 * off) % 2 ^ (8 * n)
  let w := fun (off n : Nat) => d / 2 ^ (8 * off) % 2 ^ (8 * n)
  let done := f 0x14 4 * c.den / max 1 c.num
  let b := f 0x1C 1
  let len := f 0x10 4 + done
  { c with
    dst := BitVec.ofNat 64 (f 0 8), src := BitVec.ofNat 64 (f 8 8), len := len, done := done,
    batch := if f 0x1D 1 / 16 % 2 = 1 then none else some (BitVec.ofNat 32 (f 0x18 4)),
    bar := if b / 32 % 2 = 1 then some (b / 4 % 8) else none,
    sid := c.sid / 16 * 16 + f 0x1E 1 % 16,
    rowBytes := if c.kind = 0 then len else w 4 4,
    sstride := if c.kind = 1 then BitVec.ofNat 64 (w 8 8) else c.sstride,
    dstride := if c.kind = 1 then BitVec.ofNat 64 (w 16 8) else c.dstride,
    idx := if 2 ≤ c.kind then w 8 8 else c.idx }

/-- A core's porter state as its frame gives it; what the frame does not hold of a copy is the device's own (R262, R264). -/
def CoreSt.ofFrame (k : CoreSt) (f : Nat → Nat → Nat) : CoreSt :=
  let n := f 0 8
  let recs := (k.copies.zipIdx.filter fun e => decide (e.2 < n)).map fun e =>
    (e.1.1, e.1.2.ofRecord (f (0x68 + 32 * e.2) 32) (f (0x1000 + 32 * e.2) 32))
  { k with bcnt := Vector.ofFn fun b => BitVec.ofNat 64 (f (8 + 8 * b.val) 8),
           wptr := Vector.ofFn fun ch => BitVec.ofNat 64 (f (0x48 + 8 * ch.val) 8),
           chans := Vector.ofFn fun ch => (recs.filter fun e => e.1 == ch.val).map (·.2) }

/-- A core's porter state read from its frame in the save area, as far as it is mapped. -/
def State.readPorter (s : State) (ctx : Ctx) (va : Word) (k : CoreSt) : CoreSt :=
  match s.readVa ctx va 0x2000 with
  | .ok (v, _) => k.ofFrame fun off n => v / 2 ^ (8 * off) % 2 ^ (8 * n)
  | .error _ => k

/-- A copy through a graph that left its combination at RESULT is seeded from there (R239). -/
def State.reseed (s : State) (c : Copy) : Copy :=
  match c.ksf, c.seed with
  | some b, some _ => match s.span (s.copyCtx c) b.result 64 .load with
    | .ok (ps, s) => { c with seed := some (BitVec.ofNat 512 (s.rdPieces ps), s.badPieces ps) }
    | .error _ => c
  | _, _ => c

/-- A saved cluster and its cores on a new physical cluster: the porters from their frames, the rest from the device's own
parts (R264). -/
def State.placeCluster (s : State) (t : Team) (tid : Nat) (sv : Saved) (ren : Nat → Nat) (l c : Nat) : State :=
  if atPeer c then s else
  let s := match tfind sv.clusters l with
    | none => s
    | some k => s.modCluster c fun now =>
        { ClusterSt.ren ren k with vcs := t.vcsh, vcache := [], vfills := [], tlb := [], holder := none, leaseCount := 0,
                                   leaseWaits := [], quiesced := false, scrubbing := false, broken := now.broken,
                                   unitFree := Vector.replicate 4 0, aclock := s.cycle, lastStart := none }
  (sv.cores.filter fun e => e.1 == l).foldl (fun (s : State) e =>
    let k := s.readPorter (t.ctx tid) (t.coreBlock l e.2.1 + 0x28000) (CoreSt.ren ren e.2.2)
    s.modCore (c * 16 + e.2.1) fun _ =>
      { k with trel := t.flags.getLsbD 6, tlb := [], porterStop := false, waits := [], runq := [],
                                  busy := none, flight := Vector.replicate 16 0 }) s

/-- Work of a restored cluster goes on: copies, streams and commands. -/
def State.wakeCluster (s : State) (c : Nat) : State :=
  let s := (List.range 16).foldl (fun (s : State) i =>
    s.modCore (c * 16 + i) fun k => { k with chans := k.chans.map fun (l : List Copy) => l.map s.reseed }) s
  let s := (List.range 64).foldl (fun (s : State) i => s.kick (c * 16 + i / 4) (i % 4)) s
  let s := (List.range 256).foldl (fun (s : State) k =>
    (s.slot (c * 256 + k)).streams.foldl (fun (s : State) e => s.feed (c * 256 + k) e.1) s) s
  (List.range 3).foldl (fun (s : State) eng =>
    if ((s.clusterSt c).queues.toList.getD eng []).isEmpty then s else s.post (.tileCommandStart c eng)) s

/-- Everything of a saved team read back on the clusters of its new place; `f` gives each slot's new contents from its
saved ones. -/
def State.readImages (s : State) (t : Team) (tid : Nat) (place : List Nat) (f : State → Slot → Slot × State) : State :=
  match t.saved with
  | none => s
  | some sv =>
    let ren := renSid sv.place place
    let rows := (List.range place.length).zip place
    let s := rows.foldl (fun (s : State) e =>
      (s.clusterImages t tid e.1 e.2 false).placeCluster t tid sv ren e.1 e.2) s
    let s := sv.slots.foldl (fun (s : State) (e : Nat × Nat × Slot) =>
      let (sl, s) := f s e.2.2
      s.setSlot (place.getD e.1 0 * 256 + e.2.1) sl) s
    let s := s.modTeam tid fun t => { t with saved := none, place := place, state := 1, started := true, resume := false, stop := none }
    place.foldl (fun (s : State) c => s.wakeCluster c) s

end Sys2Proof.Machine
end

