-- ==== Sys2Proof/Machine/Dispatcher.lean ====
section
/-! DEFINITION. The dispatcher: launch records, acceptance and rejection, the dispatch queues, placement, the start of a
team, its completion and the scrub of its clusters (spec 02 R21 to R31, R41 to R43; 12 R252; 24 R443, R444). -/

namespace Sys2Proof.Machine

/-! ### The team record (R24, R25) -/

/-- Address of n bytes at an offset of a team's save area, under the team's tables at kernel level (log entry 24). -/
def State.saveAt (s : State) (t : Team) (tid off n : Nat) (dir : Dir) : Option Hit :=
  match s.resolve (t.ctx tid) (t.save + BitVec.ofNat 64 off) n dir with
  | .ok h => some h
  | .error _ => none

/-- n bytes of a number written at an offset of a team's save area. -/
def State.recPut (s : State) (t : Team) (tid off n v : Nat) : State :=
  match s.saveAt t tid off n .store with
  | some h => h.st.put h.pa n v
  | none => s

/-- The presence bit of the word at an offset of a team's save area; a bit set full is seen by the owner's waiting
entries (R133). -/
def State.recFull (s : State) (t : Team) (tid off : Nat) (on : Bool) : State :=
  match s.saveAt t tid off 8 .store with
  | some h => ((h.st.beforeWrite h.pa 8).setFull (h.pa / 8) on).reexamine h.pa
  | none => s

/-- STATE of the team record. -/
def State.recState (s : State) (t : Team) (tid v : Nat) : State := s.recPut t tid 0 4 v

/-- DONE written with a setting-full store (R25). -/
def State.recDone (s : State) (t : Team) (tid v : Nat) : State := (s.recPut t tid 0x10 8 v).recFull t tid 0x10 true

/-- A launch id enters the table of the 4,096 most recently ended ones with its highest class (R28). -/
def State.endLaunch (s : State) (lid : Word) (cls : Nat) : State :=
  let l := s.ended.filter (fun e => e.1 != lid) ++ [(lid, cls)]
  { s with ended := l.drop (l.length - 4096) }

/-! ### Checking a record (R23, R24, R28, R444) -/

/-- Field of n bytes at an offset of a record. -/
def recField (r off n : Nat) : Nat := r / 2 ^ (8 * off) % 2 ^ (8 * n)

/-- A launch that is queued, resident, stopping or saved has the id. -/
def State.liveLaunch (s : State) (lid : Word) : Bool := s.teams.any fun e => e.2.lid == lid && decide (e.2.state ≤ 2)

/-- A dependence on an id has failed, unless the id names a live launch again (R28; log entry 25). -/
def State.depFailed (s : State) (lid : Word) : Bool :=
  !s.liveLaunch lid && s.ended.any fun e => e.1 == lid && decide (5 ≤ e.2)

/-- Dependences of a record. -/
def recDeps (r : Nat) : List Word := (List.range (min 8 (recField r 0x1A 2))).map fun i => BitVec.ofNat 64 (recField r (0x40 + 8 * i) 8)

/-- A region entry of 32 bytes as a number breaks a rule of code 5. -/
def regionBad (stages reg : Nat) : Bool :=
  let base := recField reg 0 8
  let len := recField reg 8 8
  let w := recField reg 0x10 8
  base % 0x10000 != 0 || len == 0 || len % 0x10000 != 0 || decide (2 < w % 16)
    || (w % 16 == 1 && decide (stages ≤ w / 256 % 256))

/-- Two regions overlap. -/
def regionsMeet (a b : Nat) : Bool :=
  decide (recField a 0 8 < recField b 0 8 + recField b 8 8 ∧ recField b 0 8 < recField a 0 8 + recField a 8 8)

/-- Some two regions of a list overlap. -/
def overlapping : List Nat → Bool
  | [] => false
  | a :: r => r.any (regionsMeet a) || overlapping r

/-- A field of a region that must be zero is not. -/
def regionZeroBad (reg : Nat) : Bool :=
  let w := recField reg 0x10 8
  w / 16 % 16 != 0 || (w % 16 != 1 && w / 256 % 256 != 0) || w / 2 ^ 19 != 0 || recField reg 0x18 8 != 0

/-- A field of the header that must be zero is not. -/
def headerZeroBad (r : Nat) : Bool :=
  recField r 0x0F 1 / 128 != 0 || recField r 0x1E 2 != 0 || recField r 0x3C 4 != 0 || recField r 0x98 1 / 4 != 0
    || recField r 0x99 103 != 0
    || ((List.range 8).drop (min 8 (recField r 0x1A 2))).any fun i => recField r (0x40 + 8 * i) 8 != 0

/-- The lowest rejection code of a record given by its header, entry pcs and regions; 0 accepts it (R24, R444).
`monitor` is the level of the submission. -/
def State.recordCode (s : State) (r : Nat) (entries regions : List Nat) (monitor : Bool) : Nat :=
  let st := recField r 0x08 2
  let c := recField r 0x0A 2
  let mask := recField r 0x0C 2
  let flags := recField r 0x0F 1
  let lid : Word := BitVec.ofNat 64 (recField r 0 8)
  let tid := lid.toNat % 65536
  if st = 0 ∨ 64 < st ∨ c = 0 ∨ 512 < st * c ∨ s.working.length < st * c then 1
  else if mask = 0 ∨ 0x4000 ≤ mask ∨ (mask / 0x2000 % 2 = 1 ∧ flags / 64 % 2 = 0) then 2
  else if recField r 0x0E 1 / 16 < recField r 0x0E 1 % 16 ∨ flags % 4 = 3 then 3
  else if 8 < recField r 0x1A 2 ∨ (recDeps r).contains lid = true ∨ (recDeps r).any s.depFailed = true then 4
  else if regions.any (regionBad st) = true ∨ overlapping regions = true then 5
  else if entries.any (fun e => e % 4 != 0) = true ∨ 64 < recField r 0x1C 2 ∨ recField r 0x90 8 % 4096 ≠ 0 then 6
  else if headerZeroBad r = true ∨ regions.any regionZeroBad = true then 7
  else if (tid == 0 && !monitor || (match s.team? tid with | some t => decide (t.state ≤ 2) | none => false)) = true then 8
  else 0

/-- The team of a record, queued. -/
def State.newTeam (s : State) (record : Word) (r : Nat) (entries regions : List Nat) : Team :=
  let w := fun (off n : Nat) => recField r off n
  let b := fun (off : Nat) => (BitVec.ofNat 64 (w off 8) : Word)
  { gen := 0, lid := b 0, record := record, seq := s.nextSeq, s := w 8 2, c := w 0x0A 2, smask := BitVec.ofNat 16 (w 0x0C 2),
    prio := w 0x0E 1 % 16, cap := w 0x0E 1 / 16, flags := BitVec.ofNat 8 (w 0x0F 1), deadline := w 0x10 8,
    asid := BitVec.ofNat 64 (w 0x18 2), deps := recDeps r, save := b 0x20, ptb := b 0x28, winb := b 0x30,
    winl := BitVec.ofNat 64 (w 0x38 4), arg := b 0x80, safeb := b 0x88, kvec := b 0x90, vcsh := BitVec.ofNat 2 (w 0x98 1),
    entries := entries.map fun e => BitVec.ofNat 64 e, state := 0, place := [], started := false, stop := none,
    resume := false, tstart := 0, moves := 0, late := 0, tflags := 0, poison := 0, corrupt := 0,
    rejects := 0, stale := 0, ksfGen := Vector.replicate 8 0, ksfHas := 0, reports := [],
    done := { reexec := 0, cls := 0, err := 0, exits := 0 }, ckWant := none, ckRun := false, ckUnits := [], ckWritten := [],
    ckCount := 0, ckDone := [], ckMap := [], ckAt := s.ptp, regions := regions, saved := none }

/-- The load generations that a save area holds before its team is accepted; a slot that a KSFLOAD has loaded holds an
image (R234, R260; log entry 28). -/
def State.savedGens (s : State) (tid : Nat) (t : Team) : Team :=
  match s.resolve (t.ctx tid) (t.save + 0x58) 16 .load with
  | .ok h =>
    let g := fun (i : Nat) => s.rd (h.pa + 2 * i) 2
    { t with ksfGen := Vector.ofFn fun i => g i.val,
             ksfHas := BitVec.ofNat 8 ((List.range 8).foldl (fun m i => if g i = 0 then m else m + 2 ^ i) 0) }
  | .error _ => t

/-- Acceptance: the team record is written, DONE and the overflow log are empty, the record is queued (R25, R260, R443). -/
def State.acceptRecord (s : State) (tid : Nat) (t : Team) : State :=
  let t := s.savedGens tid t
  let s := { s with teams := tset s.teams tid t, nextSeq := s.nextSeq + 1 }
  let s := (((s.recPut t tid 0 8 0).recPut t tid 8 8 t.lid.toNat).recPut t tid 0x28 8 0).recFull t tid 0x10 false
  ((s.logClear tid).publish tid).post (.dispatchPlace t.lid [])

/-- Rejection: STATE 4 with the code, the launch id, DONE 0 and full, the id ended with class 5 (R24, R25, R28; log
entry 29). -/
def State.rejectRecord (s : State) (tid : Nat) (t : Team) (code : Nat) : State :=
  (((s.recPut t tid 0 8 (4 + code * 2 ^ 32)).recPut t tid 8 8 t.lid.toNat).recDone t tid 0).endLaunch t.lid 5

/-- The entry pcs and the region entries that follow a header (R23); none of a record with more than 64 stages, which code 1
refuses. Entries of a record with more than 64 regions count as far as they can be read (R24). -/
def State.recordTail (s : State) (ctx : Ctx) (a : Word) (r : Nat) : Except (Word × Word) ((List Nat × List Nat) × State) :=
  let ne := recField r 8 2
  let nr := recField r 0x1C 2
  if 64 < ne then .ok (([], []), s)
  else match s.readVa ctx (a + 256) (8 * ne + 32 * nr) with
    | .ok (body, s) =>
      .ok (((List.range ne).map fun i => recField body (8 * i) 8,
            (List.range nr).map fun i => recField body (8 * ne + 32 * i) 32), s)
    | .error e => if 64 < nr then .ok (([], []), s) else .error e

/-- A launch record submitted by a context (R443, R444): resumed, already live, rejected or accepted; or the trap. -/
def State.submit (s : State) (ctx : Ctx) (a : Word) (monitor : Bool) : Except Trap State :=
  match s.readVa ctx a 256 with
  | .error (va, d) => .error (Trap.sync 5 va d)
  | .ok (r, s) =>
    match s.recordTail ctx a r with
    | .error (va, d) => .error (Trap.sync 5 va d)
    | .ok ((entries, regions), s) =>
      let t := s.newTeam a r entries regions
      let tid := t.lid.toNat % 65536
      match s.resolve (t.ctx tid) t.save 64 .load with
      | .error d => .error (Trap.sync 5 t.save d)
      | .ok h =>
        let s := h.st
        let state := s.rd h.pa 4
        let sameLid := s.rd (h.pa + 8) 8 == t.lid.toNat
        let old := s.team? tid
        if (state == 2 && sameLid && (match old with | some o => o.state == 2 && o.lid == t.lid | none => false)) = true then
          let s := s.modTeam tid fun o =>
            { o with resume := true, record := a, save := t.save, ptb := t.ptb, winb := t.winb, winl := t.winl,
                     seq := if o.resume then o.seq else s.nextSeq }
          .ok ({ s with nextSeq := s.nextSeq + 1 }.post (.teamResume t.lid []))
        else if state ≤ 1 ∧ sameLid = true then .error (Trap.sync 11 t.lid)
        else
          let code := s.recordCode r entries regions monitor
          .ok (if code = 0 then s.acceptRecord tid t else s.rejectRecord tid t code)

/-- TEAMGO (R443): the check is at once, so the slot does not stay parked. -/
def execTeamgo (rs1 : XReg) (s : State) : Outcome :=
  let a := s.me.rx rs1
  s.kernelOnly (.teamgo rs1) fun _ =>
    if a.toNat % 256 ≠ 0 then .trap (Trap.sync 4 a)
    else match s.locate s.sid a 256 .load with
      | .error t => .trap t
      | .ok h => match h.st.submit (s.ctx s.sid) a (s.me.level == .monitor) with
        | .error t => .trap t
        | .ok s' => s'.ret

/-- The kernel's launch record (R252): LID bits [15:0] zero, class 2, ARG the boot report's physical-window address. -/
def kernelRecord (r : Nat) : Bool :=
  recField r 0 2 == 0 && recField r 0x0F 1 % 4 == 2 && recField r 0x80 8 == 2 ^ 56 + bootReportPa

/-- KERNEL_LAUNCH (R252): the monitor submits the record at a physical address once the stewards have verified the kernel image;
any other record than the kernel's, or a refused one, leaves the kernel unlaunched. -/
def execKernelLaunch (record : Word) (s : State) : Outcome :=
  let ctx : Ctx := { sid := 0, core := 0, level := .monitor, asid := 0, ptb := 0, team := 0, thread := false }
  .next (if (s.booted && s.kernelOk && kernelRecord (s.rd (record.toNat % 2 ^ 50) 256)) = false then s
    else match s.submit ctx (BitVec.ofNat 64 (2 ^ 56 + record.toNat % 2 ^ 50)) true with
      | .ok s' => s'
      | .error _ => s)

/-! ### Placement (R26, R27, R30) -/

/-- A working cluster that no team holds and that is scrubbed. -/
def State.freeCluster (s : State) (c : Nat) : Bool :=
  let k := s.clusterSt c
  k.team.isNone && !k.scrubbing && !k.broken

/-- The free clusters in physical order. -/
def State.freeClusters (s : State) : List Nat := s.working.filter s.freeCluster

/-- The first n numbers of a list of free clusters for one stage: of the lowest die that has n free, else of as few
dies as the free clusters allow, the fullest first (R30). -/
def pickStage (free : List Nat) (n : Nat) : List Nat :=
  let onDie := fun (d : Nat) => free.filter fun c => c / 64 == d
  let dies := List.range 32
  match dies.find? fun d => decide (n ≤ (onDie d).length) with
  | some d => (onDie d).take n
  | none => ((dies.mergeSort fun a b => decide ((onDie b).length ≤ (onDie a).length)).flatMap onDie).take n

/-- Clusters for some stages of n clusters each. -/
def pickStages (n : Nat) : Nat → List Nat → List Nat
  | 0, _ => []
  | k + 1, free =>
    let l := pickStage free n
    l ++ pickStages n k (free.filter fun c => !l.contains c)

/-- Dies that clusters lie on. -/
def diesOf (l : List Nat) : Nat := ((List.range 32).filter fun d => l.any fun c => c / 64 == d).length

/-- A choice of clusters for a stage keeps R30: free, distinct, on no more dies than needed; then the rest. -/
def choiceOk (n : Nat) : Nat → List Nat → List Nat → Bool
  | 0, _, choice => choice.isEmpty
  | k + 1, free, choice =>
    let l := choice.take n
    l.length == n && l.all free.contains && l.eraseDups.length == n && decide (diesOf l ≤ diesOf (pickStage free n))
      && choiceOk n k (free.filter fun c => !l.contains c) (choice.drop n)

/-- The clusters of a placement: the dispatcher's choice where it keeps R30, else the model's (log entry 1). -/
def State.placeFor (s : State) (t : Team) (choice : List Nat) : List Nat :=
  if choiceOk t.c t.s s.freeClusters choice then choice else pickStages t.c t.s s.freeClusters

/-- Some launch that a record depends on has neither ended nor failed (R28). -/
def State.depWaits (s : State) (t : Team) : Bool := t.deps.any s.liveLaunch

/-- A record that waits in a dispatch queue and is eligible: queued with its dependences satisfied, or waiting to
resume (R26, R28, R445). -/
def State.eligible (s : State) (t : Team) : Bool :=
  (t.state == 0 && !s.depWaits t && !t.deps.any s.depFailed) || (t.state == 2 && t.resume)

/-- Of two waiting teams the first is considered no later: team 0 first, then the higher priority, then the older
(R26, R252). -/
def before (a b : Nat × Team) : Bool :=
  a.1 == 0 || (b.1 != 0 && (decide (b.2.prio < a.2.prio) || (a.2.prio == b.2.prio && decide (a.2.seq ≤ b.2.seq))))

/-- The record that the dispatcher considers next: no eligible one stands before it, so none blocks it (R26). -/
def State.isNext (s : State) (tid : Nat) (t : Team) : Bool :=
  s.eligible t && s.teams.all fun e => e.1 == tid || !s.eligible e.2 || before (tid, t) e

/-- A team of a launch id, with its number. -/
def State.findLaunch (s : State) (lid : Word) : Option (Nat × Team) :=
  s.teams.find? fun e => e.2.lid == lid && decide (e.2.state ≤ 2)

/-- Everything that a cluster's scrub makes zero and full: local stores, vault, weight buffer, accumulators, and the
model's other storage of its engines (R27, R42). -/
def State.scrubCluster (s : State) (c : Nat) : State :=
  let s := ((s.zero (lsPa (c * 16)) 0x200000).zero (vaultPa c) 0x400000).zero (weightPa c) 0x100000
  let s := ((s.zero (accPa c 0 0 0) 0x20000).zero (resPa c 0 0) 4096).zero (tinkPa c) 0x10000
  { s with badPar := s.badPar.filter fun w => !decide (accPa c 0 0 0 ≤ 8 * w ∧ 8 * w < accPa c 0 0 0 + 0x20000) }

/-- The slots of a cluster as they are before anything starts, and its cores with the TREL of a team. -/
def State.clearCluster (s : State) (c : Nat) (trel : Bool) : State :=
  let s := { s with slots := s.slots.filter fun e => coreOf e.1 / 16 != c || isChan (coreOf e.1) }
  (List.range 16).foldl (fun (s : State) k => s.modCore (c * 16 + k) fun _ => { CoreSt.init with trel := trel }) s

/-- User slots that start on a core. -/
def startCount (m : BitVec 16) : Nat := ((List.range 16).filter fun i => m.getLsbD i).length

/-- Clusters given to a team: scrubbed, without translations, with its barriers, VCS and TREL (R27, R34, R128, R159). What a
peer package does with a cluster that it serves is its own (log entry 68). -/
def State.claim (s : State) (tid : Nat) (t : Team) (place : List Nat) : State :=
  let rows := (List.range place.length).zip place
  rows.foldl (fun (s : State) e =>
    let s := if atPeer e.2 then s else (s.scrubCluster e.2).clearCluster e.2 (t.flags.getLsbD 6)
    s.modCluster e.2 fun k =>
      { ClusterSt.init with team := some tid, logical := e.1, vcs := t.vcsh, broken := k.broken,
                            bars := Vector.replicate 8 (Bar.init (startCount t.smask)) }) s

/-! ### Regions (R23; log entry 100) -/

/-- The home of a page for HOME and ATTR of its region (R23, R241): one channel for HOME 2 and for row-local pages, which take
rows of one bank; 40 channels for HOME 1; none, which is all channels, for HOME 0. Which channels and rows placement
chooses is a free value. -/
def homeFor (home : Nat) (rl : Bool) (w : Word) : Option Home :=
  let one := w.toNat % 480
  if rl then some { chans := [one], row := some (w.toNat / 480 % 2 ^ 20 * 64) }
  else match home with
    | 2 => some { chans := [one], row := none }
    | 1 => some { chans := (List.range 40).map fun i => one / 40 * 40 + i, row := none }
    | _ => none

/-- The page of a region at a virtual address: ATTR is ORed into its leaf, and its physical page gets its home; entries that
wait on its words go with it (R23, R135). -/
def State.homePage (s : State) (t : Team) (w : Nat) (va : Word) : State :=
  match s.walkFrom va 3 0 (ptRoot t.ptb) with
  | .error _ => s
  | .ok (lpa, e, level) =>
    let e' : Word := e ||| BitVec.ofNat 64 (w / 2 ^ 16 % 8 * 2 ^ 8)
    let s := if e' = e then s else s.put lpa 8 e'.toNat
    let pa := leafPa e' level va
    if ownerOf pa ≠ .hbm ∨ s.reserveBase ≤ pa then s
    else
      let (v, s) := s.fresh
      let page := pa / 0x10000
      let homes := match homeFor (w % 16) (pteRL e') v with
        | some h => tset s.homes page h
        | none => tdel s.homes page
      s.moveWaits { s with homes := homes } page

/-- Every page of a team's regions homed, with its attributes (R23). -/
def State.homeRegions (s : State) (t : Team) : State :=
  t.regions.foldl (fun (s : State) reg =>
    (List.range (recField reg 8 8 / 0x10000)).foldl (fun (s : State) i =>
      s.homePage t (recField reg 0x10 8) (BitVec.ofNat 64 (recField reg 0 8 + i * 0x10000))) s) s

/-- DISPATCH_PLACE (R26, R27): the record is placed whole when it is the next one and enough clusters are free; else it
waits. The pages of its regions are homed at its first placement (R23). A dependence that failed rejects it when it would become eligible (R28). A team that was aborted to its domains
is placed with its saved state (R266). -/
def execDispatchPlace (lid : Word) (choice : List Nat) (s : State) : Outcome :=
  .next (match s.findLaunch lid with
    | none => s
    | some (tid, t) =>
      if t.state ≠ 0 then s
      else if !s.depWaits t && t.deps.any s.depFailed then s.post (.dependenceReject lid)
      else
        let place := s.placeFor t choice
        if s.booted = true ∧ s.holdDispatch = false ∧ s.isNext tid t = true ∧ place.length = t.s * t.c then
          let s := if t.gen = 0 then s.homeRegions t else s
          let s := (s.claim tid t place).modTeam tid fun t => { t with place := place, state := 1, started := false }
          (s.recState t tid 1).post (.teamStart tid)
        else s.post (.dispatchPlace lid choice))

/-- The coordinate of slot k of a core of a logical cluster (R22). -/
def coordOf (c l core k : Nat) : Word := BitVec.ofNat 64 (l / c * 2 ^ 48 + l % c * 2 ^ 32 + core * 2 ^ 16 + k)

/-- A user slot at the start of a team: entry pc, a0, reset values, the launch record's registers; the kernel's slots
begin at kernel level (R27, R55, R252). -/
def Team.startSlot (t : Team) (tid l core k : Nat) : Slot :=
  let sl := { t.slot tid with coord := coordOf t.c l core k, pc := pcOf (t.entries.getD (l / t.c) 0),
                              level := if tid = 0 then .kernel else .task, preqReq := t.stop == some 0 }
  sl.wx 10 t.arg

/-- The first start of a team, in its first generation, sets TSTART, and LATE bit 0 past the deadline (R24, R28). -/
def State.noteStart (s : State) (tid : Nat) : State :=
  match s.team? tid with
  | none => s
  | some t =>
    if t.gen ≠ 0 then s
    else
      let late := if t.deadline ≠ 0 ∧ t.deadline < s.ptp then t.late ||| 1 else t.late
      ((s.modTeam tid fun t => { t with tstart := s.ptp, late := late }).recPut t tid 0x18 8 s.ptp).recPut t tid 0x2C 4 late

/-- A slot of a team that was aborted to its domains: it goes on from its snapshot under the new generation, with the
registers of the launch record loaded again (R264, R266). -/
def Team.againSlot (t : Team) (tid : Nat) (sl : Slot) : Slot :=
  let b := t.slot tid
  { sl with teamid := b.teamid, asid := t.asid, ptbase := t.ptb, teamctx := t.save, winbase := t.winb, winlen := t.winl,
            safeb := b.safeb, kvec := t.kvec }

/-- TEAM_START (R27): every started slot of the placed clusters begins, with `tflags` 0 (R55, R120). A team that was aborted to
its domains goes on with its saved state (R266). -/
def execTeamStart (tid : Nat) (s : State) : Outcome :=
  .next (match s.team? tid with
    | none => s
    | some t =>
      if t.state ≠ 1 ∨ t.started = true then s
      else if t.saved.isSome then s.readImages t tid t.place fun s sl => (t.againSlot tid sl, s)
      else
        let rows := (List.range t.place.length).zip t.place
        let s := (rows.filter fun (e : Nat × Nat) => !atPeer e.2).foldl (fun (s : State) e =>
          (startedSlots t e.2).foldl (fun (s : State) sid =>
            s.setSlot sid (t.startSlot tid e.1 (coreOf sid % 16) (sid % 16))) s) s
        ((s.count tid fun t => { t with started := true, tflags := 0 }).noteStart tid))

/-- DEPENDENCE_REJECT (R28): a record whose dependence failed is rejected with code 4 when it would become eligible. -/
def execDependenceReject (lid : Word) (s : State) : Outcome :=
  .next (match s.findLaunch lid with
    | none => s
    | some (tid, t) =>
      if t.state = 0 ∧ s.depWaits t = false ∧ t.deps.any s.depFailed = true then
        (s.modTeam tid fun t => { t with state := 4 }).rejectRecord tid t 4
      else s)

/-! ### Completion (R41 to R43) -/

/-- A cluster is done (R41): its started slots and spawned travellers have exited, its porters and engines have
finished. -/
def State.clusterDone (s : State) (t : Team) (c : Nat) : Bool :=
  let k := s.clusterSt c
  let coreDone := fun (i : Nat) =>
    (s.coreSt (c * 16 + i)).chans.toList.all (·.isEmpty)
      && (List.range 16).all fun j => (s.slot ((c * 16 + i) * 16 + j)).streams.all fun e => !e.2.out || e.2.ahead.isEmpty || e.2.bad
  s.allExited t c && k.spawned == 0 && k.running.isEmpty && k.queues.toList.all (·.isEmpty) && (List.range 16).all coreDone

/-- A done status word (R41). -/
def Done.word (d : Done) : Nat :=
  min d.reexec 0xFFFF * 2 ^ 48 + d.cls % 16 * 2 ^ 44 + d.err.toNat * 2 ^ 32 + d.exits % 2 ^ 32

/-- A done status word taken apart. -/
def Done.ofWord (w : Word) : Done :=
  { reexec := w.field 48 16, cls := w.field 44 4, err := w.extractLsb' 32 12, exits := w.field 0 32 }

/-- Two done words combined field by field (R42). -/
def Done.join (a b : Done) : Done :=
  { reexec := min (a.reexec + b.reexec) 0xFFFF, cls := max a.cls b.cls, err := a.err ||| b.err, exits := a.exits + b.exits }

/-- The clusters of a team leave it and are scrubbed (R42). -/
def State.releaseClusters (s : State) (place : List Nat) : State :=
  place.foldl (fun (s : State) c =>
    if atPeer c then s.modCluster c fun k => { ClusterSt.init with broken := k.broken } else
    ((s.clearCluster c false).modCluster c fun k => { ClusterSt.init with scrubbing := true, broken := k.broken }).post
      (.clusterScrubComplete c)) s

/-- TEAM_COMPLETION (R42): the relay root adds `tflags`, writes DONE, TEND, LATE bit 1 and STATE 3, and releases the
clusters; a stop in progress ends (R263, R445). -/
def State.teamDone (s : State) (tid : Nat) (t : Team) (d : Done) : State :=
  let d := { d with err := d.err ||| errOfFlags t.tflags, cls := max d.cls (if t.tflags.getLsbD 5 then 3 else 0) }
  let late := if t.deadline ≠ 0 ∧ t.deadline < s.ptp then t.late ||| 2 else t.late
  let s := (((s.recPut t tid 0x20 8 s.ptp).recPut t tid 0x2C 4 late).recState t tid 3).recDone t tid (Done.word d)
  let s := s.recFull t tid 0 true
  let s := s.modTeam tid fun t =>
    { t with state := 3, stop := none, late := late, done := d, ckDone := [], ckMap := [], ckRun := false, ckWant := none }
  (s.endLaunch t.lid d.cls).releaseClusters t.place

/-- DONE_MESSAGE (R41, R42): with w = 0 a cluster whose slots have exited looks whether it is done and then sends its
word; a word is combined at the relay root, and the last one completes the team. -/
def execDoneMessage (tid logical : Nat) (w : Word) (s : State) : Outcome :=
  .next (match s.team? tid with
    | none => s
    | some t =>
      if t.state ≠ 1 ∨ tid = 0 then s
      else match t.place[logical]? with
        | none => s
        | some c =>
          if w = 0 then
            if (s.clusterSt c).doneSent = true ∨ s.allExited t c = false then s
            else if s.clusterDone t c then
              (s.modCluster c fun k => { k with doneSent := true }).post
                (.doneMessage tid logical (BitVec.ofNat 64 (Done.word (s.clusterSt c).done)))
            else s.post (.doneMessage tid logical 0)
          else if t.reports.contains logical then s
          else
            let d := Done.join t.done (Done.ofWord w)
            let reports := mark t.reports logical true
            let s := s.modTeam tid fun t => { t with done := d, reports := reports }
            if reports.length = t.s * t.c then s.teamDone tid t d else s)

/-- CLUSTER_SCRUB_COMPLETE (R42): a released cluster is zero and full, and free. -/
def execClusterScrubComplete (cluster : Nat) (s : State) : Outcome :=
  .next (if (s.clusterSt cluster).scrubbing then
      (s.scrubCluster cluster).modCluster cluster fun k => { k with scrubbing := false }
    else s)

end Sys2Proof.Machine
end

