-- ==== Sys2Proof/Machine/Preempt.lean ====
section
/-! DEFINITION. Stopping and resuming teams: TEAMSTOP with its estimate, the save of travellers, porters, arrays and
images, the discard of a team, the state loss sequence, and the resume (spec 12 R263 to R266; 13 R282; 24 R445). -/

namespace Sys2Proof.Machine

/-! ### Travellers and packets of a team -/

/-- The team whose packet, report or message an event carries. -/
def eventTeam : Event → Option Nat
  | .travellerArrival p _ _ _ _ | .travellerRetry p _ _ _ _ | .homePacketArrival ⟨p, _⟩ | .remoteUpdate p _ => some p.team
  | .spawnExitReport t _ _ | .messageArrival t _ _ (.hole _) => some t
  | _ => none

/-- The slots that run a traveller of a team. -/
def State.travSlots (s : State) (tid : Nat) : List Nat :=
  (s.slots.filter fun e => e.2.status != .idle && (match e.2.trav with | some v => v.team == tid | none => false)).map (·.1)

/-- A queue entry is a traveller or a remote update of a team; active messages, and atomics that a slot waits for, are work of
slots and stay. -/
def RunEnt.frameOf (e : RunEnt) (tid : Nat) : Bool := e.p.team == tid && e.p.act.isNone

/-- The owners that have a queue: cores and vault controllers. -/
def State.owners (s : State) : List Nat := s.coreTab.map (·.1) ++ s.clusters.map fun e => vaultOwner0 + e.1

/-- The run queues without a team's frames. -/
def State.unqueue (s : State) (tid : Nat) : State :=
  s.owners.foldl (fun (s : State) o => s.setQueue o ((s.queueOf o).filter fun e => !e.frameOf tid)) s

/-- The frames of a team in a queue moved into its log; those for which it has no room stay (log entry 92). -/
def State.logRuns (s : State) (tid : Nat) : List RunEnt → List RunEnt × State
  | [] => ([], s)
  | e :: r =>
    match (if e.frameOf tid then s.logPut tid (.frame e.p) else none) with
    | some s' => State.logRuns s' tid r
    | none =>
      let (l, s) := State.logRuns s tid r
      (e :: l, s)

/-- The frames of a team in every queue moved into its log (R263, step 3). -/
def State.logQueues (s : State) (tid : Nat) : State :=
  s.owners.foldl (fun (s : State) o =>
    let (q, s) := s.logRuns tid (s.queueOf o)
    s.setQueue o q) s

/-- Nothing of a team's travellers is left in a queue or with an innkeeper. -/
def State.queueClear (s : State) (tid : Nat) : Bool :=
  s.owners.all fun o => (s.queueOf o).all (fun e => e.p.team != tid) && (s.busyOf o).all fun p => p.team != tid

/-! ### Starting a stop (R263, R266, R445) -/

/-- Every core and cluster of a team has its quiesce event, every traveller its save event. -/
def State.postQuiesce (s : State) (tid : Nat) (t : Team) : State :=
  let s := (s.travSlots tid).foldl (fun (s : State) sid => s.post (.travellerSave tid sid)) s
  let s := t.place.foldl (fun (s : State) c =>
    ((List.range 16).foldl (fun (s : State) k => s.post (.porterQuiesce tid (c * 16 + k))) s).post (.arrayQuiesce tid c)) s
  s.post (.saveComplete tid)

/-- A save begins (R263, steps 1 to 3): messages go to the log from now on, REQ is set in every user slot, waiting
travellers move into the log. -/
def State.startSave (s : State) (tid : Nat) (t : Team) : State :=
  let s := (s.modTeam tid fun t => { t with stop := some 0 }).logQueues tid
  let s := t.userSlots.foldl (fun (s : State) sid =>
    s.modSlot sid fun sl => if sl.status = .exited then sl else { sl with preqReq := true }) s
  s.postQuiesce tid t

/-- The frames that run for a team end: its travellers, its queue entries, its log. -/
def State.killTeam (s : State) (tid : Nat) : State :=
  let s := (s.travSlots tid).foldl (fun (s : State) sid => s.freeSlot sid) s
  (s.unqueue tid).logClear tid

/-- A unit rebuilt from its pieces at place k, eight of which are enough: its data as they were written, its words good. A unit
that has lost more keeps what it has (R285, R287). -/
def State.rebuildUnit (s : State) (unit k : Nat) : State :=
  if 2 < ((List.range 10).filter fun i => s.lostPieces.contains (s.piecePa k i)).length then s
  else
    let pa := unit * 0x10000
    let s := (List.range 8).foldl (fun (s : State) i => s.moveData (pa + i * pieceBytes) (s.piecePa k i) pieceBytes) (s.beforeWrite pa 0x10000)
    let mine := fun (w : Nat) => decide (pa ≤ 8 * w ∧ 8 * w < pa + 0x10000)
    { s with poison := s.poison.filter fun w => !(mine w && s.lost.contains w), lost := s.lost.filter fun w => !mine w }

/-- CK pages rebuilt from the last committed checkpoint (R282, step 4). -/
def State.rebuildPages (s : State) (t : Team) : State := t.ckMap.foldl (fun (s : State) e => s.rebuildUnit e.1 e.2) s

/-- A team is queued again with the next generation (R266, R282). -/
def State.queueAgain (s : State) (tid : Nat) (f : Team → Team) : State :=
  match s.team? tid with
  | none => s
  | some t =>
    let s := s.modTeam tid fun t => f { t with
      gen := (t.gen + 1) % 65536, state := 0, stop := none, started := false, seq := s.nextSeq, resume := false, reports := [],
      ckWant := none, ckRun := false, ckUnits := [], ckDone := [] }
    let s := { s with nextSeq := s.nextSeq + 1 }
    ((s.recState t tid 0).recFull t tid 0 true).post (.dispatchPlace t.lid [])

/-- What is readable of a resident team is saved: the images of its clusters that have not failed (R282, step 2; log entry 102). -/
def State.saveReadable (s : State) (tid : Nat) (t : Team) : State :=
  if t.state ≠ 1 then s
  else ((List.range t.place.length).zip t.place).foldl (fun (s : State) e =>
    if (s.clusterSt e.2).broken then s else (s.saveParity e.2).clusterImages t tid e.1 e.2 true) s

/-- The state loss sequence of a team (R282): it ends, what is readable is saved, its CK pages are rebuilt, and it is queued
again with class 4 to start at its entry; ERR bit 11 of a re-placement stays (R43). -/
def State.stateLoss (s : State) (tid : Nat) (t : Team) : State :=
  let s := ((s.killTeam tid).saveReadable tid t).rebuildPages t
  let s := if t.state = 1 then s.releaseClusters t.place else s
  s.queueAgain tid fun t => { t with place := [], saved := none, done := { reexec := 0, cls := 4, err := t.done.err &&& errBit 11, exits := 0 } }

/-- STATE_LOSS_SEQUENCE (R282), for a team that is resident, saved or stopping. -/
def execStateLossSequence (tid : Nat) (s : State) : Outcome :=
  .next (match s.team? tid with
    | some t => if (t.state = 1 ∨ t.state = 2) ∧ tid ≠ 0 then s.stateLoss tid t else s
    | none => s)

/-- A discard begins (R266, R282): when every started user slot has a domain open, each is aborted to its outermost
snapshot and the team is then queued again; otherwise the state loss sequence runs. -/
def State.startDiscard (s : State) (tid : Nat) (t : Team) : State :=
  if t.userSlots.all fun sid => (s.slot sid).doms != [] then
    let s := (s.killTeam tid).modTeam tid fun t => { t with stop := some 2 }
    let s := t.place.foldl (fun (s : State) c => s.modCluster c fun k => { k with quiesced := true }) s
    let s := t.userSlots.foldl (fun (s : State) sid =>
      (s.modSlot sid fun sl => { sl with
        level := .task, heldAbort := [], status := if sl.status.safePark then .ready else sl.status }).abortDom sid
          (match (s.slot sid).doms.getLast? with | some d => d.serial | none => 0) 0) s
    s.post (.saveComplete tid)
  else s.stateLoss tid t

/-- Nanoseconds of a team's work that a discard would lose: since its oldest open domain opened, else since its last
checkpoint (R266). -/
def State.discardNs (s : State) (t : Team) : Nat :=
  match t.userSlots.flatMap fun sid => (s.slot sid).doms.map (·.opened) with
  | [] => s.ptp - t.ckAt
  | o :: os => (s.cycle - os.foldl min o) * 2 / 3

/-- COST_ESTIMATE (R266): drain, discard or save, as the modes 3, 2 and 0. -/
def State.estimate (s : State) (t : Team) (budgetUs : Nat) : Nat :=
  let started := t.userSlots.length
  let exited := (t.userSlots.filter fun sid => (s.slot sid).status == .exited).length
  let cls := t.flags.toNat % 4
  if cls = 2 ∨ (exited ≠ 0 ∧ (s.ptp - t.tstart) * (started - exited) ≤ budgetUs * 1000 * exited) then 3
  else if cls = 1 ∧ s.discardNs t < Config.saveNs t.place.length then 2
  else 0

/-- A team is in its start-up, or the package in a test or a recovery (R266; log entry 101). -/
def State.exceptional (s : State) (t : Team) : Bool :=
  !t.started || s.dmap.toList.any (·.held) || s.remap.isSome || s.agenda.any fun e => match e with
    | .stewardDieTest _ | .unitFailure _ _ | .diagnosisVote _ _ _ _ _ | .replacement _ _ _ _ | .stateLossSequence _
    | .packageLoss _ _ | .domainAbort _ _ _ | .domainRestore _ => true
    | _ => false

/-- A stop of a resident team by its mode: held for class 2, a discard of a class 0 team is a save (R263); mode 1, and any stop
during start-up, test or recovery, by the estimate (R266). -/
def State.startStop (s : State) (tid : Nat) (t : Team) (mode budgetUs : Nat) : State :=
  let cls := t.flags.toNat % 4
  if cls = 2 then s
  else
    let m := if mode = 1 ∨ s.exceptional t = true then s.estimate t budgetUs else mode
    if m = 3 then s
    else if m = 2 ∧ cls ≠ 0 then s.startDiscard tid t
    else s.startSave tid t

/-- TEAMSTOP (R445). -/
def execTeamstop (rs1 : XReg) (s : State) : Outcome :=
  let r := s.me.rx rs1
  let id := r.field 0 16
  let mode := r.field 16 2
  s.kernelOnly (.teamstop rs1) fun _ =>
    if r.extractLsb' 18 6 ≠ 0 ∨ mode = 3 ∨ id = 0 then .trap (Trap.sync 11 r)
    else match s.team? id with
      | none => .trap (Trap.sync 11 r)
      | some t =>
        match t.state with
        | 0 =>
          let s := s.modTeam id fun t => { t with state := 5 }
          ((((s.recState t id 5).recDone t id 0).recFull t id 0 true).endLaunch t.lid 5).ret
        | 1 =>
          if t.stop.isSome then s.ret
          else ((s.recFull t id 0 false).startStop id t mode (r.field 24 40)).ret
        | 2 =>
          if t.resume then ((s.modTeam id fun t => { t with resume := false }).recFull t id 0 true).ret
          else .trap (Trap.sync 11 r)
        | _ => .trap (Trap.sync 11 r)

/-! ### Saving (R263) -/

/-- A team that is being saved. -/
def State.saving (s : State) (tid : Nat) : Option Team :=
  (s.team? tid).filter fun t => t.state == 1 && t.stop == some 0

/-- A user slot is saved or has exited. -/
def State.settled (s : State) (sid : Nat) : Bool := (s.slot sid).status == .exited || s.isSaved sid

/-- TRAVELLER_SAVE (R263, step 3): a traveller at a safe point becomes a frame of the log; until then, and while the log has no
room, it runs on (log entry 92). -/
def execTravellerSave (tid sid : Nat) (s : State) : Outcome :=
  let sl := s.slot sid
  .next (match s.saving tid, sl.trav with
    | some _, some v =>
      if v.team ≠ tid ∨ sl.status = .idle then s
      else if sl.atSafePoint && (sl.status == .ready || sl.status.safePark) && sl.status != .parked .atom && sl.pending.isEmpty then
        match (s.withdraw sid).logPut tid (.frame { s.packetOf sid v.kind v.target sl.pc with reply := v.reply }) with
        | some s => s.freeSlot sid
        | none => s.post (.travellerSave tid sid)
      else s.post (.travellerSave tid sid)
    | _, _ => s)

/-- What a copy through a graph leaves when it is quiesced (R239): its combination so far at RESULT, from which it is
seeded on resume, and its flags in the slot and its frame. A fault suspends it (R143). -/
def State.quiesceCopy (s : State) (c : Copy) : Copy × State :=
  match c.ksf with
  | none => (c, s)
  | some b => match s.writeResult c b with
    | .ok (c, r, s) => ({ c with flags := 0, regs := [], seed := r }, s.giveFlags c.sid c.flags)
    | .error (va, d) =>
      ({ c with flags := 0, susp := some (va, engDetail d) },
        (s.giveFlags c.sid c.flags).later c.sid (Trap.sync 14 va (engDetail d)))

/-- Every copy of a core's channels quiesced. -/
def State.quiesceChans (s : State) (core : Nat) : State :=
  (List.range 4).foldl (fun (s : State) ch =>
    let (l, s) := ((s.coreSt core).chans.toList.getD ch []).foldl (fun (x : List Copy × State) c =>
      let (c, s) := x.2.quiesceCopy c
      (x.1 ++ [c], s)) ([], s)
    s.modChanList core ch fun _ => l) s

/-- Items written at a virtual address of the save area, as far as it is mapped. -/
def State.saveItems (s : State) (ctx : Ctx) (va : Word) (l : List (Nat × Nat × Nat)) : State :=
  l.foldl (fun (s : State) e => match s.writeVa ctx (va + BitVec.ofNat 64 e.1) e.2.1 e.2.2 with
    | .ok s => s
    | .error _ => s) s

/-- PORTER_QUIESCE (R263, step 4): once every user slot of the core is saved or has exited, the porter accepts nothing
more, performs the pushed elements of its streams, writes their positions and writes its frame. -/
def execPorterQuiesce (tid core : Nat) (s : State) : Outcome :=
  .next (match s.saving tid with
    | none => s
    | some t =>
      let cl := clusterOf core
      let slots := (startedSlots t cl).filter fun sid => coreOf sid == core
      let pushes := s.agenda.any fun e => match e with
        | .streamElementWrite sid _ => coreOf sid == core
        | _ => false
      if !slots.all s.settled || pushes then s.post (.porterQuiesce tid core)
      else
        let s := slots.foldl (fun (s : State) sid =>
          (s.slot sid).streams.foldl (fun (s : State) e => s.writePos sid e.1 e.2) s) s
        let s := (s.quiesceChans core).modCore core fun k => { k with porterStop := true }
        let l := t.place.findIdx (· == cl)
        s.saveItems (t.ctx tid) (t.coreBlock l (core % 16) + 0x28000) (s.porterItems core))

/-- ARRAY_QUIESCE (R263, step 5): once every user slot of the cluster is saved or has exited, the array releases every
lease, starts nothing more, and completes its started commands; suspended ones keep their step. -/
def execArrayQuiesce (tid cluster : Nat) (s : State) : Outcome :=
  .next (match s.saving tid with
    | none => s
    | some t =>
      if !(startedSlots t cluster).all s.settled then s.post (.arrayQuiesce tid cluster)
      else
        let s := s.modCluster cluster fun k => { k with holder := none, leaseCount := 0, leaseWaits := [], quiesced := true }
        let s := s.arrayRun cluster
        if (s.clusterSt cluster).running.any fun c => c.susp.isNone then s.post (.arrayQuiesce tid cluster) else s)

/-- Nothing of a team is on its way: packets, replies, posted stores (R263, steps 3, 6 and 7). -/
def State.still (s : State) (tid : Nat) (t : Team) : Bool :=
  (s.travSlots tid).isEmpty && s.queueClear tid && s.agenda.all (fun e => eventTeam e != some tid)
    && t.place.all fun c => (List.range 16).all fun k =>
      !s.unreleased (c * 16 + k) 5 && (List.range 16).all fun i =>
        let sl := s.slot ((c * 16 + k) * 16 + i)
        sl.status == .idle || (!sl.repliesDue && sl.doms.all fun d => d.aborting.isNone)

/-- Presence-wait entries of a team's slots are removed without effect (R134, R263). -/
def State.dropWaits (s : State) (t : Team) : State := t.userSlots.foldl (fun (s : State) sid => s.withdraw sid) s

/-- A traveller that began after the stop, because the log had no room for its frame, gets its save event (log entry 92). -/
def State.saveLate (s : State) (tid : Nat) : State :=
  (s.travSlots tid).foldl (fun (s : State) sid =>
    if s.agenda.contains (.travellerSave tid sid) then s else s.post (.travellerSave tid sid)) s

/-- SAVE_COMPLETE (R263, step 8; R266): once every slot, porter and array of the team is saved and nothing is on its
way, the images are written, STATE becomes 2 and the clusters are freed. For a discard, once every slot stands at its
snapshot, the team is queued again with its state; one that has lost a domain meanwhile takes the state loss sequence. -/
def execSaveComplete (tid : Nat) (s : State) : Outcome :=
  .next (match s.team? tid with
    | none => s
    | some t =>
      if t.state ≠ 1 ∨ t.stop.isNone = true then s
      else
        let idle := t.place.all fun c => (s.clusterSt c).quiesced && (s.clusterSt c).running.all fun k => k.susp.isSome
        if t.stop = some 0 then
          let porters := t.place.all fun c => (List.range 16).all fun k => (s.coreSt (c * 16 + k)).porterStop
          if !(idle && porters && t.userSlots.all s.settled && s.still tid t) then (s.saveLate tid).post (.saveComplete tid)
          else
            let s := (s.dropWaits t).writeImages t tid
            let s := s.modTeam tid fun t => { t with state := 2, stop := none }
            ((s.recState t tid 2).recFull t tid 0 true).releaseClusters t.place
        else
          if !(idle && s.still tid t) then s.post (.saveComplete tid)
          else if t.userSlots.any fun sid => (s.slot sid).doms.isEmpty then s.stateLoss tid t
          else
            let s := (s.dropWaits t).writeImages t tid
            (s.releaseClusters t.place).queueAgain tid id)

/-! ### Resume (R264, R265) -/

/-- Free values for the registers of a slot that the handler has yet to load (R258). -/
def State.freeRegs (s : State) (sl : Slot) : Slot × State :=
  let f := fun (i : Nat) => Config.freeValue (s.free + i)
  let sl := (List.range 31).foldl (fun (sl : Slot) i => sl.wx (BitVec.ofNat 5 (i + 1)) (f i)) sl
  let sl := (List.range 16).foldl (fun (sl : Slot) i =>
    sl.wv (BitVec.ofNat 4 i) (BitVec.ofNat 512 ((List.range 8).foldl (fun a j => a * 2 ^ 64 + (f (31 + 8 * i + j)).toNat) 0))) sl
  let sl := (List.range 8).foldl (fun (sl : Slot) i => sl.wp (BitVec.ofNat 3 i) ((f (159 + i)).extractLsb' 0 32)) sl
  (sl, { s with free := s.free + 167 })

/-- A saved slot at resume (R264): at kernel level at kvec + 0x800 with icause 0 and bit 63 of ktval, its registers yet
to be loaded; CSRs are held and those of the launch record loaded again (R55). One with an abort recorded while it was
saved goes to its snapshot before it issues (R277). -/
def Team.resumeSlot (t : Team) (tid : Nat) (s : State) (sl : Slot) : Slot × State :=
  if sl.status = .exited ∨ sl.status = .idle then (sl, s)
  else
    let sl := t.againSlot tid sl
    let sl := { sl with follow := none, pending := [], mcast := none, due := [], instants := [], preqReq := false, frame := none,
                        saved := 0, safeAt := none, spCount := 0, status := .ready }
    if sl.heldAbort ≠ [] then ({ sl with level := .task }, s)
    else
      let (sl, s) := s.freeRegs sl
      let (w, s) := s.fresh
      ({ sl with level := .kernel, pc := pcOf (t.kvec &&& ~~~0xFFF ||| 0x800), kcause := 1 <<< 63,
                 ktval := 2 ^ 63 ||| (w &&& 0x1FFF), ktval2 := 0, kstatus := sl.kstatus &&& 0xB }, s)

/-- A logged frame on its way to the owner of its target; a remote update goes to the word's owner (R38, R39, R264). -/
def State.sendFrame (s : State) (tid : Nat) (p : Packet) : State :=
  match s.team? tid with
  | none => s
  | some t =>
    let core := (s.coreAt tid p.origin).getD 0
    match s.resolve { t.ctx tid with level := .task, core := core } p.target 1 .load with
    | .ok h => h.st.post (.travellerArrival p (if p.kind = 3 then h.st.atomOwner h.pa else h.st.ownerCore h.pa) noSlot 0 p.crc)
    | .error _ => s.post (.travellerArrival p core noSlot 0 p.crc)

/-- Logged messages and traveller frames of a team on their way again (R264). -/
def State.deliverLog (s : State) (tid : Nat) (place : List Nat) : State :=
  (s.logEntries tid).foldl (fun (s : State) e =>
    match e with
    | .message l hole m => s.sendMessage tid (place.getD (l / 16) 0 * 16 + l % 16) hole m
    | .frame p => s.sendFrame tid p) (s.logClear tid)

/-- Aborts recorded while slots were saved are performed (R277). -/
def State.performHeld (s : State) (sids : List Nat) : State :=
  sids.foldl (fun (s : State) sid =>
    let held := (s.slot sid).heldAbort
    held.foldl (fun (s : State) e => s.abortDom sid e.1 e.2) (s.modSlot sid fun sl => { sl with heldAbort := [] })) s

/-- TEAM_RESUME (R264, R265): a saved team whose resume is the next record is placed, its state is restored, and its
slots start. -/
def execTeamResume (lid : Word) (choice : List Nat) (s : State) : Outcome :=
  .next (match s.findLaunch lid with
    | none => s
    | some (tid, t) =>
      if t.state ≠ 2 ∨ t.resume = false then s
      else
        let place := s.placeFor t choice
        if s.booted = true ∧ s.isNext tid t = true ∧ place.length = t.s * t.c then
          let s := (s.claim tid t place).readImages t tid place (t.resumeSlot tid)
          let s := ((s.recState t tid 1).deliverLog tid place).performHeld ((Team.userSlots { t with place := place }))
          place.foldl (fun (s : State) c => s.lookDone c) s
        else s.post (.teamResume lid choice))

end Sys2Proof.Machine
end

