-- ==== Sys2Proof/Machine/Recovery.lean ====
section
/-! DEFINITION. The stewards and recovery: notices, diagnosis, unit failures, re-placement, die map changes, checkpoints,
remaps, scrubbing of flips and double errors (spec 01 R10 to R14; 02 R31; 11 R243; 12 R253; 13 R281 to R287). -/

namespace Sys2Proof.Machine

/-! ### Steward notices (R253) -/

/-- A notice record of 64 bytes as a number. -/
def Notice.record (n : Notice) (seq time gen : Nat) : Nat :=
  seq % 2 ^ 32 + n.kind % 2 ^ 16 * 2 ^ 32 + n.scope % 256 * 2 ^ 48 + time % 2 ^ 64 * 2 ^ 64 + n.unit % 2 ^ 64 * 2 ^ 128
    + (n.team % 65536 + gen % 65536 * 65536) * 2 ^ 192 + n.arg0.toNat * 2 ^ 256 + n.arg1.toNat * 2 ^ 320

/-- The stewards write a notice into the ring and raise icause 3 (R253). -/
def State.notice (s : State) (n : Notice) : State :=
  let seq := s.noticeSeq + 1
  let pa := s.noticeBase + seq % 256 * 64
  let gen := match s.team? n.team with | some t => t.gen | none => 0
  ({ s with noticeSeq := seq }.put pa 64 (Notice.record n seq s.ptp gen)).raise 3 (BitVec.ofNat 64 pa)

/-- A notice about a unit that concerns no team. -/
def State.tell (s : State) (kind scope unit arg0 arg1 : Nat) : State :=
  s.notice { kind := kind, scope := scope, unit := unit, team := 0, arg0 := BitVec.ofNat 64 arg0, arg1 := BitVec.ofNat 64 arg1 }

/-- A notice about a unit that concerns a team. -/
def State.tellOf (s : State) (tid kind scope unit arg0 arg1 : Nat) : State :=
  s.notice { kind := kind, scope := scope, unit := unit, team := tid, arg0 := BitVec.ofNat 64 arg0, arg1 := BitVec.ofNat 64 arg1 }

/-- A notice about a team. -/
def State.tellTeam (s : State) (kind tid arg0 arg1 : Nat) : State := s.tellOf tid kind 0 0 arg0 arg1

/-- STEWARD_NOTICE (R253). -/
def execStewardNotice (n : Notice) (s : State) : Outcome := .next (s.notice n)

/-! ### Storage errors (R281) -/

/-- BACKGROUND_SCRUB (R281): a correctable flip is corrected, counted for the slot that found it or for the unit. -/
def execBackgroundScrub (pa : Nat) (finder : Option Nat) (s : State) : Outcome :=
  .next (if !s.flips.contains (pa / 8) then s
    else
      let s := { s with flips := mark s.flips (pa / 8) false }
      let s := match finder with | some sid => s.countCorrected sid | none => s
      s.logRate (s.unitOf pa).1 (s.unitOf pa).2)

/-- UNCORRECTABLE_ERROR (R281): a double error marks its word poison. -/
def execUncorrectableError (pa : Nat) (s : State) : Outcome :=
  .next ({ s with flips := mark s.flips (pa / 8) false, lost := mark s.lost (pa / 8) false }.setBad (pa / 8) true)

/-! ### Address map versions (R243) -/

/-- Pages of 64 KiB in HBM. -/
def hbmPages : Nat := 0xC00000

/-- REMAP_START (R243): only one remap runs at a time. -/
def execRemapStart (version : Nat) (s : State) : Outcome :=
  .next (match s.remap with
    | some _ => s.post (.remapStart version)
    | none => (({ s with remap := some (version, 0, []) }).tell 5 0 0 version 0).post (.remapPageMove none))

/-- REMAP_PAGE_MOVE (R241, R243): the next page in ascending order is moved, unless it is row-local, and the boundary advances; or
a page that a write has reached is moved early. -/
def execRemapPageMove (page : Option Nat) (s : State) : Outcome :=
  .next (match s.remap, page with
    | none, _ => s
    | some _, some p => s.moveEarly p
    | some (v, b, early), none =>
      if hbmPages ≤ b then s
      else
        let s' := { s with remap := some (v, b + 1, mark early b false) }
        let s := if (s.rowOf b).isSome then s' else s.moveWaits s' b
        s.post (if b + 1 < hbmPages then .remapPageMove none else .remapEnd))

/-- REMAP_END (R243). -/
def execRemapEnd (s : State) : Outcome :=
  .next (match s.remap with
    | some (v, b, _) => if hbmPages ≤ b then { s with amap := v, remap := none }.tell 6 0 0 v 0 else s
    | none => s)

/-! ### Checkpoints (R285 to R287) -/

/-- CHECKPOINT_UNIT_COPY (R285, R286): the next unit of a running checkpoint, or one that a write has reached, is coded
and placed; after the last the checkpoint ends. -/
def execCheckpointUnitCopy (tid : Nat) (unit : Option Nat) (s : State) : Outcome :=
  .next (match s.team? tid with
    | none => s
    | some t =>
      if !t.ckRun then s
      else match unit, t.ckUnits with
        | some u, l => if l.contains u then s.copyUnit tid u else s
        | none, [] => s.post (.checkpointCommit tid 0)
        | none, u :: _ => (s.copyUnit tid u).post (.checkpointUnitCopy tid none))

/-- Messages to the packages of the checkpoint groups that they have not acknowledged (R285). -/
def State.piecesOut (s : State) : Bool := s.netOut.any fun e => s.group.contains e.1

/-- CHECKPOINT_COMMIT (R285, R287): with every unit placed and acknowledged the checkpoint replaces the previous one of
its units; otherwise, or when pieces are lost (reason 2), it does not commit and its units stay to be written. -/
def execCheckpointCommit (tid reason : Nat) (s : State) : Outcome :=
  .next (match s.team? tid with
    | none => s
    | some t =>
      if !t.ckRun || (reason != 2 && !t.ckUnits.isEmpty) then s
      else if reason = 0 ∧ s.piecesOut = true then s.post (.checkpointCommit tid 0)
      else
        let k := t.ckWant.getD 0
        let units := t.ckDone.map (·.1)
        if reason = 0 ∧ t.ckDone.length = t.ckCount then
          (s.modTeam tid fun t =>
            { t with ckMap := t.ckMap.filter (fun e => !units.contains e.1) ++ t.ckDone, ckDone := [], ckRun := false,
                     ckWant := none, ckAt := s.ptp }).tellTeam 7 tid k t.ckCount
        else
          (s.modTeam tid fun t =>
            { t with ckWritten := (units ++ t.ckUnits).foldl (fun l u => mark l u true) t.ckWritten, ckUnits := [], ckDone := [],
                     ckRun := false, ckWant := none }).tellTeam 8 tid k (if reason = 2 then 2 else 1))

/-! ### Die maps (R13, R14) -/

/-- An entry of the die maps changed. -/
def State.modDie (s : State) (die : Nat) (f : DmapEnt → DmapEnt) : State :=
  { s with dmap := match s.dmap.toList[die]? with | some e => s.dmap.set! die (f e) | none => s.dmap }

/-- HUB_FAILOVER (R11): hub A is gone, hub B carries the traffic and the host lanes; the host link retrains and nothing
else changes. -/
def execHubFailover (s : State) : Outcome :=
  .next ({ s with hubA := false, hostHub := 1 }.tell 9 6 0 12 1)

/-! ### Renaming of slots and storage (R29, R31, R135) -/

/-- What a move changes: numbers of slots, and physical addresses of local stores and vaults. -/
structure Ren where
  sid : Nat → Nat
  pa  : Nat → Nat

/-- The number of a core, or of a cluster, of moved slots; a channel core keeps its own. -/
def Ren.core (f : Ren) (c : Nat) : Nat := f.sid (c * 16) / 16
def Ren.cluster (f : Ren) (c : Nat) : Nat := f.sid (c * 256) / 256
/-- An owner: a core, or a vault controller. -/
def Ren.owner (f : Ren) (o : Nat) : Nat :=
  if vaultOwner0 ≤ o ∧ o < vaultOwner0 + 576 then vaultOwner0 + f.cluster (o - vaultOwner0) else f.core o

/-- Requests and packets renamed. -/
def Ren.store (f : Ren) (r : StoreReq) : StoreReq := { r with sid := f.sid r.sid, pa := f.pa r.pa }
def Ren.load (f : Ren) (r : LoadReq) : LoadReq := { r with sid := f.sid r.sid, els := r.els.map fun e => (f.pa e.1, e.2) }
def Ren.atom (f : Ren) (r : AtomReq) : AtomReq := { r with sid := f.sid r.sid, pa := f.pa r.pa }
def Ren.pres (f : Ren) (r : PresReq) : PresReq := { r with sid := f.sid r.sid, pa := f.pa r.pa }
def Ren.rem (f : Ren) (r : RemReq) : RemReq := { r with sid := f.sid r.sid }
def Ren.active (f : Ren) : Active → Active
  | .load r => .load (f.load r)
  | .store r => .store (f.store r)
  | .atom r => .atom (f.atom r)
  | .pres r => .pres (f.pres r)
def Ren.packet (f : Ren) (p : Packet) : Packet := { p with act := p.act.map f.active }

/-- An event with its slots, cores, clusters and addresses renamed. -/
def renEvent (f : Ren) : Event → Event
  | .interruptEntry sid => .interruptEntry (f.sid sid)
  | .safePointOverdue sid => .safePointOverdue (f.sid sid)
  | .sliceInstant sid => .sliceInstant (f.sid sid)
  | .kernelTimer sid => .kernelTimer (f.sid sid)
  | .parkExpiry sid => .parkExpiry (f.sid sid)
  | .followTimeout sid => .followTimeout (f.sid sid)
  | .travellerArrival p o sid n c => .travellerArrival (f.packet p) (f.owner o) (f.sid sid) n c
  | .travellerRetry p o sid n d => .travellerRetry (f.packet p) (f.owner o) (f.sid sid) n d
  | .remoteUpdate p o => .remoteUpdate (f.packet p) (f.owner o)
  | .storeAtOwner r => .storeAtOwner (f.store r)
  | .loadAtOwner r => .loadAtOwner (f.load r)
  | .atomicAtOwner r => .atomicAtOwner (f.atom r)
  | .atomicReply r o g => .atomicReply (f.atom r) o g
  | .presenceRequest r => .presenceRequest (f.pres r)
  | .presenceRetry r d => .presenceRetry (f.pres r) d
  | .vaultCacheFill c l => .vaultCacheFill (f.cluster c) l
  | .copyBurstDeliver c h => .copyBurstDeliver (f.core c) h
  | .ksfStreamUnit c h => .ksfStreamUnit (f.core c) h
  | .streamReadAhead sid q => .streamReadAhead (f.sid sid) q
  | .streamElementWrite sid q => .streamElementWrite (f.sid sid) q
  | .messageArrival t c h (.hole m) => .messageArrival t (f.core c) h (.hole m)
  | .barrierRootReport t g c b l => .barrierRootReport t g c b (l.map f.core)
  | .tileCommandStart c e => .tileCommandStart (f.cluster c) e
  | .tileCommandComplete c e t => .tileCommandComplete (f.cluster c) e t
  | .domainAbort sid d r => .domainAbort (f.sid sid) d r
  | .domainRestore sid => .domainRestore (f.sid sid)
  | .remoteAccessArrival r => .remoteAccessArrival (f.rem r)
  | .remoteReplyArrival r v b => .remoteReplyArrival (f.rem r) v b
  | .remoteRejectReport r => .remoteRejectReport (f.rem r)
  | .remoteStoreAcknowledge r => .remoteStoreAcknowledge (f.rem r)
  | .multicastMemberReport sid m ok => .multicastMemberReport (f.sid sid) m ok
  | .packetRoute h l a e => .packetRoute h l a (renEvent f e)
  | .pageRowStep sid d a r k => .pageRowStep (f.sid sid) d a r k
  | .scrubLineStep sid v l => .scrubLineStep (f.sid sid) v l
  | .porterQuiesce t c => .porterQuiesce t (f.core c)
  | .arrayQuiesce t c => .arrayQuiesce t (f.cluster c)
  | .travellerSave t sid => .travellerSave t (f.sid sid)
  | .runQueueRelease o => .runQueueRelease (f.owner o)
  | e => e

/-- Requests of moved slots, and entries on moved words, renamed in every wait list, queue and agenda entry (R135). -/
def State.renAll (s : State) (f : Ren) : State :=
  let w := fun (l : List PresReq) => l.map f.pres
  let q := fun (l : List RunEnt) => l.map fun e => { e with p := f.packet e.p }
  let b := fun (p : Option Packet) => p.map f.packet
  { s with
    coreTab := s.coreTab.map fun e => (e.1, { e.2 with waits := w e.2.waits, runq := q e.2.runq, busy := b e.2.busy }),
    clusters := s.clusters.map fun e => (e.1, { e.2 with vwaits := w e.2.vwaits, vq := q e.2.vq, vbusy := b e.2.vbusy }),
    remStores := s.remStores.map f.rem,
    agenda := s.agenda.map (renEvent f) }

/-- MOVES counts a re-placement, and the done word says that there was one (R31, R43). -/
def State.countMove (s : State) (tid : Nat) : State :=
  match s.team? tid with
  | none => s
  | some t => (s.modTeam tid fun t => { t with moves := t.moves + 1, done := { t.done with err := t.done.err ||| errBit 11 } }).recPut
      t tid 0x28 4 (t.moves + 1)

/-! ### Die map changes (R12, R14, R31) -/

/-- The die that serves an identity: a physical die of this package, or 16 and the identity for a peer's (log entry 68). -/
def State.servingDie (s : State) (die : Nat) (e : DmapEnt) : Nat := if e.pkg = s.ownPkg then e.pdie.toNat else 16 + die

/-- Everything on a die renamed to another. -/
def renDie (d0 d1 : Nat) : Ren :=
  { sid := fun sid => if sid / 16384 = d0 then d1 * 16384 + sid % 16384 else sid,
    pa := fun pa => if dieOfPa pa = some d0 then pa - d0 * 0x10000000 + d1 * 0x10000000 else pa }

/-- Packets on their way to a die whose identity moves: what had passed its last lookup is lost, the rest is routed by the
new value; which is which is open (R14; log entry 5). -/
def State.losePackets (s : State) (d0 : Nat) : State :=
  s.agenda.foldl (fun (s : State) e =>
    let (w, s) := s.fresh
    if s.destDie e = some d0 ∧ w.getLsbD 0 = true then s else { s with agenda := s.agenda ++ [e] }) { s with agenda := [] }

/-- The clusters of a team on a die belong to it on the die that serves the identity now. -/
def State.followDie (s : State) (d0 d1 tid : Nat) (t : Team) : State :=
  let hit := ((List.range t.place.length).zip t.place).filter fun e => e.2 / 64 == d0
  if hit.isEmpty then s
  else
    let f := renDie d0 d1
    let s := hit.foldl (fun (s : State) e =>
      let s := (s.clearCluster e.2 false).modCluster e.2 fun k => { ClusterSt.init with broken := k.broken }
      s.modCluster (f.cluster e.2) fun k => { ClusterSt.init with team := some tid, logical := e.1, broken := k.broken }) s
    let s := (s.modTeam tid fun t => { t with place := t.place.map f.cluster }).countMove tid
    if tid = 0 then s else s.post (.stateLossSequence tid)

/-- The clusters of the advertised dies that work, when an identity moves from one die to another. -/
def State.moveWorking (s : State) (d0 d1 : Nat) : List Nat :=
  let added := ((List.range 64).map (d1 * 64 + ·)).filter fun c => !(s.clusterSt c).broken
  ((s.working.filter fun c => c / 64 != d0 && c / 64 != d1) ++ added).mergeSort fun a b => decide (a ≤ b)

/-- An identity moves (R14, R31): the entry's new PDIE, PKG and GEN; the clusters on the old die are no longer its, and every
resident team that held one is re-placed by the state loss sequence (R281). -/
def State.moveIdentity (s : State) (die pkg pdie : Nat) : State :=
  let e := s.dmapAt die
  let e' := { e with gen := e.gen + 1, pkg := BitVec.ofNat 16 pkg, pdie := BitVec.ofNat 4 pdie }
  let d0 := s.servingDie die e
  let d1 := s.servingDie die e'
  let s := s.modDie die fun _ => e'
  if d0 = d1 then s
  else
    let s := (s.losePackets d0).renAll (renDie d0 d1)
    let s := { s with working := s.moveWorking d0 d1 }
    (s.teams.filter fun t => t.2.state == 1).foldl (fun (s : State) t => s.followDie d0 d1 t.1 t.2) s

/-- DIE_MAP_CHANGE (R14): phase 0 every router holds the entry, 1 the new PDIE and PKG are written and GEN rises, 2 the
stewards confirm, 3 the hold is released. -/
def execDieMapChange (die phase pkg pdie : Nat) (s : State) : Outcome :=
  .next (match phase with
    | 0 => (s.modDie die fun e => { e with held := true }).post (.dieMapChange die 1 pkg pdie)
    | 1 => (s.moveIdentity die pkg pdie).post (.dieMapChange die 2 pkg pdie)
    | 2 => s.post (.dieMapChange die 3 pkg pdie)
    | 3 =>
      let s := s.modDie die fun e => { e with held := false }
      s.tell 12 1 ((s.dmapAt die).pdie.toNat * 1024) die (s.dmapAt die).gen.toNat
    | _ => s)

/-! ### Re-placement (R31) -/

/-- A cluster's slots and storage renamed to another's. -/
def renCluster (old new : Nat) : Ren :=
  { sid := renSid [old] [new],
    pa := fun pa => match ownerOf pa with
      | .ls k => if clusterOf k = old then lsPa (new * 16) + (pa - lsPa (old * 16)) else pa
      | .vault c => if c = old then vaultPa new + (pa - vaultPa old) else pa
      | _ => pa }

/-- A logical cluster moves with everything that is readable on it to another physical cluster (R29, R31). -/
def State.moveCluster (s : State) (tid logical old new : Nat) : State :=
  let f := renCluster old new
  let k := s.clusterSt old
  let cores := (List.range 16).map fun i => s.coreSt (old * 16 + i)
  let slots := s.slots.filter fun e => !isChan (coreOf e.1) && e.1 / 256 == old
  let s := s.scrubCluster new
  let s := ((s.move (lsPa (new * 16)) (lsPa (old * 16)) 0x200000).move (vaultPa new) (vaultPa old) 0x400000).move
    (weightPa new) (weightPa old) 0x100000
  let s := ((s.move (accPa new 0 0 0) (accPa old 0 0 0) 0x20000).move (resPa new 0 0) (resPa old 0 0) 4096).move
    (tinkPa new) (tinkPa old) 0x10000
  let s := s.clearCluster old false
  let s := s.modCluster old fun _ => { ClusterSt.init with broken := true }
  let s := s.modCluster new fun _ => { ClusterSt.ren f.sid k with tlb := [], broken := false }
  let s := cores.zipIdx.foldl (fun (s : State) e => s.modCore (new * 16 + e.2) fun _ => { CoreSt.ren f.sid e.1 with tlb := [] }) s
  let s := slots.foldl (fun (s : State) e => s.setSlot (f.sid e.1) e.2) s
  (s.renAll f).modTeam tid fun t => { t with place := t.place.set logical new }

/-- REPLACEMENT (R31, R281): a failed logical cluster moves to a free one. With its local stores readable its slots retry
their domains; a slot without one, or state that is lost, makes the team take the state loss sequence (R282). -/
def execReplacement (tid logical phys : Nat) (readable : Bool) (s : State) : Outcome :=
  .next (match s.team? tid with
    | none => s
    | some t =>
      match t.place[logical]? with
      | none => s
      | some old =>
        if t.state ≠ 1 then s
        else
          let live := (startedSlots t old).filter fun sid => (s.slot sid).status != .exited
          let s := s.countMove tid
          if readable && s.freeCluster phys && s.working.contains phys && live.all fun sid => (s.slot sid).doms != [] then
            let s := s.moveCluster tid logical old phys
            live.foldl (fun (s : State) sid => s.blame (renSid [old] [phys] sid) 5) s
          else if tid = 0 then s
          else s.stateLoss tid t)

/-! ### Unit failures and their diagnosis (R281, R283) -/

/-- The scope of the units of a fault class, the rows of R281 counted from 1, and the number of a unit in it (R253). -/
def classScope (cls : Nat) : Nat :=
  match cls with
  | 8 => 4 | 9 => 5 | 10 => 2 | 11 => 1 | 12 => 6 | 13 => 8 | 14 => 9 | _ => 0
def classUnit (cls unit : Nat) : Nat := if cls = 11 then unit * 1024 else unit

/-- UNIT_FAILURE (R281): a failure is detected, and each working steward diagnoses it; what they find is open (log
entry 5). -/
def execUnitFailure (cls unit : Nat) (s : State) : Outcome :=
  let v := fun (i : Nat) => (Config.freeValue (s.free + i)).getLsbD 0
  .next (({ s with free := s.free + 3 }.logUnit (classScope cls) (classUnit cls unit)).post
    (.diagnosisVote (if s.stewardA then some (v 0) else none) (if s.stewardB then some (v 1) else none) (v 2) cls unit))

/-- A diagnosis stands: the working stewards agree, or a peer's steward decides; one steward alone needs the peer's
agreement (R283). -/
def voteStands (a b : Option Bool) (peer : Bool) : Bool :=
  match a, b with
  | some x, some y => if x == y then x else peer
  | some x, none | none, some x => x && peer
  | none, none => false

/-- Checkpoint pieces that lie in some lost place are lost, and a running checkpoint does not commit (R285, R287). -/
def State.losePieces (s : State) (gone : Nat → Nat → Bool) : State :=
  let pas := s.reserveTaken.flatMap fun k => ((List.range 10).filter (gone k)).map (s.piecePa k)
  let s := { s with lostPieces := pas.foldl (fun l pa => mark l pa true) s.lostPieces }
  if pas.isEmpty then s
  else (s.teams.filter fun e => e.2.ckRun).foldl (fun (s : State) e => s.post (.checkpointCommit e.1 2)) s

/-- Words of HBM in some channels become poison, and pieces there are lost: their memory is lost (R282, R285). -/
def State.loseChannels (s : State) (l : List Nat) : State :=
  let words := (List.range (hbmPages * 8192)).filter fun w => l.contains (s.chanOf (8 * w)) && decide (8 * w < s.reserveBase)
  let s := s.losePieces fun k i =>
    s.piecePkg i == s.ownPkg.toNat && (List.range (pieceBytes / 256)).any fun j => l.contains (s.chanOf (s.piecePa k i + 256 * j))
  { s with poison := words.foldl (fun p w => mark p w true) s.poison, lost := words.foldl (fun p w => mark p w true) s.lost }

/-- Pages homed in some channels leave them; one with no channel left is spread over all (R23, R241). -/
def State.leaveChannels (s : State) (l : List Nat) : State :=
  (s.homes.filter fun e => e.2.chans.any l.contains).foldl (fun (s : State) e =>
    let c := e.2.chans.filter fun x => !l.contains x
    let homes := if c.isEmpty then tdel s.homes e.1 else tset s.homes e.1 { e.2 with chans := c }
    s.moveWaits { s with homes := homes } e.1) s

/-- The teams that hold clusters or memory: the resident and saved ones but the kernel's. -/
def State.heldTeams (s : State) : List Nat := (s.teams.filter fun e => e.1 != 0 && (e.2.state == 1 || e.2.state == 2)).map (·.1)

/-- Channels mapped out by a new map version, their data lost; every team that has memory takes the state loss sequence
(R281; log entry 26). -/
def State.mapOut (s : State) (l : List Nat) (scope unit cls : Nat) : State :=
  let s := l.foldl (fun (s : State) c => s.modChan c fun k => { k with mappedOut := true }) (s.loseChannels l)
  let s := s.heldTeams.foldl (fun (s : State) tid => s.post (.stateLossSequence tid)) s
  ((s.leaveChannels l).post (.remapStart (s.amap + 1))).tell 9 scope unit cls 1

/-- The logical die that a physical die of this package serves (R12). -/
def State.dieServed (s : State) (phys : Nat) : Option Nat :=
  s.dmap.toList.findIdx? fun e => e.v && e.pkg == s.ownPkg && e.pdie.toNat == phys

/-- A failed cluster leaves the working ones; a team on it is re-placed, by the state loss sequence when no cluster is free
(R31, R281). -/
def State.failCluster (s : State) (unit : Nat) : State :=
  let c := unit / 16
  let holder := (s.clusterSt c).team
  let logical := (s.clusterSt c).logical
  let s := { s with working := s.working.filter (· != c) }.modCluster c fun k => { k with broken := true }
  match holder with
  | none => s.tell 9 2 unit 10 1
  | some tid =>
    let (w, s) := s.fresh
    match s.freeClusters.head? with
    | some p => (s.post (.replacement tid logical p (w.getLsbD 0))).tellOf tid 9 2 unit 10 2
    | none => ((s.countMove tid).post (.stateLossSequence tid)).tellOf tid 9 2 unit 10 4

/-- The physical die that serves no identity and passed its test. -/
def State.spareDie (s : State) : Option Nat :=
  (List.range 9).find? fun d => s.dieOk.getLsbD d
    && s.dmap.toList.all fun e => !(e.v && e.pkg == s.ownPkg && e.pdie.toNat == d)

/-- A failed die: its clusters leave the working ones, and its identity moves to the spare, which re-places every team with a
cluster on it; with no spare those teams take the state loss sequence at once (R14, R31, R281). -/
def State.failDie (s : State) (phys : Nat) : State :=
  match s.dieServed phys with
  | none => { s with dieOk := s.dieOk &&& ~~~ (1#9 <<< phys) }
  | some die =>
    let spare := s.spareDie
    let s := { s with dieOk := s.dieOk &&& ~~~ (1#9 <<< phys) }
    let s := { s with working := s.working.filter fun c => c / 64 != phys }
    match spare with
    | some d => (s.post (.dieMapChange die 0 s.ownPkg.toNat d)).tell 9 1 (phys * 1024) 11 3
    | none =>
      let hit := (s.teams.filter fun e => e.1 != 0 && e.2.state == 1 && e.2.place.any fun c => c / 64 == phys).map (·.1)
      (hit.foldl (fun (s : State) tid => (s.countMove tid).post (.stateLossSequence tid)) s).tell 9 1 (phys * 1024) 11 1

/-- The checkpoint pieces that a lost package holds are lost (R285, R287). -/
def State.losePackage (s : State) (pkg : Nat) : State :=
  s.losePieces fun _ i => s.piecePkg i == pkg && pkg != s.ownPkg.toNat

/-- What a standing diagnosis of a fault class does (R281). -/
def State.actOn (s : State) (cls unit : Nat) : State :=
  let s := { s with standing := s.standing ++ [(cls, unit)] }
  match cls with
  | 8 => s.mapOut [unit] 4 unit 8
  | 9 => s.mapOut ((List.range 40).map (unit * 40 + ·)) 5 unit 9
  | 10 => s.failCluster unit
  | 11 => s.failDie unit
  | 12 => if unit = 0 then s.post .hubFailover else { s with hubB := false }.tell 9 6 1 12 1
  | 13 => (if unit = 0 then { s with stewardA := false } else { s with stewardB := false }).tell 9 8 unit 13 1
  | 14 => s.heldTeams.foldl (fun (s : State) tid =>
      match s.team? tid with
      | some t => if t.place.any fun c => atPeer c && (s.dmapAt (c / 64 - 16)).pkg.toNat == unit
          then s.post (.packageLoss unit tid) else s
      | none => s) (s.losePackage unit)
  | _ => s

/-- DIAGNOSIS_VOTE (R283): only a diagnosis that stands changes a map. -/
def execDiagnosisVote (a b : Option Bool) (peer : Bool) (cls unit : Nat) (s : State) : Outcome :=
  let here := fun (ok : Bool) (v : Option Bool) => if ok then v else none
  .next (if voteStands (here s.stewardA a) (here s.stewardB b) peer then s.actOn cls unit else s)

/-- PACKAGE_LOSS (R281): peer stewards found a package gone that held a part of a team, which takes the state loss
sequence on spare packages. -/
def execPackageLoss (pkg tid : Nat) (s : State) : Outcome :=
  .next (((s.losePackage pkg).post (.stateLossSequence tid)).notice
    { kind := 9, scope := 9, unit := pkg, team := tid, arg0 := 14, arg1 := 4 })

end Sys2Proof.Machine
end

