-- ==== Sys2Proof/Machine/Device.lean ====
section
/-! DEFINITION. Thermal, power and clock events, half-width channels and row counters (spec 01 R17 to R19; 11 R244 to
R246). -/

namespace Sys2Proof.Machine

/-! ### Thermal alarms and half width (R19, R246) -/

/-- The alarm of a unit of a scope. -/
def alarmKey (scope unit : Nat) : Nat := scope * 2 ^ 16 + unit

/-- The channels of a stack. -/
def stackChans (stack : Nat) : List Nat := (List.range 40).map (stack * 40 + ·)

/-- THERMAL_ALARM (R19): above 105 C (temperatures are in tenths of a degree); the channels of a base die go to half
width. Above 115 C the module is stopped. -/
def execThermalAlarm (scope unit temp : Nat) (s : State) : Outcome :=
  .next (if temp ≤ 1050 then s
    else
      let s := { s with alarms := tset s.alarms (alarmKey scope unit) temp }.tell 1 scope unit temp 0
      let s := if scope = 5 then (stackChans unit).foldl (fun (s : State) c => s.post (.halfWidthChange c)) s else s
      if 1150 < temp then s.post (.thermalShutdown temp) else s)

/-- THERMAL_SHUTDOWN (R19): above 115 C on any die the module stops, and peers see a package loss. -/
def execThermalShutdown (temp : Nat) (s : State) : Outcome :=
  .next (if 1150 < temp then { s with stopped := true }.send .packageStopped else s)

/-- A channel at half width (R246). -/
def ChanSt.half (c : ChanSt) : Bool := c.thermal || c.lane

/-- HALF_WIDTH_CHANGE (R246): the channel of a base die with an alarm changes between requests. -/
def execHalfWidthChange (chan : Nat) (s : State) : Outcome :=
  let was := (s.chan chan).half
  .next (if (tfind s.alarms (alarmKey 5 (chan / 40))).isSome then
      let s := s.modChan chan fun c => { c with thermal := true, clearAt := none }
      if was then s else s.tell 3 4 chan 0 0
    else s)

/-- 10 ms in core cycles. -/
def tenMs : Nat := 15000000

/-- THERMAL_CLEAR (R246): the alarm of a base die clears; its channels return to full width 10 ms later. -/
def execThermalClear (stack temp : Nat) (s : State) : Outcome :=
  .next (if (tfind s.alarms (alarmKey 5 stack)).isSome then
      let s := { s with alarms := tdel s.alarms (alarmKey 5 stack) }.tell 2 5 stack temp 0
      (stackChans stack).foldl (fun (s : State) c =>
        if (s.chan c).thermal then
          (s.modChan c fun k => { k with clearAt := some (s.cycle + tenMs) }).post (.fullWidthReturn c)
        else s) s
    else s)

/-- FULL_WIDTH_RETURN (R246). -/
def execFullWidthReturn (chan : Nat) (s : State) : Outcome :=
  .next (match (s.chan chan).clearAt with
    | none => s
    | some t =>
      if s.cycle < t then s.post (.fullWidthReturn chan)
      else
        let s := s.modChan chan fun c => { c with thermal := false, clearAt := none }
        if (s.chan chan).lane then s else s.tell 4 4 chan 0 0)

/-- LANE_FAULT (R246, R281): a channel goes to half width; with lanes failed beyond half width it has failed. A link's
lane fault is counted in the link's log. -/
def execLaneFault (link : Bool) (unit : Nat) (s : State) : Outcome :=
  .next (if link then s.logUnit 7 unit
    else if (s.chan unit).lane then s.post (.unitFailure 8 unit)
    else
      let was := (s.chan unit).half
      let s := (s.modChan unit fun c => { c with lane := true }).logUnit 4 unit
      if was then s else s.tell 3 4 unit 1 0)

/-- LANE_FAULT_CLEARED (R246). -/
def execLaneFaultCleared (chan : Nat) (s : State) : Outcome :=
  .next (if (s.chan chan).lane then
      let s := s.modChan chan fun c => { c with lane := false }
      if (s.chan chan).thermal then s else s.tell 4 4 chan 0 0
    else s)

/-! ### Power and clock (R17, R18) -/

/-- POWER_BUDGET_EXCEEDED (R18): the activation regulator tightens, then dispatch of new teams is held. -/
def execPowerBudgetExceeded (s : State) : Outcome := .next { s with tight := true, holdDispatch := true }

/-- POWER_DRAW_WITHIN_BUDGET (R18). -/
def execPowerDrawWithinBudget (s : State) : Outcome := .next { s with tight := false, holdDispatch := false }

/-- PTP_OFFSET_EXCEEDED (R17): a hub whose offset passes 1 us raises a notice, and keeps disciplining its clock. -/
def execPtpOffsetExceeded (hub : Nat) (offset : Int) (s : State) : Outcome :=
  .next (if 1000 < offset.natAbs then
      { s with ptpOff := tset s.ptpOff hub offset }.notice
        { kind := 11, scope := 6, unit := hub, team := 0, arg0 := BitVec.ofInt 64 offset, arg1 := 0 }
    else s)

/-- PTP_OFFSET_RECOVERED (R17): a hub's measured offset is `offset` now. The clock has been corrected by what the offset
changed, and a hub within the bound has no recorded offset. -/
def execPtpOffsetRecovered (o : PtpOffset) (s : State) : Outcome :=
  .next (match tfind s.ptpOff o.hub with
    | none => s
    | some old =>
      { s with ptpBase := (s.ptpBase + (o.offset - old)).toNat,
               ptpOff := if o.offset.natAbs ≤ 1000 then tdel s.ptpOff o.hub else tset s.ptpOff o.hub o.offset })

/-! ### Row counters (R245) -/

/-- ROW_PRECHARGE (R245): the row's counter rises; at the stewards' threshold, or when its parity fails, the neighbours are
refreshed. Zero rows, the last of each subarray of 512, carry no counter. -/
def execRowPrecharge (chan row : Nat) (parityOk : Bool) (s : State) : Outcome :=
  .next (if row % 512 = 511 then s
    else
      let n := tget 0 (s.chan chan).rows row + 1
      let s := s.modChan chan fun c =>
        { c with rows := tset c.rows row n, corrupt := if parityOk then c.corrupt else c.corrupt + 1 }
      if !parityOk || decide (s.rowLimit ≤ n) || decide (65535 ≤ n) then s.post (.neighbourRefresh chan row) else s)

/-- NEIGHBOUR_REFRESH (R245): rows u - 2 to u + 2 of the subarray are refreshed, the counter is zero with good parity,
and the channel counts the refresh. -/
def execNeighbourRefresh (chan row : Nat) (s : State) : Outcome :=
  .next (s.modChan chan fun c => { c with rows := tdel c.rows row, neigh := c.neigh + 1 })

end Sys2Proof.Machine
end

