-- ==== Sys2Proof/Machine/HostPort.lean ====
section
/-! DEFINITION. The host port, module reset, boot and attestation (spec 01 R10; 14 R303 to R310; 12 R252). -/

namespace Sys2Proof.Machine

/-! ### The host port page (R304) -/

/-- A field of the page. -/
def State.hp (s : State) (off n : Nat) : Nat := s.rd (s.hostPage + off) n
/-- A field of the page written by the engine, or by the host through BAR0. -/
def State.setHp (s : State) (off n v : Nat) : State := (s.beforeWrite (s.hostPage + off) n).wr (s.hostPage + off) n v

/-- Sequence number a is at or after b (R303). -/
def seqAtOrAfter (a b : Nat) : Bool := decide ((a + 2 ^ 32 - b % 2 ^ 32) % 2 ^ 32 < 2 ^ 31)

/-- The distance from b to a modulo 2^32. -/
def seqDist (a b : Nat) : Nat := (a + 2 ^ 32 - b % 2 ^ 32) % 2 ^ 32

/-- What hub A shows the host in BAR0: the host port page at the same offsets, and the boot report at 0x1000 (R304, R310). -/
def State.bar0 (s : State) (off n : Nat) : Nat := if off < 0x1000 then s.hp off n else s.rd (bootReportPa + (off - 0x1000)) n

/-- The host sets up its rings: their host physical bases and the entries of each, a power of two from 64 to 65,536; other counts
are ignored (R304). -/
def State.setRings (s : State) (h2d d2h : Word) (nent : BitVec 32) : State :=
  if (List.range 11).any fun k => nent.toNat == 64 * 2 ^ k then
    ((s.setHp 0 8 h2d.toNat).setHp 8 8 d2h.toNat).setHp 0x10 4 nent.toNat
  else s

/-- DOOR_WRITE (R304, R305): the host's ring setup where it gives one, then its newest H2D sequence; a stopped acceptance may go
on. -/
def execDoorWrite (d : DoorSet) (s : State) : Outcome :=
  let s := match d.ring with
    | some (a, b, n) => s.setRings a b n
    | none => s
  .next { s.setHp 0x28 4 d.door.toNat with h2dHalt := false }

/-- H2D_ACCEPT (R305): the engine reads the host slot of ACC + 1, here `m`, when DOOR and CMP allow it. A slot with
another SEQ or with TYPE 0 stops acceptance and is counted; else the message goes to its DH2D slot, ACC advances and
icause 6 is raised with DOOR. -/
def execH2dAccept (m : VWord) (s : State) : Outcome :=
  let acc := s.hp 0x2C 4
  let n := (acc + 1) % 2 ^ 32
  let door := s.hp 0x28 4
  let nent := s.hp 0x10 4
  .next (if s.h2dHalt || !seqAtOrAfter door n || decide (nent < seqDist n (s.hp 0x30 4)) then s
    else if m.toNat % 2 ^ 32 ≠ n ∨ m.toNat / 2 ^ 32 % 65536 = 0 then
      { s with h2dHalt := true, h2dStops := s.h2dStops + 1 }
    else
      let s := s.put (s.hp 0x18 8 % 2 ^ 50 + n % nent * 64) 64 m.toNat
      (s.setHp 0x2C 4 n).raise 6 (BitVec.ofNat 64 door))

/-- PROD_WRITE (R305): the kernel's newest D2H sequence. -/
def execProdWrite (v : BitVec 32) (s : State) : Outcome := .next ((s.setHp 0x34 4 v.toNat).post .d2hSend)

/-- D2H_SEND (R305): the next message after SENT, up to PROD, while the host's ring has room: it goes to the host, SENT
advances and MSI-X vector 0 is signalled. -/
def execD2hSend (s : State) : Outcome :=
  let sent := s.hp 0x38 4
  let n := (sent + 1) % 2 ^ 32
  let nent := s.hp 0x10 4
  .next (if !seqAtOrAfter (s.hp 0x34 4) n || decide (nent < seqDist n (s.hp 0x3C 4)) then s
    else
      let m : VWord := BitVec.ofNat 512 (s.rd (s.hp 0x20 8 % 2 ^ 50 + n % nent * 64) 64)
      let a : Word := BitVec.ofNat 64 (s.hp 0x08 8 + n % nent * 64)
      (((s.send (.d2h a m)).setHp 0x38 4 n).send (.msix 0)).post .d2hSend)

/-- SEEN_WRITE (R305, R306): the host's last D2H sequence; after a host restart the engine sends again from there. -/
def execSeenWrite (v : BitVec 32) (restart : Bool) (s : State) : Outcome :=
  let s := s.setHp 0x3C 4 v.toNat
  .next ((if restart then s.setHp 0x38 4 v.toNat else s).post .d2hSend)

/-! ### Reset and boot (R10, R306, R307, R310) -/

/-- MODULE_RESET (R131, R306): the package as it is right after reset, with EPOCH and the boot count one higher. What
the hardware and the stewards keep stays: the fabric id, dies, hubs and stewards found good or failed, their logs, the
PTP time, and what has left the package. -/
def execModuleReset (s : State) : Outcome :=
  let r := State.reset
  let r : State := { r with
    epoch := s.epoch + 1, bootCount := s.bootCount + 1, ownPkg := s.ownPkg, dieOk := s.dieOk, hubA := s.hubA, hubB := s.hubB,
    hostHub := s.hostHub, stewardA := s.stewardA, stewardB := s.stewardB, standing := s.standing, unitLog := s.unitLog,
    ptpBase := s.ptp, outbox := s.outbox, free := s.free,
    dmap := r.dmap.map fun e => if e.v then { e with pkg := s.ownPkg } else e }
  -- `tested`, `images` and `kernelOk` are those of a module before its boot: every boot tests and verifies anew (R10, R307)
  .next (r.setHp 0x14 4 (s.epoch + 1).toNat)

/-- Dies that passed. -/
def passed (p : BitVec 9) : List Nat := (List.range 9).filter fun d => p.getLsbD d

/-- STEWARD_DIE_TEST (R10): at boot the stewards test the dies. Logical dies 0 to 7 go to eight that pass; the spec says only
that there are eight, and that the last of nine is the spare: taking them in rising physical order is the model's choice (log
entry 4). With fewer than eight the module stays in boot and the failing dies are reported. A booted module is not tested
again. -/
def execStewardDieTest (pass : BitVec 9) (s : State) : Outcome :=
  let l := passed pass
  .next (if s.booted then s
    else
    let s := { s with dieOk := pass, tested := true }
    if l.length < 8 then s.send (.bootReport (~~~ pass))
    else
      { s with
        working := (l.take 8).flatMap fun d => (List.range 64).map (d * 64 + ·),
        dmap := Vector.ofFn fun (i : Fin 16) =>
          { gen := 0, pkg := if i.val < 8 then s.ownPkg else 0, v := decide (i.val < 8),
            pdie := if i.val < 8 then BitVec.ofNat 4 (l.getD i.val 0) else 0, held := false } })

/-- The key slots of a link as a report's configuration holds them: which are live, which await a key (R301, R309). -/
def LinkSt.slotStates (l : LinkSt) : List Byte :=
  leBytes 2 (l.live + l.rlive * 2 + (if l.freed.contains 0 then 4 else 0) + (if l.freed.contains 1 then 8 else 0)
    + (if l.rfreed.contains 0 then 16 else 0) + (if l.rfreed.contains 1 then 32 else 0))

/-- The configuration whose digest a report carries: die maps, map version, checkpoint group, sealed tenancy partitions, link key
slots (R287, R309). -/
def State.configBytes (s : State) : List Byte :=
  s.dmap.toList.flatMap (fun e => leBytes 5 (e.gen.toNat + e.pkg.toNat * 2 ^ 8 + e.pdie.toNat * 2 ^ 24 + (if e.v then 2 ^ 28 else 0)))
    ++ leBytes 2 s.amap ++ s.group.flatMap (leBytes 2)
    ++ (s.teams.filter fun e => e.2.flags.getLsbD 4).flatMap (fun e =>
      leBytes 2 e.1 ++ leBytes 2 e.2.gen ++ e.2.place.flatMap (leBytes 2) ++ Config.tenancy e.1)
    ++ s.links.flatMap fun e => leBytes 2 e.1 ++ e.2.slotStates

/-- The device identity key, whose private half stays with the stewards, and its certificate by the root key: made once for the
module (R308; log entry 9). -/
def deviceIdentity : List Byte × List Byte := (Config.identityKey, Config.identityCert)

/-- Digest and security version of a verified image: 0 steward firmware, 1 monitor firmware, 2 kernel (R309). -/
def State.image (s : State) (i : Nat) : List Byte × BitVec 32 := s.images.getD i ([], 0)

/-- The signed part of an attestation report: bytes 0x000 to 0x1FF (R309). -/
def State.attestBody (s : State) (nonce : VWord) : List Byte :=
  leBytes 4 0x54524154 ++ leBytes 4 1 ++ leBytes 8 s.ptp ++ leBytes 64 nonce.toNat
    ++ fit 64 (s.image 0).1 ++ fit 64 (s.image 1).1 ++ fit 64 (s.image 2).1
    ++ fit 64 (Config.digest s.configBytes)
    ++ leBytes 4 s.bootCount.toNat ++ (List.range 3).flatMap (fun i => leBytes 4 (s.image i).2.toNat)
    ++ List.replicate 160 0

/-- An attestation report of 1,024 bytes, signed by the module's identity key (R308, R309). -/
def State.attest (s : State) (nonce : VWord) : List Byte :=
  s.attestBody nonce ++ fit 512 (Config.signature deviceIdentity.1 (s.attestBody nonce))

/-- ATTESTATION_REQUEST (R309): the report against a nonce is written where the monitor wants it. -/
def execAttestationRequest (nonce : VWord) (dst : Word) (s : State) : Outcome :=
  let pa := dst.toNat % 2 ^ 50
  .next (((s.beforeWrite pa 1024).beforeWrite (pa + 1023) 1).wrBytes pa (s.attest nonce))

/-- The boot report of 4,096 bytes (R310). -/
def State.bootBytes (s : State) : List Byte :=
  let spare := ((List.range 9).find? fun d => s.dmap.toList.all fun e => !(e.v && e.pdie.toNat == d)).getD 8
  let map := s.dmap.toList.flatMap fun e =>
    leBytes 4 (e.pdie.toNat + (if e.v then 16 else 0) + (if e.pkg = s.ownPkg then 0 else if e.v then 32 else 0) + e.pkg.toNat * 65536)
  fit 0x800 (leBytes 4 0x54524F42 ++ leBytes 4 1 ++ leBytes 4 s.bootCount.toNat ++ leBytes 4 s.epoch.toNat
    ++ leBytes 8 s.hostPage ++ leBytes 8 s.noticeBase ++ leBytes 8 s.traceBase ++ leBytes 4 1056 ++ leBytes 4 0
    ++ leBytes 8 s.reserveBase ++ leBytes 8 s.reserveSize ++ leBytes 2 s.ownPkg.toNat ++ leBytes 2 s.amap
    ++ leBytes 4 spare ++ map ++ leBytes 4 s.working.length)
    ++ s.attest 0 ++ List.replicate 1024 0

/-- An image is good (R307): its signature by the root key or by the owner's, and a version not below the fused minimum. -/
def imageOk (i : Image) : Bool :=
  (Config.verifies Config.rootKey i.bytes i.sig || Config.verifies Config.ownerKey i.bytes i.sig) && decide (Config.fusedMin ≤ i.version)

/-- What is kept of a verified image. -/
def imageMark (i : Image) : List Byte × BitVec 32 := (Config.digest i.bytes, i.version)

/-- The stewards fix the size of the reserve memory at boot; the pages that the model keeps below it move with it (R287; log
entry 12). -/
def State.layOut (s : State) (cfg : BootCfg) : State :=
  let base := bootReportPa - cfg.reserve
  let s := { s with reserveBase := base, reserveSize := cfg.reserve, group := cfg.group, rowLimit := cfg.rowLimit,
                    noticeBase := base - 0x4000, hostPage := base - 0x5000, traceBase := base - 0x6000000 }
  s.setHp 0x14 4 s.epoch.toNat

/-- BOOT_VERIFY (R10, R307, R310): the stewards verify the steward firmware, the monitor firmware and the kernel image. With every
image good and eight dies of this boot's test assigned, the boot report is written and sent, and the cores leave reset; a
refused image keeps the module in boot and is reported. A booted module verifies a new kernel image in the same way, which
alone the monitor may load; the boot report stays. -/
def execBootVerify (cfg : BootCfg) (s : State) : Outcome :=
  let images := cfg.images
  .next (if s.booted then
      match images with
      | [k] => if imageOk k then { s with kernelOk := true, images := s.images.set 2 (imageMark k) }
        else { s with kernelOk := false }.send .imageRefused
      | _ => s
    else if (images.length == 3 && images.all imageOk) = false then s.send .imageRefused
    else if s.tested = false then s
    else if (passed s.dieOk).length < 8 then s.send (.bootReport (~~~ s.dieOk))
    else
      let s := { s with images := images.map imageMark, kernelOk := true, booted := true }.layOut cfg
      (s.wrBytes bootReportPa s.bootBytes).send (.bootPage s.bootBytes))

end Sys2Proof.Machine
end

