-- ==== Sys2Proof/Machine/Remote.lean ====
section
/-! DEFINITION. Remote accesses: RLD, RLDV, RST, RSTV and the multicast stores; the destination's side; replies,
rejections and acknowledgements (spec 14 R292 to R297; 22 R390, R391; 23 R422 to R425). -/

namespace Sys2Proof.Machine

/-! ### Issue -/

/-- A register of the x file is pending (R295). -/
def Slot.pendingX (sl : Slot) (rd : XReg) : Bool :=
  rd != 0 && sl.pending.any fun p => p.kind != 2 && p.dest == rd.toNat
/-- A register of the v file is pending (R295). -/
def Slot.pendingV (sl : Slot) (vd : VReg) : Bool := sl.pending.any fun p => p.kind == 2 && p.dest == 32 + vd.toNat

/-- The checks of R424 in order, then what the form does. -/
def State.remoteChecks (s : State) (i : Instr) (a : Word) (n : Nat) (store mc : Bool) (k : Unit → Res) : Outcome :=
  s.clusterOnly i fun _ =>
    if !isRemote a then .trap (Trap.sync (if store then 7 else 5) a)
    else if ptrOff a % n ≠ 0 then .trap (Trap.sync (if store then 6 else 4) a)
    else if !s.senderOk s.me (ptrHandle a) (ptrOff a) n store mc then .trap (Trap.sync 10 a)
    else k ()

/-- RLD and RLDV (R423): the destination becomes pending and the instruction retires. -/
def State.remoteLoad (s : State) (i : Instr) (a : Word) (n : Nat) (busy : Bool) (p : PendRep) (u : RemUse) : Outcome :=
  s.remoteChecks i a n false false fun _ =>
    if busy ∨ 8 ≤ s.me.pending.length then .park false
    else (s.sendRem (s.remReq s.sid u (ptrHandle a) (ptrOff a) n false 0 a)).ret fun sl =>
      { sl with pending := sl.pending ++ [p] }

/-- RST and RSTV (R423): posted. -/
def State.remoteStore (s : State) (i : Instr) (a : Word) (n : Nat) (d : VWord) : Outcome :=
  s.remoteChecks i a n true false fun _ =>
    (s.sendRem (s.remReq s.sid .posted (ptrHandle a) (ptrOff a) n true d a)).ret

/-- RLD (R423). -/
def execRld (rd rs1 : XReg) (s : State) : Outcome :=
  s.remoteLoad (.rld rd rs1) (s.me.rx rs1) 8 (s.me.pendingX rd) ⟨1, rd.toNat⟩ (.pendX rd)
/-- RLDV (R423). -/
def execRldv (vd : VReg) (rs1 : XReg) (s : State) : Outcome :=
  s.remoteLoad (.rldv vd rs1) (s.me.rx rs1) 64 (s.me.pendingV vd) ⟨2, 32 + vd.toNat⟩ (.pendV vd)
/-- RST (R423). -/
def execRst (rs2 rs1 : XReg) (s : State) : Outcome :=
  s.remoteStore (.rst rs2 rs1) (s.me.rx rs1) 8 ((s.me.rx rs2).zeroExtend 512)
/-- RSTV (R423). -/
def execRstv (vs2 : VReg) (rs1 : XReg) (s : State) : Outcome :=
  s.remoteStore (.rstv vs2 rs1) (s.me.rx rs1) 64 (s.me.rv vs2)

/-! ### Multicast (R297, R390, R391) -/

/-- The last member has reported: with failures the slot takes cause 19 with the mask, and ERR bit 10 is gathered. -/
def State.mcastDone (s : State) (sid : Nat) : State :=
  match (s.slot sid).mcast with
  | none => s
  | some m =>
    if m.left ≠ [] then s
    else
      let s := s.modSlot sid fun sl => { sl with mcast := none }
      if m.failed = [] then s
      else
        let mask := m.failed.foldl (fun a i => a ||| 2 ^ i) 0
        (s.gather (clusterOf (coreOf sid)) (errBit 10) 0).later sid (Trap.sync 19 m.ptr (BitVec.ofNat 64 mask))

/-- A member's report: performed or failed. -/
def State.mcastReport (s : State) (sid member : Nat) (ok : Bool) : State :=
  match (s.slot sid).mcast with
  | none => s
  | some m =>
    if !m.left.contains member then s
    else
      let m' : Mcast := { m with left := m.left.erase member, failed := if ok then m.failed else mark m.failed member true }
      (s.modSlot sid fun sl => { sl with mcast := some m' }).mcastDone sid

/-- Every member of a group sent to, or failed at the sender (R390). -/
def State.mcastSend (s : State) (h off n : Nat) (d : VWord) (a : Word) : List Nat → State
  | [] => s
  | i :: r =>
    let s := if s.senderOk s.me (h + 1 + i) off n true false then
        s.sendRem (s.remReq s.sid (.member i) (h + 1 + i) off n true d a)
      else s.mcastReport s.sid i false
    State.mcastSend s h off n d a r

/-- A multicast store (R390). -/
def State.multicast (s : State) (i : Instr) (a : Word) (n : Nat) (d : VWord) : Outcome :=
  s.remoteChecks i a n true true fun _ =>
    if s.me.mcast.isSome then .park false
    else
      let h := ptrHandle a
      let members := List.range (s.winEntry s.me.winbase h).nmem
      let s := s.upd fun sl => { sl with mcast := some { ptr := a, left := members, failed := [] } }
      let s := s.mcastSend h (ptrOff a) n d a members
      (s.mcastDone s.sid).ret

/-- MCST (R390). -/
def execMcst (rs2 rs1 : XReg) (s : State) : Outcome :=
  s.multicast (.mcst rs2 rs1) (s.me.rx rs1) 8 ((s.me.rx rs2).zeroExtend 512)
/-- MCSTV (R390). -/
def execMcstv (vs2 : VReg) (rs1 : XReg) (s : State) : Outcome :=
  s.multicast (.mcstv vs2 rs1) (s.me.rx rs1) 64 (s.me.rv vs2)

/-- MULTICAST_MEMBER_REPORT (R297). -/
def execMulticastMemberReport (sid member : Nat) (ok : Bool) (s : State) : Outcome :=
  .next (s.mcastReport sid member ok)

/-! ### The destination (R293, R294) -/

/-- What comes of an access at the destination hub. -/
inductive Served where
  | reject
  | stored (s : State)
  | loaded (v : VWord) (poisoned : Bool) (s : State)
deriving DecidableEq, Repr

/-- The checks of entry 0 of the peer team, and the access performed at its address. A store is recorded in the trace ring of
the unit that serves it when the peer team traces (R184; log entry 95). -/
def State.serve (s : State) (r : RemReq) : Served :=
  match s.team? r.team with
  | none => .reject
  | some t =>
    let e := s.winEntry t.winb 0
    let a := r.addr.toNat
    if t.winl = 0 || !e.v || !e.zeroOk || r.key != e.key || !(if r.store then e.wr else e.rd)
        || !decide (e.base.toNat ≤ a ∧ a + r.size ≤ e.base.toNat + e.limit) || decide (2 < t.state) then .reject
    else if r.addr.extractLsb' 57 7 != 0 || (inWindows r.addr && (decide (a < 0xF200000000) || t.state != 1)) then .reject
    else
      let c : Ctx := { t.ctx r.team with level := .task, thread := true }
      match s.resolve c r.addr r.size (if r.store then .store else .load) with
      | .error _ => .reject
      | .ok h =>
        if r.store then
          let own := r.src = s.ownPkg.toNat
          let (coord, s') := if own then ((s.slot r.sid).coord, h.st) else h.st.fresh
          .stored ((s'.traceFor r.team coord (if own then coreOf r.sid else 2 ^ 20) h.pa r.addr false).storeIn r.team coord h.pa
            r.size r.data r.addr)
        else .loaded (BitVec.ofNat 512 (h.st.rd h.pa r.size)) (h.st.badAt h.pa r.size) h.st

/-- REMOTE_ACCESS_ARRIVAL (R293, R294): performed, with a reply or acknowledgement, or rejected and counted. -/
def execRemoteAccessArrival (r : RemReq) (s : State) : Outcome :=
  let own := r.src = s.ownPkg.toNat
  let back := fun (s : State) (e : Event) => if own then s.post e else s.inject true e
  .next (match s.serve r with
    | .reject => back (s.modTeam r.team fun t => { t with rejects := t.rejects + 1 }) (.remoteRejectReport r)
    | .stored s => back s (.remoteStoreAcknowledge r)
    | .loaded v bad s => back s (.remoteReplyArrival r v bad))

/-! ### Back at the sender (R295, R296, R425) -/

/-- A pending register's reply: f writes the value, 0 for a poisoned one that the lenient policy delivers; and its record
when the frame is stored (R425). -/
def State.pendReply (s : State) (r : RemReq) (p : PendRep) (f : Slot → Slot) (v : VWord) (poisoned : Bool) : State :=
  let sl := s.slot r.sid
  if !sl.pending.contains p then s
  else
    let s := s.modSlot r.sid fun sl => { sl with pending := sl.pending.erase p }
    if !poisoned then (s.modSlot r.sid f).frameReply r.sid p (some v)
    else if sl.doms ≠ [] then (s.frameReply r.sid p none).blame r.sid 2
    else if s.strict sl.team then (s.frameReply r.sid p none).later r.sid (Trap.sync 15 r.ptr)
    else (((s.countPoison sl.team).giveFlags r.sid fPO).modSlot r.sid f).frameReply r.sid p (some 0)

/-- A load that its slot waits for is complete (R63, R280); so is a presence instruction whose word lies on a die of a peer
package (log entry 85). -/
def State.waitReply (s : State) (r : RemReq) (dst : LoadDst) (v : VWord) (poisoned : Bool) : State :=
  if (s.slot r.sid).status ≠ .parked .reply ∧ (s.slot r.sid).status ≠ .parked .pres then s
  else
    let fin := fun (s : State) (v : Nat) => s.modSlot r.sid fun sl => (sl.deliver dst r.size v).retire
    if !poisoned then fin s v.toNat
    else match s.consume r.sid r.ptr with
      | .abort s => s
      | .trap t => s.modSlot r.sid (·.enter t)
      | .held v s => fin s v.toNat
      | .zero s => fin s 0

/-- The answer to a remote access has come back: its place for a reply is free again (R288), and a store is outstanding no
more (R174). -/
def State.answered (s : State) (r : RemReq) : State :=
  { s.reserve r (· - 1) with remStores := s.remStores.erase r }

/-- REMOTE_REPLY_ARRIVAL (R295, R425). A lenient reply from a poisoned word delivers 0. -/
def execRemoteReplyArrival (r : RemReq) (value : VWord) (poisoned : Bool) (s : State) : Outcome :=
  let s := s.answered r
  .next (match r.use with
    | .pendX rd => s.pendReply r ⟨1, rd.toNat⟩ (fun sl => sl.wx rd (if poisoned then 0 else value.extractLsb' 0 64)) value poisoned
    | .pendV vd => s.pendReply r ⟨2, 32 + vd.toNat⟩ (fun sl => sl.wv vd (if poisoned then 0 else value)) value poisoned
    | .waitX rd signed => s.waitReply r (.scalar rd signed) value poisoned
    | .waitV vd => s.waitReply r (.vector vd) value poisoned
    | _ => s)

/-- REMOTE_STORE_ACKNOWLEDGE (R295): the store is performed at system scope; a slot that waits for it retires. -/
def execRemoteStoreAcknowledge (r : RemReq) (s : State) : Outcome :=
  let s := s.answered r
  .next (match r.use with
    | .waitS => if (s.slot r.sid).status = .parked .reply then s.modSlot r.sid (·.retire) else s
    | .member i => s.mcastReport r.sid i true
    | _ => s)

/-- REMOTE_REJECT_REPORT (R296): cause 10 with the pointer; a pending register keeps its value and loses its mark; a
slot parked in the access takes the cause there. -/
def execRemoteRejectReport (r : RemReq) (s : State) : Outcome :=
  let s := s.answered r
  let cause := Trap.sync 10 r.ptr
  let drop := fun (p : PendRep) =>
    if (s.slot r.sid).pending.contains p then
      ((s.modSlot r.sid fun sl => { sl with pending := sl.pending.erase p }).frameReply r.sid p none).later r.sid cause
    else s
  .next (match r.use with
    | .member i => s.mcastReport r.sid i false
    | .posted => s.later r.sid cause
    | .pendX rd => drop ⟨1, rd.toNat⟩
    | .pendV vd => drop ⟨2, 32 + vd.toNat⟩
    | _ => if (s.slot r.sid).status = .parked .reply then s.modSlot r.sid (·.enter cause) else s)

end Sys2Proof.Machine
end

