-- ==== Sys2Proof/Machine/Links.lean ====
section
/-! DEFINITION. The Druale links: flits, key slots, replay, and the routing of packets through the package and out of it
(spec 01 R12, R14, R20; 14 R288, R289, R300 to R302). -/

namespace Sys2Proof.Machine

/-! ### Flits (R300, R301) -/

def State.link (s : State) (k : Nat) : LinkSt := tget LinkSt.init s.links k
def State.modLink (s : State) (k : Nat) (f : LinkSt → LinkSt) : State := { s with links := tset s.links k (f (s.link k)) }

/-- The 16-byte header of a flit (R300). -/
def flitHeader (f : Flit) : List Byte :=
  leBytes 2 f.lseq ++ leBytes 1 (f.kind % 4 + f.kslot % 2 * 4 + (if f.reply then 8 else 0) + f.vc % 8 * 16) ++ leBytes 1 0
    ++ leBytes 8 f.ctr ++ leBytes 4 0

/-- The 96-bit IV of a flit: the salt of its key slot, then its CTR (R301). -/
def flitIv (k : KeySlot) (ctr : Nat) : List Byte := leBytes 4 k.salt.toNat ++ leBytes 8 ctr

/-- Bytes under the key stream of a key slot and a counter; the same again gives them back (R300). -/
def cryptBytes (k : KeySlot) (ctr : Nat) (b : List Byte) : List Byte :=
  List.zipWith (· ^^^ ·) b (fit b.length (Config.keyStream k.key (flitIv k ctr)))

/-- The tag of a flit under a key slot, over its header and ciphertext (R300). -/
def flitTag (k : KeySlot) (f : Flit) : List Byte := fit 16 (Config.gcmTag k.key (flitIv k f.ctr) (flitHeader f) f.cipher)

/-- The 256 bytes of a flit (R300). -/
def flitBytes (f : Flit) : List Byte := flitHeader f ++ fit 224 f.cipher ++ fit 16 f.tag

/-- The next flit of a link under its live key slot. -/
def LinkSt.flit (l : LinkSt) (kind : Nat) (h : Hop) (plain : List Byte) : Flit :=
  let k := l.keys.toList.getD l.live ⟨0, 0⟩
  let f : Flit := { lseq := l.seq, kind := kind, kslot := l.live, reply := h.reply, vc := h.vc, ctr := l.ctr,
                    cipher := cryptBytes k l.ctr (fit 224 plain), tag := [], crcOk := true }
  { f with tag := flitTag k f }

/-- Flits of a replay buffer (R302). -/
def replaySize : Nat := 256

/-- A flit goes out and stays in the replay buffer; the counter of its key slot rises (R301, R302). -/
def State.sendFlit (s : State) (link kind : Nat) (h : Hop) (again : Bool) (plain : List Byte) (items : List Event) : State :=
  let f := (s.link link).flit kind h plain
  (s.modLink link fun l =>
    { l with seq := (l.seq + 1) % 65536, ctr := l.ctr + 1, replay := l.replay ++ [{ f := f, items := items, again := again }] }).send
      (.flit link f)

/-! ### Routing (R12, R14, R20, R288, R289) -/

/-- The core that an access in a packet comes from. -/
def sourceCore : Event → Option Nat
  | .storeAtOwner r => some (coreOf r.sid)
  | .loadAtOwner r => some (coreOf r.sid)
  | .presenceRequest r => some (coreOf r.sid)
  | .presenceRetry r _ => some (coreOf r.sid)
  | .travellerArrival _ _ sid _ _ => some (coreOf sid)
  | .travellerRetry _ _ sid _ _ => some (coreOf sid)
  | .remoteAccessArrival r => some (coreOf r.sid)
  | _ => none

/-- The first router that looks a packet up: a cluster's switch, the stack's router of a channel core, else a hub. Their
numbers are the model's: clusters, then 600 and 700 up (log entry 85). -/
def routerOf (e : Event) : Nat :=
  match sourceCore e with
  | some c => if isChan c then 600 + (c - chanCore0) / 40 else if c < chanCore0 then c / 16 else 700
  | none => 700

/-- A packet dropped and counted by a router (R12). -/
def State.misrouted (s : State) (r : Nat) : State := { s with misroute := tset s.misroute r (tget 0 s.misroute r + 1) }

/-- The direction of a presence instruction's access. -/
def presDir : PresOp → Dir
  | .ldfk | .ldfe | .feget => .load
  | .stef | .stfl | .feput => .store

/-- The direction of the access that a packet makes (R12, R36, R142). -/
def packetDir (p : Packet) : Dir :=
  match p.act with
  | some (.load _) => .load
  | some (.pres r) => presDir r.op
  | some (.store _) | some (.atom _) => .store
  | none => if p.kind = 3 then .store else .load

/-- The operation of a packet that is lost for good ends at its slot with a cause for its direction (R12, R302). A packet that
no slot's access made, such as a message or a barrier signal, ends none (log entry 86). -/
def State.endOp (s : State) (e : Event) (cause : Dir → Nat) : State :=
  let pres := fun (r : PresReq) => if s.presLive r then s.presTrap r (Trap.sync (cause (presDir r.op)) r.va) else s
  let trav := fun (p : Packet) (sid : Nat) =>
    if sid ≠ noSlot ∧ s.wanted p sid = true then s.packetTrap p sid (Trap.sync (cause (packetDir p)) p.target) else s
  match e with
  | .storeAtOwner r => s.later r.sid (Trap.sync (cause .store) r.va)
  | .loadAtOwner r =>
    match r.els, (s.slot r.sid).status with
    | (_, va) :: _, .parked .reply => s.modSlot r.sid (·.enter (Trap.sync (cause .load) va))
    | _, _ => s
  | .presenceRequest r => pres r
  | .presenceRetry r _ => pres r
  | .travellerArrival p _ sid _ _ => trav p sid
  | .travellerRetry p _ sid _ _ => trav p sid
  | .remoteAccessArrival r => s.post (.remoteRejectReport r)
  | .remoteReplyArrival r _ _ => s.inject true (.remoteRejectReport r)
  | .remoteStoreAcknowledge r => s.inject true (.remoteRejectReport r)
  | .remoteRejectReport r => s.inject true (.remoteRejectReport r)
  | _ => s

/-- A packet leaves over a link in a data flit, in its class and channel; it waits while the replay buffer is full, or the
counter stands at the threshold (R300 to R302). -/
def State.transmit (s : State) (link : Nat) (h : Hop) (level : Nat) (again : Bool) (e : Event) : State :=
  let l := s.link link
  if replaySize ≤ l.replay.length ∨ l.threshold ≤ l.ctr then s.post (.packetRoute h level again e)
  else
    let s := s.sendFlit link 0 h again (Config.flitBody e) [e]
    if l.threshold ≤ l.ctr + 1 then s.post (.rekeyThreshold ⟨link, none⟩) else s

/-- An upward hop from a level (R288, R289): a packet in an adaptive channel may move into the escape channel of its class, and takes any
up-port; in the escape channel it stays there, and its up-port is (PKG xor die * 16) mod n_up. What is open to it is a free
value (log entry 5). From the hub it leaves over a link. -/
def State.hopOn (s : State) (h : Hop) (level : Nat) (again : Bool) (pkg : Nat) (e : Event) : State :=
  let n := max 1 (Config.upPorts level)
  let die := (s.destDie e).elim 0 s.identityOf
  let (c, s) := s.fresh
  let (d, s) := s.fresh
  let vc := if h.vc < 4 ∧ c.getLsbD 0 = false then h.vc else 4
  let up := if vc = 4 then (pkg ^^^ (die * 16)) % n else d.toNat % n
  let h : Hop := { reply := h.reply, vc := vc, up := up }
  if level < 2 then s.post (.packetRoute h (level + 1) again e) else s.transmit (Config.linkOf up) h level again e

/-- PACKET_ROUTE (R12, R14, R20): a router looks a packet up and passes it on, towards its die in this package or the
package that serves it; a packet for an entry that is not valid is dropped and counted, and its operation ends with cause 5 or
7. `level`: the upward hops it has made; `again`: its source hub has sent it before (R302). -/
def execPacketRoute (h : Hop) (level : Nat) (again : Bool) (e : Event) (s : State) : Outcome :=
  .next (match s.route e with
    | .drop => (s.misrouted (routerOf e)).endOp e dirCause
    | .away pkg => s.hopOn h level again pkg e
    | .hold => s.post (.packetRoute h level again e)
    | .deliver => s.post e)

/-! ### Arrival, retry, acknowledgement (R301, R302) -/

/-- An authentication failure or a dropped flit of a link is logged and told (R281; log entry 27). -/
def State.tellLink (s : State) (k : Nat) : State := (s.logUnit 7 k).tellRate 7 k

/-- An accepted flit: its packets go on into this package, or the key slot that a marker names becomes live, and the old one
awaits a key (R301). -/
def State.flitIn (s : State) (link : Nat) (f : Flit) (plain : List Byte) : State :=
  if f.kind = 1 then
    let n := (plain.headD 0).toNat % 2
    (s.modLink link fun l => { l with rlive := n, rfreed := l.rfreed ++ [f.kslot] }).post
      (.keyInstall link ⟨2 + f.kslot, Config.exchange link (2 + f.kslot)⟩)
  else if f.kind = 0 then (Config.flitItems plain).foldl State.post s
  else s

/-- FLIT_ARRIVAL (R302): the flit expected is accepted when its CRC and tag are good; a bad one is discarded, with every
later one, until it comes again; after its third authentication failure the next flit is taken in its place. -/
def execFlitArrival (link : Nat) (f : Flit) (s : State) : Outcome :=
  let l := s.link link
  let k := l.rkeys.toList.getD f.kslot ⟨0, 0⟩
  .next (
    if f.lseq ≠ l.expect then s
    else if !f.crcOk then
      ((s.modLink link fun l => { l with crcFails := l.crcFails + 1, discard := true }).logRate 7 link).send (.retry link l.expect)
    else if f.tag ≠ flitTag k f then
      if l.fails < 2 then
        ((s.modLink link fun l =>
          { l with authFails := l.authFails + 1, fails := l.fails + 1, discard := true }).tellLink link).send
            (.retry link l.expect)
      else
        ((s.modLink link fun l =>
          { l with authFails := l.authFails + 1, fails := 0, drops := l.drops + 1, discard := false,
                   expect := (l.expect + 1) % 65536 }).tellLink link).send (.ack link f.lseq true)
    else
      ((s.modLink link fun l =>
        { l with expect := (l.expect + 1) % 65536, fails := 0, discard := false }).flitIn link f (cryptBytes k f.ctr f.cipher)).send
          (.ack link f.lseq false))

/-- Flits of a replay buffer from a sequence number on. -/
def fromSeq (l : List Sent) (lseq : Nat) : List Sent := l.dropWhile fun e => e.f.lseq != lseq

/-- FLIT_RETRY_REQUEST (R302): the sender resends from the named flit, each as it was. -/
def execFlitRetryRequest (link lseq : Nat) (s : State) : Outcome :=
  .next ((fromSeq (s.link link).replay lseq).foldl (fun (s : State) e => s.send (.flit link e.f)) s)

/-- What becomes of the packets of a flit that the receiver has discarded for good (R302): the source hub sends each once
more; a second loss ends its operation. The link rekeys through a marker. -/
def State.lostFlit (s : State) (link : Nat) (e : Sent) : State :=
  let s := e.items.foldl (fun (s : State) i =>
    if e.again then s.endOp i fun _ => 10
    else s.post (.packetRoute { reply := e.f.reply, vc := e.f.vc, up := 0 } 2 true i)) s
  s.post (.rekeyThreshold ⟨link, none⟩)

/-- A traveller for a die of a peer package counts as accepted once its flit is acknowledged (the model's choice, log entry
85). -/
def State.handedOver (s : State) (e : Event) : State :=
  match e with
  | .travellerArrival p _ sid _ _ => if p.act.isNone && s.wanted p sid then s.accept p sid else s
  | _ => s

/-- FLIT_ACKNOWLEDGE (R301, R302): flits up to the named one leave the replay buffer; an acknowledged marker frees its key
slot, in which a fresh key is installed; of a flit that was discarded for good the packets are sent again. -/
def execFlitAcknowledge (link : Nat) (a : FlitAck) (s : State) : Outcome :=
  let l := s.link link
  .next (match fromSeq l.replay a.lseq with
    | [] => s
    | e :: rest =>
      let gone := l.replay.take (l.replay.length - rest.length)
      let slots := (gone.filter fun e => e.f.kind == 1).map (·.f.kslot)
      let s := slots.foldl (fun (s : State) k => s.post (.keyInstall link ⟨k, Config.exchange link k⟩))
        (s.modLink link fun l => { l with replay := rest, freed := l.freed ++ slots })
      let kept := if a.dropped then gone.dropLast else gone
      let s := (kept.flatMap (·.items)).foldl State.handedOver s
      if a.dropped then s.lostFlit link e else s)

/-- REKEY_THRESHOLD (R301, R302): the threshold is programmed; or a marker flit goes out under the live slot, with the
counter as CTR, and its first payload byte names the other slot, under which later flits count from 0. The marker waits while
the replay buffer is full or the other slot has no key. -/
def execRekeyThreshold (r : Rekey) (s : State) : Outcome :=
  let link := r.link
  let l := s.link link
  .next (match r.program with
    | some n => s.modLink link fun l => { l with threshold := n }
    | none =>
      if replaySize ≤ l.replay.length ∨ l.freed.contains (1 - l.live) = true then s.post (.rekeyThreshold r)
      else (s.sendFlit link 1 { reply := false, vc := 0, up := 0 } false [BitVec.ofNat 8 (1 - l.live)] []).modLink
        link fun l => { l with live := 1 - l.live, ctr := 0 })

/-- What the peer's identity key signs when a key slot of a link gets its key (R301, R308; log entry 9). -/
def exchangeBytes (link slot : Nat) : List Byte := leBytes 2 link ++ leBytes 1 slot

/-- KEY_INSTALL (R301, R308): the hubs' key engines install a fresh key in a freed slot, 0 and 1 of the sending direction, 2
and 3 of the receiving one, once the peer's identity key authenticates the exchange. -/
def execKeyInstall (link : Nat) (k : KeyExchange) (s : State) : Outcome :=
  let slot := k.slot
  let l := s.link link
  .next (if !Config.verifies (Config.peerKey link) (exchangeBytes link slot) k.sig then s
    else if slot < 2 ∧ l.freed.contains slot = true then
      let (w, s) := s.fresh
      s.modLink link fun l => { l with
        freed := l.freed.filter (· != slot),
        keys := l.keys.set! slot ⟨Config.freshKey link w.toNat, Config.freshSalt link w.toNat⟩ }
    else if 2 ≤ slot ∧ l.rfreed.contains (slot - 2) = true then
      let (w, s) := s.fresh
      s.modLink link fun l => { l with
        rfreed := l.rfreed.filter (· != slot - 2),
        rkeys := l.rkeys.set! (slot - 2) ⟨Config.freshKey link w.toNat, Config.freshSalt link w.toNat⟩ }
    else s)

end Sys2Proof.Machine
end

