-- ==== Sys2Proof/Machine/VecMem.lean ====
section
/-! DEFINITION. The meanings of the strided and indexed vector loads and stores, of the vector moves, and of the
bit-stream instructions (spec 20 R340 to R342; 25 R462, R464 to R469). -/

namespace Sys2Proof.Machine

/-! ### Strided and indexed accesses (R464 to R466) -/

/-- Element size of the width bit: 4 bytes, or 2 with `.h`. -/
def elemZ (h : Bool) : Nat := if h then 2 else 4
/-- Number of elements. -/
def elemN (h : Bool) : Nat := 64 / elemZ h

/-- Element addresses of a strided form. -/
def Slot.strided (sl : Slot) (h : Bool) (rs1 rs2 : XReg) : List Word :=
  (List.range (elemN h)).map fun i => sl.rx rs1 + BitVec.ofNat 64 i * sl.rx rs2

/-- Element addresses of an indexed form. -/
def Slot.indexed (sl : Slot) (h : Bool) (rs1 : XReg) (vi : VReg) : List Word :=
  (List.range (elemN h)).map fun i => sl.rx rs1 + BitVec.ofNat 64 (elemZ h * lane (sl.rv vi) (8 * elemZ h) i)

/-- The checks of every element in increasing i, all before any effect (R464, R465). -/
def State.locateAll (s : State) (sid z : Nat) (store : Bool) : List Word → Except Trap (List (Nat × Word) × State)
  | [] => .ok ([], s)
  | a :: r =>
    if a.toNat % z ≠ 0 then .error (Trap.sync (if store then 6 else 4) a)
    else match (if store then s.locateStore sid a z else s.locate sid a z .load) with
      | .error t => .error t
      | .ok h =>
        match State.locateAll (if store then h.st else h.st.vcLoad sid h) sid z store r with
        | .error t => .error t
        | .ok (l, s') => .ok ((h.pa, a) :: l, s')

/-- VLDS and VGATH. -/
def State.elemLoad (s : State) (h : Bool) (vd : VReg) (as : List Word) : Outcome :=
  s.finish (match s.locateAll s.sid (elemZ h) false as with
    | .error t => .trap t
    | .ok (els, s) =>
      let r : LoadReq := { sid := s.sid, els := els, size := elemZ h, dst := .vector vd, got := 0, n := 0 }
      if els.any fun e => isOwn s.sid e.1 && s.inFlight s.core e.1 r.size false then .park false
      else if els.all fun e => isOwn s.sid e.1 then .done (s.loadAll r els)
      else .done ((s.sendLoad r).upd (·.parkOn .reply)))

/-- The stores of the elements in increasing i: to the own local store within the turn, elsewhere posted. -/
def State.postElems (s : State) (z : Nat) (v : VWord) : Nat → List (Nat × Word) → State
  | _, [] => s
  | i, (pa, va) :: r =>
    let d := lane v (8 * z) i
    let s :=
      if isOwn s.sid pa then
        let s := if s.bad (pa / 8) then
            match s.consume s.sid va with
            | .zero s => (s.wr (pa / 8 * 8) 8 0).setBad (pa / 8) false
            | .held f s => (s.wr (pa / 8 * 8) 8 f.toNat).setBad (pa / 8) false
            | _ => s
          else s
        s.put pa z d
      else s.sendStore { sid := s.sid, pa := pa, size := z, data := BitVec.ofNat 512 d, va := va }
    State.postElems s z v (i + 1) r

/-- VSTS and VSCAT: own words that are poisoned are checked before any store (R465). -/
def State.elemStore (s : State) (h : Bool) (vs : VReg) (as : List Word) : Outcome :=
  s.finish (match s.locateAll s.sid (elemZ h) true as with
    | .error t => .trap t
    | .ok (els, s) =>
      let go := (s.postElems (elemZ h) (s.me.rv vs) 0 els).ret
      if els.any fun e => isOwn s.sid e.1 && s.inFlight s.core e.1 (elemZ h) true then .park false
      else match els.find? fun e => isOwn s.sid e.1 && s.bad (e.1 / 8) with
      | some e =>
        match s.consume s.sid e.2 with
        | .abort s => .done s
        | .trap t => .trap t
        | .held _ _ | .zero _ => go
      | none => go)

/-- VLDS (R464). -/
def execVlds (h : Bool) (vd : VReg) (rs1 rs2 : XReg) (s : State) : Outcome := s.elemLoad h vd (s.me.strided h rs1 rs2)
/-- VSTS (R464). -/
def execVsts (h : Bool) (vs : VReg) (rs1 rs2 : XReg) (s : State) : Outcome := s.elemStore h vs (s.me.strided h rs1 rs2)
/-- VGATH (R464). -/
def execVgath (h : Bool) (vd : VReg) (rs1 : XReg) (vi : VReg) (s : State) : Outcome :=
  s.elemLoad h vd (s.me.indexed h rs1 vi)
/-- VSCAT (R464). -/
def execVscat (h : Bool) (vs : VReg) (rs1 : XReg) (vi : VReg) (s : State) : Outcome :=
  s.elemStore h vs (s.me.indexed h rs1 vi)

/-! ### Moves (R467 to R469) -/

/-- Lane width of the width bit. -/
def widthOf (h : Bool) : Nat := 8 * elemZ h

/-- VBCST (R467). -/
def execVbcst (h : Bool) (vd : VReg) (rs1 : XReg) (s : State) : Outcome :=
  .next (s.upd (·.retireV vd (ofLanes (widthOf h) (List.replicate (elemN h) (s.me.rx rs1).toNat))))

/-- VMVX (R467). -/
def execVmvx (h : Bool) (rd : XReg) (vs1 : VReg) (rs2 : XReg) (s : State) : Outcome :=
  s.alu rd (BitVec.ofInt 64 (toSigned (widthOf h) (lane (s.me.rv vs1) (widthOf h) ((s.me.rx rs2).toNat % elemN h))))

/-- VINS (R467). -/
def execVins (h : Bool) (vd : VReg) (rs1 rs2 : XReg) (s : State) : Outcome :=
  let k := (s.me.rx rs2).toNat % elemN h
  .next (s.upd (·.retireV vd (ofLanes (widthOf h) ((List.range (elemN h)).map fun i =>
    if i = k then (s.me.rx rs1).toNat else lane (s.me.rv vd) (widthOf h) i))))

/-- VSHUF (R468). -/
def execVshuf (vd vs1 vs2 : VReg) (s : State) : Outcome :=
  .next (s.upd (·.retireV vd (ofLanes 8 ((List.range 64).map fun k =>
    let c := lane (s.me.rv vs2) 8 k
    if 128 ≤ c then 0 else lane (s.me.rv vs1) 8 (c % 64)))))

/-- VIOTA (R467). -/
def execViota (h : Bool) (vd : VReg) (rs1 : XReg) (s : State) : Outcome :=
  .next (s.upd (·.retireV vd (ofLanes (widthOf h) ((List.range (elemN h)).map fun i => (s.me.rx rs1).toNat + i))))

/-- VSEL (R469). -/
def execVsel (h : Bool) (vd vs1 vs2 : VReg) (k : PReg) (s : State) : Outcome :=
  .next (s.upd (·.retireV vd (ofLanes (widthOf h) ((List.range (elemN h)).map fun i =>
    lane (s.me.rv (if (s.me.rp k).getLsbD i then vs1 else vs2)) (widthOf h) i))))

/-! ### Bit streams (R340 to R342) -/

/-- The end of the bit positions: 2^20, or 2^15 on a channel core. -/
def State.bitEnd (s : State) : Nat := if isChan s.core then 2 ^ 15 else 2 ^ 20
/-- Physical base of the own local store or scratch of the slot in turn. -/
def State.ownBase (s : State) : Nat := if isChan s.core then scratchPa s.sid else lsPa s.core
/-- The own-window address of a byte offset. -/
def ownVa (off : Nat) : Word := lsBase + BitVec.ofNat 64 off
/-- Bytes that n bits at p touch. -/
def bitSpan (p n : Nat) : Nat := (p % 8 + n + 7) / 8

/-- The own-window address of the first poisoned word that n bits at p touch. -/
def State.bitPoison (s : State) (p n : Nat) : Option Word :=
  let base := s.ownBase
  ((List.range (bitSpan p n)).find? fun i => s.bad ((base + p / 8 + i) / 8)).map fun i => ownVa ((p / 8 + i) / 8 * 8)

/-- A bit-stream access of n bits at p: it takes its place behind the core's accesses to those words (R168, R342), then
poison, then the effect on a state in which lenient poison is counted; `k` gets the free value that stands for a poisoned
word while an abort is held. -/
def State.bitAccess (s : State) (p n : Nat) (wr : Bool) (k : Option Word → State → Res) : Res :=
  if s.inFlight s.core (s.ownBase + p / 8) (bitSpan p n) wr then .park false
  else match s.bitPoison p n with
  | none => k none s
  | some va =>
    match s.consume s.sid va with
    | .abort s => .done s
    | .trap t => .trap t
    | .held f s => k (some f) s
    | .zero s => k none s

/-- n bits at p, poisoned words read as 0, or a free value. -/
def State.bitRead (s : State) (p n : Nat) (f : Option Word) : Nat :=
  match f with
  | some w => w.toNat % 2 ^ n
  | none => s.rdClean (s.ownBase + p / 8) (bitSpan p n) / 2 ^ (p % 8) % 2 ^ n

/-- n bits written at p, other bits of the bytes kept; a poisoned word is merged into 0, or a free value, and
becomes good. -/
def State.bitWrite (s : State) (p n v : Nat) (f : Option Word) : State :=
  let a := s.ownBase + p / 8
  let k := bitSpan p n
  let s := (List.range k).foldl (fun s i =>
    if s.bad ((a + i) / 8) then (s.wr ((a + i) / 8 * 8) 8 (f.getD 0).toNat).setBad ((a + i) / 8) false else s) s
  let old := s.rd a k
  let o := p % 8
  s.wr a k (old % 2 ^ o + (v % 2 ^ n) * 2 ^ o + old / 2 ^ (o + n) * 2 ^ (o + n))

/-- BSGET and BSPEEK. -/
def State.bitGet (s : State) (rd : XReg) (n1 : BitVec 5) (advance : Bool) : Outcome :=
  let p := s.me.bsrd.toNat
  let n := n1.toNat + 1
  s.finish (
    if s.bitEnd < p + n then .trap (Trap.sync 5 (ownVa (p / 8)))
    else s.bitAccess p n false fun f s' => s'.ret fun sl =>
      let sl := sl.wx rd (BitVec.ofNat 64 (s.bitRead p n f))
      if advance then { sl with bsrd := BitVec.ofNat 20 (p + n) } else sl)

/-- n bits of a value written at bswr, which advances; a protected word refuses the store (R271, R273). -/
def State.bitPut (s : State) (n v : Nat) : Res :=
  let p := s.me.bswr.toNat
  let va := ownVa (p / 8)
  if s.bitEnd < p + n then .trap (Trap.sync 7 va)
  else if s.guarded (s.ctx s.sid) va (s.ownBase + p / 8) (bitSpan p n) then .trap (Trap.sync 7 va (detail 8 0))
  else s.bitAccess p n true fun f s => (s.bitWrite p n v f).ret fun sl => { sl with bswr := BitVec.ofNat 20 (p + n) }

/-- BSGET (R341). -/
def execBsget (rd : XReg) (n1 : BitVec 5) (s : State) : Outcome := s.bitGet rd n1 true
/-- BSPEEK (R341). -/
def execBspeek (rd : XReg) (n1 : BitVec 5) (s : State) : Outcome := s.bitGet rd n1 false
/-- BSPUT (R341). -/
def execBsput (rs1 : XReg) (n1 : BitVec 5) (s : State) : Outcome :=
  s.finish (s.bitPut (n1.toNat + 1) (s.me.rx rs1).toNat)
/-- BSSKIP (R341). -/
def execBsskip (rs1 : XReg) (s : State) : Outcome :=
  let q := s.me.bsrd.toNat + (s.me.rx rs1).toNat
  s.finish (if s.bitEnd < q then .trap (Trap.sync 11 (s.me.rx rs1))
    else s.ret fun sl => { sl with bsrd := BitVec.ofNat 20 q })
/-- BSFLSH (R341): zero bits up to the next byte boundary. -/
def execBsflsh (s : State) : Outcome :=
  let k := (8 - s.me.bswr.toNat % 8) % 8
  s.finish (if k = 0 then s.ret else s.bitPut k 0)
/-- A bit position rounded up to a byte boundary, modulo 2^20. -/
def byteUp (p : BitVec 20) : BitVec 20 := BitVec.ofNat 20 ((p.toNat + 7) / 8 * 8)
/-- BSALGN_RD (R341). -/
def execBsalgnRd (s : State) : Outcome := s.finish (s.ret fun sl => { sl with bsrd := byteUp sl.bsrd })
/-- BSALGN_WR (R341). -/
def execBsalgnWr (s : State) : Outcome := s.finish (s.ret fun sl => { sl with bswr := byteUp sl.bswr })

end Sys2Proof.Machine
end

