-- ==== Sys2Proof/Machine/Dispatch.lean ====
section
/-! DEFINITION. The meaning of every constructor of Instr, one arm each. -/

namespace Sys2Proof.Machine

open Sys2Proof

/-- What the execution of one instruction, tile command or device event does to the package. -/
def exec (i : Instr) (s : State) : Host.Outcome State Fault Refusal :=
  match i with
  | .add rd rs1 rs2 => Sys2Proof.Machine.execAdd rd rs1 rs2 s
  | .sub rd rs1 rs2 => Sys2Proof.Machine.execSub rd rs1 rs2 s
  | .sll rd rs1 rs2 => Sys2Proof.Machine.execSll rd rs1 rs2 s
  | .slt rd rs1 rs2 => Sys2Proof.Machine.execSlt rd rs1 rs2 s
  | .sltu rd rs1 rs2 => Sys2Proof.Machine.execSltu rd rs1 rs2 s
  | .xor rd rs1 rs2 => Sys2Proof.Machine.execXor rd rs1 rs2 s
  | .srl rd rs1 rs2 => Sys2Proof.Machine.execSrl rd rs1 rs2 s
  | .sra rd rs1 rs2 => Sys2Proof.Machine.execSra rd rs1 rs2 s
  | .or rd rs1 rs2 => Sys2Proof.Machine.execOr rd rs1 rs2 s
  | .and rd rs1 rs2 => Sys2Proof.Machine.execAnd rd rs1 rs2 s
  | .addw rd rs1 rs2 => Sys2Proof.Machine.execAddw rd rs1 rs2 s
  | .subw rd rs1 rs2 => Sys2Proof.Machine.execSubw rd rs1 rs2 s
  | .sllw rd rs1 rs2 => Sys2Proof.Machine.execSllw rd rs1 rs2 s
  | .srlw rd rs1 rs2 => Sys2Proof.Machine.execSrlw rd rs1 rs2 s
  | .sraw rd rs1 rs2 => Sys2Proof.Machine.execSraw rd rs1 rs2 s
  | .mul rd rs1 rs2 => Sys2Proof.Machine.execMul rd rs1 rs2 s
  | .mulh rd rs1 rs2 => Sys2Proof.Machine.execMulh rd rs1 rs2 s
  | .mulhsu rd rs1 rs2 => Sys2Proof.Machine.execMulhsu rd rs1 rs2 s
  | .mulhu rd rs1 rs2 => Sys2Proof.Machine.execMulhu rd rs1 rs2 s
  | .div rd rs1 rs2 => Sys2Proof.Machine.execDiv rd rs1 rs2 s
  | .divu rd rs1 rs2 => Sys2Proof.Machine.execDivu rd rs1 rs2 s
  | .rem rd rs1 rs2 => Sys2Proof.Machine.execRem rd rs1 rs2 s
  | .remu rd rs1 rs2 => Sys2Proof.Machine.execRemu rd rs1 rs2 s
  | .mulw rd rs1 rs2 => Sys2Proof.Machine.execMulw rd rs1 rs2 s
  | .divw rd rs1 rs2 => Sys2Proof.Machine.execDivw rd rs1 rs2 s
  | .divuw rd rs1 rs2 => Sys2Proof.Machine.execDivuw rd rs1 rs2 s
  | .remw rd rs1 rs2 => Sys2Proof.Machine.execRemw rd rs1 rs2 s
  | .remuw rd rs1 rs2 => Sys2Proof.Machine.execRemuw rd rs1 rs2 s
  | .addi rd rs1 imm => Sys2Proof.Machine.execAddi rd rs1 imm s
  | .slti rd rs1 imm => Sys2Proof.Machine.execSlti rd rs1 imm s
  | .sltiu rd rs1 imm => Sys2Proof.Machine.execSltiu rd rs1 imm s
  | .xori rd rs1 imm => Sys2Proof.Machine.execXori rd rs1 imm s
  | .ori rd rs1 imm => Sys2Proof.Machine.execOri rd rs1 imm s
  | .andi rd rs1 imm => Sys2Proof.Machine.execAndi rd rs1 imm s
  | .slli rd rs1 sh => Sys2Proof.Machine.execSlli rd rs1 sh s
  | .srli rd rs1 sh => Sys2Proof.Machine.execSrli rd rs1 sh s
  | .srai rd rs1 sh => Sys2Proof.Machine.execSrai rd rs1 sh s
  | .addiw rd rs1 imm => Sys2Proof.Machine.execAddiw rd rs1 imm s
  | .slliw rd rs1 sh => Sys2Proof.Machine.execSlliw rd rs1 sh s
  | .srliw rd rs1 sh => Sys2Proof.Machine.execSrliw rd rs1 sh s
  | .sraiw rd rs1 sh => Sys2Proof.Machine.execSraiw rd rs1 sh s
  | .lb rd rs1 imm => Sys2Proof.Machine.execLb rd rs1 imm s
  | .lh rd rs1 imm => Sys2Proof.Machine.execLh rd rs1 imm s
  | .lw rd rs1 imm => Sys2Proof.Machine.execLw rd rs1 imm s
  | .ld rd rs1 imm => Sys2Proof.Machine.execLd rd rs1 imm s
  | .lbu rd rs1 imm => Sys2Proof.Machine.execLbu rd rs1 imm s
  | .lhu rd rs1 imm => Sys2Proof.Machine.execLhu rd rs1 imm s
  | .lwu rd rs1 imm => Sys2Proof.Machine.execLwu rd rs1 imm s
  | .sb rs2 rs1 imm => Sys2Proof.Machine.execSb rs2 rs1 imm s
  | .sh rs2 rs1 imm => Sys2Proof.Machine.execSh rs2 rs1 imm s
  | .sw rs2 rs1 imm => Sys2Proof.Machine.execSw rs2 rs1 imm s
  | .sd rs2 rs1 imm => Sys2Proof.Machine.execSd rs2 rs1 imm s
  | .beq rs1 rs2 off => Sys2Proof.Machine.execBeq rs1 rs2 off s
  | .bne rs1 rs2 off => Sys2Proof.Machine.execBne rs1 rs2 off s
  | .blt rs1 rs2 off => Sys2Proof.Machine.execBlt rs1 rs2 off s
  | .bge rs1 rs2 off => Sys2Proof.Machine.execBge rs1 rs2 off s
  | .bltu rs1 rs2 off => Sys2Proof.Machine.execBltu rs1 rs2 off s
  | .bgeu rs1 rs2 off => Sys2Proof.Machine.execBgeu rs1 rs2 off s
  | .lui rd imm => Sys2Proof.Machine.execLui rd imm s
  | .auipc rd imm => Sys2Proof.Machine.execAuipc rd imm s
  | .jal rd off => Sys2Proof.Machine.execJal rd off s
  | .jalr rd rs1 imm => Sys2Proof.Machine.execJalr rd rs1 imm s
  | .csrrw rd csr rs1 => Sys2Proof.Machine.execCsrrw rd csr rs1 s
  | .csrrs rd csr rs1 => Sys2Proof.Machine.execCsrrs rd csr rs1 s
  | .csrrc rd csr rs1 => Sys2Proof.Machine.execCsrrc rd csr rs1 s
  | .csrrwi rd csr u => Sys2Proof.Machine.execCsrrwi rd csr u s
  | .csrrsi rd csr u => Sys2Proof.Machine.execCsrrsi rd csr u s
  | .csrrci rd csr u => Sys2Proof.Machine.execCsrrci rd csr u s
  | .fence rd rs1 imm => Sys2Proof.Machine.execFence rd rs1 imm s
  | .fenceI rd rs1 imm => Sys2Proof.Machine.execFenceI rd rs1 imm s
  | .ecall => Sys2Proof.Machine.execEcall s
  | .ebreak => Sys2Proof.Machine.execEbreak s
  | .ldfk rd rs1 => Sys2Proof.Machine.execLdfk rd rs1 s
  | .ldfe rd rs1 => Sys2Proof.Machine.execLdfe rd rs1 s
  | .stef rs2 rs1 => Sys2Proof.Machine.execStef rs2 rs1 s
  | .stfl rs2 rs1 => Sys2Proof.Machine.execStfl rs2 rs1 s
  | .feget rd rs1 => Sys2Proof.Machine.execFeget rd rs1 s
  | .feput rs2 rs1 => Sys2Proof.Machine.execFeput rs2 rs1 s
  | .rld rd rs1 => Sys2Proof.Machine.execRld rd rs1 s
  | .rldv vd rs1 => Sys2Proof.Machine.execRldv vd rs1 s
  | .rst rs2 rs1 => Sys2Proof.Machine.execRst rs2 rs1 s
  | .rstv vs2 rs1 => Sys2Proof.Machine.execRstv vs2 rs1 s
  | .mcst rs2 rs1 => Sys2Proof.Machine.execMcst rs2 rs1 s
  | .mcstv vs2 rs1 => Sys2Proof.Machine.execMcstv vs2 rs1 s
  | .amadd rd rs2 rs1 nr aq rl => Sys2Proof.Machine.execAmadd rd rs2 rs1 nr aq rl s
  | .amand rd rs2 rs1 nr aq rl => Sys2Proof.Machine.execAmand rd rs2 rs1 nr aq rl s
  | .amor rd rs2 rs1 nr aq rl => Sys2Proof.Machine.execAmor rd rs2 rs1 nr aq rl s
  | .amxor rd rs2 rs1 nr aq rl => Sys2Proof.Machine.execAmxor rd rs2 rs1 nr aq rl s
  | .ammax rd rs2 rs1 nr aq rl => Sys2Proof.Machine.execAmmax rd rs2 rs1 nr aq rl s
  | .ammin rd rs2 rs1 nr aq rl => Sys2Proof.Machine.execAmmin rd rs2 rs1 nr aq rl s
  | .amswap rd rs2 rs1 nr aq rl => Sys2Proof.Machine.execAmswap rd rs2 rs1 nr aq rl s
  | .amcas rd rs2 rs1 nr aq rl => Sys2Proof.Machine.execAmcas rd rs2 rs1 nr aq rl s
  | .amfadd rd rs2 rs1 nr aq rl => Sys2Proof.Machine.execAmfadd rd rs2 rs1 nr aq rl s
  | .amfmax rd rs2 rs1 nr aq rl => Sys2Proof.Machine.execAmfmax rd rs2 rs1 nr aq rl s
  | .cpy ch bc rs1 rs2 rs3 => Sys2Proof.Machine.execCpy ch bc rs1 rs2 rs3 s
  | .cpy2d ch bc rs1 rs2 rs3 => Sys2Proof.Machine.execCpy2d ch bc rs1 rs2 rs3 s
  | .cpyg ch bc rs1 rs2 rs3 => Sys2Proof.Machine.execCpyg ch bc rs1 rs2 rs3 s
  | .cpys ch bc rs1 rs2 rs3 => Sys2Proof.Machine.execCpys ch bc rs1 rs2 rs3 s
  | .cseal rd => Sys2Proof.Machine.execCseal rd s
  | .cwait n => Sys2Proof.Machine.execCwait n s
  | .bcarm id rs1 => Sys2Proof.Machine.execBcarm id rs1 s
  | .bcwait id => Sys2Proof.Machine.execBcwait id s
  | .pgzero rs1 => Sys2Proof.Machine.execPgzero rs1 s
  | .pgcopy rs1 rs2 => Sys2Proof.Machine.execPgcopy rs1 rs2 s
  | .exit => Sys2Proof.Machine.execExit s
  | .yield => Sys2Proof.Machine.execYield s
  | .park rs1 => Sys2Proof.Machine.execPark rs1 s
  | .follow => Sys2Proof.Machine.execFollow s
  | .migr rs1 => Sys2Proof.Machine.execMigr rs1 s
  | .home => Sys2Proof.Machine.execHome s
  | .spawn rs1 rs2 => Sys2Proof.Machine.execSpawn rs1 rs2 s
  | .deleg rs1 rs2 => Sys2Proof.Machine.execDeleg rs1 rs2 s
  | .delegReply rs1 rs2 h => Sys2Proof.Machine.execDelegReply rs1 rs2 h s
  | .step => Sys2Proof.Machine.execStep s
  | .ckpt => Sys2Proof.Machine.execCkpt s
  | .safept idx => Sys2Proof.Machine.execSafept idx s
  | .loop rs1 n => Sys2Proof.Machine.execLoop rs1 n s
  | .qrd rd q => Sys2Proof.Machine.execQrd rd q s
  | .qwr q rs2 => Sys2Proof.Machine.execQwr q rs2 s
  | .qrdv vd q => Sys2Proof.Machine.execQrdv vd q s
  | .qwrv q vs2 => Sys2Proof.Machine.execQwrv q vs2 s
  | .qtst rd q => Sys2Proof.Machine.execQtst rd q s
  | .qwait rd rs1 => Sys2Proof.Machine.execQwait rd rs1 s
  | .qbind q rs2 => Sys2Proof.Machine.execQbind q rs2 s
  | .qfree q => Sys2Proof.Machine.execQfree q s
  | .qbr q off => Sys2Proof.Machine.execQbr q off s
  | .barinit b rs1 => Sys2Proof.Machine.execBarinit b rs1 s
  | .bararv b => Sys2Proof.Machine.execBararv b s
  | .barwt b => Sys2Proof.Machine.execBarwt b s
  | .barsyn b => Sys2Proof.Machine.execBarsyn b s
  | .barq rd b => Sys2Proof.Machine.execBarq rd b s
  | .cdopen rs1 => Sys2Proof.Machine.execCdopen rs1 s
  | .cdpresCopy rs1 rs2 => Sys2Proof.Machine.execCdpresCopy rs1 rs2 s
  | .cdpresRef rs1 rs2 => Sys2Proof.Machine.execCdpresRef rs1 rs2 s
  | .cdclose => Sys2Proof.Machine.execCdclose s
  | .cdabort => Sys2Proof.Machine.execCdabort s
  | .cdstat rd => Sys2Proof.Machine.execCdstat rd s
  | .scopef kind scope => Sys2Proof.Machine.execScopef kind scope s
  | .enq q vs2 => Sys2Proof.Machine.execEnq q vs2 s
  | .mlease => Sys2Proof.Machine.execMlease s
  | .mrel => Sys2Proof.Machine.execMrel s
  | .efence rs1 rs2 => Sys2Proof.Machine.execEfence rs1 rs2 s
  | .msend rs1 rs2 => Sys2Proof.Machine.execMsend rs1 rs2 s
  | .msendv rs1 vs2 => Sys2Proof.Machine.execMsendv rs1 vs2 s
  | .ksfbind rs1 rs2 => Sys2Proof.Machine.execKsfbind rs1 rs2 s
  | .eres rs1 => Sys2Proof.Machine.execEres rs1 s
  | .kret => Sys2Proof.Machine.execKret s
  | .tlbinv rs1 rs2 => Sys2Proof.Machine.execTlbinv rs1 rs2 s
  | .ctxst rs1 rs2 => Sys2Proof.Machine.execCtxst rs1 rs2 s
  | .ctxld rs1 rs2 => Sys2Proof.Machine.execCtxld rs1 rs2 s
  | .scrub rs1 rs2 => Sys2Proof.Machine.execScrub rs1 rs2 s
  | .teamstop rs1 => Sys2Proof.Machine.execTeamstop rs1 s
  | .teamgo rs1 => Sys2Proof.Machine.execTeamgo rs1 s
  | .ptparm rs1 => Sys2Proof.Machine.execPtparm rs1 s
  | .ksfload rs1 rs2 => Sys2Proof.Machine.execKsfload rs1 rs2 s
  | .vadd pred ty vd vs1 vs2 => Sys2Proof.Machine.execVadd pred ty vd vs1 vs2 s
  | .vsub pred ty vd vs1 vs2 => Sys2Proof.Machine.execVsub pred ty vd vs1 vs2 s
  | .vmul pred ty vd vs1 vs2 => Sys2Proof.Machine.execVmul pred ty vd vs1 vs2 s
  | .vfma pred ty vd vs1 vs2 => Sys2Proof.Machine.execVfma pred ty vd vs1 vs2 s
  | .vfms pred ty vd vs1 vs2 => Sys2Proof.Machine.execVfms pred ty vd vs1 vs2 s
  | .vmax pred ty vd vs1 vs2 => Sys2Proof.Machine.execVmax pred ty vd vs1 vs2 s
  | .vmin pred ty vd vs1 vs2 => Sys2Proof.Machine.execVmin pred ty vd vs1 vs2 s
  | .vabs pred ty vd vs1 => Sys2Proof.Machine.execVabs pred ty vd vs1 s
  | .vneg pred ty vd vs1 => Sys2Proof.Machine.execVneg pred ty vd vs1 s
  | .vcmpEq pred ty pd vs1 vs2 => Sys2Proof.Machine.execVcmpEq pred ty pd vs1 vs2 s
  | .vcmpLt pred ty pd vs1 vs2 => Sys2Proof.Machine.execVcmpLt pred ty pd vs1 vs2 s
  | .vcmpLe pred ty pd vs1 vs2 => Sys2Proof.Machine.execVcmpLe pred ty pd vs1 vs2 s
  | .vcmpNe pred ty pd vs1 vs2 => Sys2Proof.Machine.execVcmpNe pred ty pd vs1 vs2 s
  | .vcvt pred ty src vd vs1 => Sys2Proof.Machine.execVcvt pred ty src vd vs1 s
  | .vrcpe pred ty vd vs1 => Sys2Proof.Machine.execVrcpe pred ty vd vs1 s
  | .vrsqe pred ty vd vs1 => Sys2Proof.Machine.execVrsqe pred ty vd vs1 s
  | .vexp2e pred ty vd vs1 => Sys2Proof.Machine.execVexp2e pred ty vd vs1 s
  | .vreds pred ty vd vs1 => Sys2Proof.Machine.execVreds pred ty vd vs1 s
  | .vredm pred ty vd vs1 => Sys2Proof.Machine.execVredm pred ty vd vs1 s
  | .vcmul pred vd vs1 vs2 => Sys2Proof.Machine.execVcmul pred vd vs1 vs2 s
  | .viadd pred ty vd vs1 vs2 => Sys2Proof.Machine.execViadd pred ty vd vs1 vs2 s
  | .visub pred ty vd vs1 vs2 => Sys2Proof.Machine.execVisub pred ty vd vs1 vs2 s
  | .vimul pred ty vd vs1 vs2 => Sys2Proof.Machine.execVimul pred ty vd vs1 vs2 s
  | .vand pred ty vd vs1 vs2 => Sys2Proof.Machine.execVand pred ty vd vs1 vs2 s
  | .vor pred ty vd vs1 vs2 => Sys2Proof.Machine.execVor pred ty vd vs1 vs2 s
  | .vxor pred ty vd vs1 vs2 => Sys2Proof.Machine.execVxor pred ty vd vs1 vs2 s
  | .vshl pred ty vd vs1 vs2 => Sys2Proof.Machine.execVshl pred ty vd vs1 vs2 s
  | .vshr pred ty vd vs1 vs2 => Sys2Proof.Machine.execVshr pred ty vd vs1 vs2 s
  | .vsra pred ty vd vs1 vs2 => Sys2Proof.Machine.execVsra pred ty vd vs1 vs2 s
  | .vimax pred ty vd vs1 vs2 => Sys2Proof.Machine.execVimax pred ty vd vs1 vs2 s
  | .vimin pred ty vd vs1 vs2 => Sys2Proof.Machine.execVimin pred ty vd vs1 vs2 s
  | .vicmpEq pred ty pd vs1 vs2 => Sys2Proof.Machine.execVicmpEq pred ty pd vs1 vs2 s
  | .vicmpLt pred ty pd vs1 vs2 => Sys2Proof.Machine.execVicmpLt pred ty pd vs1 vs2 s
  | .vicmpLe pred ty pd vs1 vs2 => Sys2Proof.Machine.execVicmpLe pred ty pd vs1 vs2 s
  | .vicmpNe pred ty pd vs1 vs2 => Sys2Proof.Machine.execVicmpNe pred ty pd vs1 vs2 s
  | .vld vd rs1 => Sys2Proof.Machine.execVld vd rs1 s
  | .vst vs2 rs1 => Sys2Proof.Machine.execVst vs2 rs1 s
  | .vlds h vd rs1 rs2 => Sys2Proof.Machine.execVlds h vd rs1 rs2 s
  | .vsts h vs rs1 rs2 => Sys2Proof.Machine.execVsts h vs rs1 rs2 s
  | .vgath h vd rs1 vi => Sys2Proof.Machine.execVgath h vd rs1 vi s
  | .vscat h vs rs1 vi => Sys2Proof.Machine.execVscat h vs rs1 vi s
  | .vbcst h vd rs1 => Sys2Proof.Machine.execVbcst h vd rs1 s
  | .vmvx h rd vs1 rs2 => Sys2Proof.Machine.execVmvx h rd vs1 rs2 s
  | .vins h vd rs1 rs2 => Sys2Proof.Machine.execVins h vd rs1 rs2 s
  | .vshuf vd vs1 vs2 => Sys2Proof.Machine.execVshuf vd vs1 vs2 s
  | .viota h vd rs1 => Sys2Proof.Machine.execViota h vd rs1 s
  | .vsel h vd vs1 vs2 k => Sys2Proof.Machine.execVsel h vd vs1 vs2 k s
  | .pand pd pa pb => Sys2Proof.Machine.execPand pd pa pb s
  | .por pd pa pb => Sys2Proof.Machine.execPor pd pa pb s
  | .pxor pd pa pb => Sys2Proof.Machine.execPxor pd pa pb s
  | .pnot pd pa => Sys2Proof.Machine.execPnot pd pa s
  | .pcnt rd pa => Sys2Proof.Machine.execPcnt rd pa s
  | .pfirst rd pa => Sys2Proof.Machine.execPfirst rd pa s
  | .bsget rd n1 => Sys2Proof.Machine.execBsget rd n1 s
  | .bsput rs1 n1 => Sys2Proof.Machine.execBsput rs1 n1 s
  | .bspeek rd n1 => Sys2Proof.Machine.execBspeek rd n1 s
  | .bsskip rs1 => Sys2Proof.Machine.execBsskip rs1 s
  | .bsflsh => Sys2Proof.Machine.execBsflsh s
  | .bsalgnRd => Sys2Proof.Machine.execBsalgnRd s
  | .bsalgnWr => Sys2Proof.Machine.execBsalgnWr s
  | .mma h bank acc bform xexp a st1 woff => Sys2Proof.Machine.execMma h bank acc bform xexp a st1 woff s
  | .mvb h bank acc vmask tile => Sys2Proof.Machine.execMvb h bank acc vmask tile s
  | .mldv h vslot xd xsel xexp vec => Sys2Proof.Machine.execMldv h vslot xd xsel xexp vec s
  | .mwld h form src woff => Sys2Proof.Machine.execMwld h form src woff s
  | .mzero h bank => Sys2Proof.Machine.execMzero h bank s
  | .mstc h bank fold ovr sfmt foldw dst st3 => Sys2Proof.Machine.execMstc h bank fold ovr sfmt foldw dst st3 s
  | .mtrn h bank xexp a st1 => Sys2Proof.Machine.execMtrn h bank xexp a st1 s
  | .mperm h bank acc xexp a st1 idx => Sys2Proof.Machine.execMperm h bank acc xexp a st1 idx s
  | .mrsum h bank acc seg xexp a st1 => Sys2Proof.Machine.execMrsum h bank acc seg xexp a st1 s
  | .sfft h shape src dst => Sys2Proof.Machine.execSfft h shape src dst s
  | .sifft h shape src dst => Sys2Proof.Machine.execSifft h shape src dst s
  | .scmm h bank shape src woff dst => Sys2Proof.Machine.execScmm h bank shape src woff dst s
  | .stagMode0 h et shape src dst => Sys2Proof.Machine.execStagMode0 h et shape src dst s
  | .stagMode1 h shape src ref dst => Sys2Proof.Machine.execStagMode1 h shape src ref dst s
  | .stagMode2 h shape src dst => Sys2Proof.Machine.execStagMode2 h shape src dst s
  | .ttopk h lb res kb x r out => Sys2Proof.Machine.execTtopk h lb res kb x r out s
  | .tspadd h kb pairs len vec => Sys2Proof.Machine.execTspadd h kb pairs len vec s
  | .tpack h lb kb src dst => Sys2Proof.Machine.execTpack h lb kb src dst s
  | .tunpk h lb kb src dst => Sys2Proof.Machine.execTunpk h lb kb src dst s
  | .tlink h n1 list => Sys2Proof.Machine.execTlink h n1 list s
  | .cbatchCdoneWrite v => Sys2Proof.Machine.execCbatchCdoneWrite v s
  | .preqWrite sid v => Sys2Proof.Machine.execPreqWrite sid v s
  | .dmapWrite v => Sys2Proof.Machine.execDmapWrite v s
  | .loopRegisterWrite csr v => Sys2Proof.Machine.execLoopRegisterWrite csr v s
  | .csrWrite csr v => Sys2Proof.Machine.execCsrWrite csr v s
  | .interruptEntry sid => Sys2Proof.Machine.execInterruptEntry sid s
  | .safePointOverdue sid => Sys2Proof.Machine.execSafePointOverdue sid s
  | .sliceInstant sid => Sys2Proof.Machine.execSliceInstant sid s
  | .kernelTimer sid => Sys2Proof.Machine.execKernelTimer sid s
  | .parkExpiry sid => Sys2Proof.Machine.execParkExpiry sid s
  | .followTimeout sid => Sys2Proof.Machine.execFollowTimeout sid s
  | .dispatchPlace lid choice => Sys2Proof.Machine.execDispatchPlace lid choice s
  | .teamStart tid => Sys2Proof.Machine.execTeamStart tid s
  | .dependenceReject lid => Sys2Proof.Machine.execDependenceReject lid s
  | .travellerArrival p owner sid tries crc => Sys2Proof.Machine.execTravellerArrival p owner sid tries crc s
  | .travellerRetry p owner sid tries due => Sys2Proof.Machine.execTravellerRetry p owner sid tries due s
  | .runQueueRelease core => Sys2Proof.Machine.execRunQueueRelease core s
  | .homePacketArrival f => Sys2Proof.Machine.execHomePacketArrival f s
  | .remoteUpdate p owner => Sys2Proof.Machine.execRemoteUpdate p owner s
  | .spawnExitReport tid logical flags => Sys2Proof.Machine.execSpawnExitReport tid logical flags s
  | .storeAtOwner r => Sys2Proof.Machine.execStoreAtOwner r s
  | .loadAtOwner r => Sys2Proof.Machine.execLoadAtOwner r s
  | .atomicAtOwner r => Sys2Proof.Machine.execAtomicAtOwner r s
  | .atomicReply r old flags => Sys2Proof.Machine.execAtomicReply r old flags s
  | .presenceRequest r => Sys2Proof.Machine.execPresenceRequest r s
  | .presenceRetry r due => Sys2Proof.Machine.execPresenceRetry r due s
  | .pageTableWalk sid va dir => Sys2Proof.Machine.execPageTableWalk sid va dir s
  | .vaultCacheFill cluster line => Sys2Proof.Machine.execVaultCacheFill cluster line s
  | .fetchLineArrival chan asid line => Sys2Proof.Machine.execFetchLineArrival chan asid line s
  | .copyBurstDeliver core ch => Sys2Proof.Machine.execCopyBurstDeliver core ch s
  | .streamReadAhead sid q => Sys2Proof.Machine.execStreamReadAhead sid q s
  | .streamElementWrite sid q => Sys2Proof.Machine.execStreamElementWrite sid q s
  | .ksfImageFetch chan tid slot => Sys2Proof.Machine.execKsfImageFetch chan tid slot s
  | .ksfStreamUnit core ch => Sys2Proof.Machine.execKsfStreamUnit core ch s
  | .messageArrival tid core hole d => Sys2Proof.Machine.execMessageArrival tid core hole d s
  | .barrierRootReport tid gen cluster b leaf => Sys2Proof.Machine.execBarrierRootReport tid gen cluster b leaf s
  | .barrierPhaseFlip tid gen cluster b => Sys2Proof.Machine.execBarrierPhaseFlip tid gen cluster b s
  | .doneMessage tid logical w => Sys2Proof.Machine.execDoneMessage tid logical w s
  | .tileCommandStart cluster eng => Sys2Proof.Machine.execTileCommandStart cluster eng s
  | .tileCommandComplete cluster eng ticket => Sys2Proof.Machine.execTileCommandComplete cluster eng ticket s
  | .domainAbort sid depth reason => Sys2Proof.Machine.execDomainAbort sid depth reason s
  | .domainRestore sid => Sys2Proof.Machine.execDomainRestore sid s
  | .remoteAccessArrival r => Sys2Proof.Machine.execRemoteAccessArrival r s
  | .remoteReplyArrival r value poisoned => Sys2Proof.Machine.execRemoteReplyArrival r value poisoned s
  | .remoteRejectReport r => Sys2Proof.Machine.execRemoteRejectReport r s
  | .multicastMemberReport sid member ok => Sys2Proof.Machine.execMulticastMemberReport sid member ok s
  | .packetRoute h level again e => Sys2Proof.Machine.execPacketRoute h level again e s
  | .flitArrival link f => Sys2Proof.Machine.execFlitArrival link f s
  | .flitRetryRequest link lseq => Sys2Proof.Machine.execFlitRetryRequest link lseq s
  | .flitAcknowledge link a => Sys2Proof.Machine.execFlitAcknowledge link a s
  | .rekeyThreshold r => Sys2Proof.Machine.execRekeyThreshold r s
  | .keyInstall link k => Sys2Proof.Machine.execKeyInstall link k s
  | .doorWrite d => Sys2Proof.Machine.execDoorWrite d s
  | .h2dAccept m => Sys2Proof.Machine.execH2dAccept m s
  | .prodWrite v => Sys2Proof.Machine.execProdWrite v s
  | .d2hSend => Sys2Proof.Machine.execD2hSend s
  | .seenWrite v restart => Sys2Proof.Machine.execSeenWrite v restart s
  | .moduleReset => Sys2Proof.Machine.execModuleReset s
  | .stewardDieTest pass => Sys2Proof.Machine.execStewardDieTest pass s
  | .bootVerify cfg => Sys2Proof.Machine.execBootVerify cfg s
  | .kernelLaunch record => Sys2Proof.Machine.execKernelLaunch record s
  | .attestationRequest nonce dst => Sys2Proof.Machine.execAttestationRequest nonce dst s
  | .stewardNotice n => Sys2Proof.Machine.execStewardNotice n s
  | .dieMapChange die phase pkg pdie => Sys2Proof.Machine.execDieMapChange die phase pkg pdie s
  | .hubFailover => Sys2Proof.Machine.execHubFailover s
  | .thermalAlarm scope unit temp => Sys2Proof.Machine.execThermalAlarm scope unit temp s
  | .thermalShutdown temp => Sys2Proof.Machine.execThermalShutdown temp s
  | .thermalClear stack temp => Sys2Proof.Machine.execThermalClear stack temp s
  | .halfWidthChange chan => Sys2Proof.Machine.execHalfWidthChange chan s
  | .fullWidthReturn chan => Sys2Proof.Machine.execFullWidthReturn chan s
  | .laneFault link unit => Sys2Proof.Machine.execLaneFault link unit s
  | .powerBudgetExceeded => Sys2Proof.Machine.execPowerBudgetExceeded s
  | .ptpOffsetExceeded hub offset => Sys2Proof.Machine.execPtpOffsetExceeded hub offset s
  | .rowPrecharge chan row parityOk => Sys2Proof.Machine.execRowPrecharge chan row parityOk s
  | .neighbourRefresh chan row => Sys2Proof.Machine.execNeighbourRefresh chan row s
  | .pageRowStep sid dst src rl k => Sys2Proof.Machine.execPageRowStep sid dst src rl k s
  | .scrubLineStep sid va left => Sys2Proof.Machine.execScrubLineStep sid va left s
  | .backgroundScrub pa finder => Sys2Proof.Machine.execBackgroundScrub pa finder s
  | .uncorrectableError pa => Sys2Proof.Machine.execUncorrectableError pa s
  | .unitFailure cls unit => Sys2Proof.Machine.execUnitFailure cls unit s
  | .diagnosisVote a b peer cls unit => Sys2Proof.Machine.execDiagnosisVote a b peer cls unit s
  | .replacement tid logical phys readable => Sys2Proof.Machine.execReplacement tid logical phys readable s
  | .stateLossSequence tid => Sys2Proof.Machine.execStateLossSequence tid s
  | .packageLoss pkg tid => Sys2Proof.Machine.execPackageLoss pkg tid s
  | .remapStart version => Sys2Proof.Machine.execRemapStart version s
  | .remapPageMove page => Sys2Proof.Machine.execRemapPageMove page s
  | .remapEnd => Sys2Proof.Machine.execRemapEnd s
  | .checkpointUnitCopy tid unit => Sys2Proof.Machine.execCheckpointUnitCopy tid unit s
  | .checkpointCommit tid reason => Sys2Proof.Machine.execCheckpointCommit tid reason s
  | .travellerSave tid sid => Sys2Proof.Machine.execTravellerSave tid sid s
  | .porterQuiesce tid core => Sys2Proof.Machine.execPorterQuiesce tid core s
  | .arrayQuiesce tid cluster => Sys2Proof.Machine.execArrayQuiesce tid cluster s
  | .saveComplete tid => Sys2Proof.Machine.execSaveComplete tid s
  | .teamResume lid choice => Sys2Proof.Machine.execTeamResume lid choice s
  | .ptpOffsetRecovered o => Sys2Proof.Machine.execPtpOffsetRecovered o s
  | .powerDrawWithinBudget => Sys2Proof.Machine.execPowerDrawWithinBudget s
  | .laneFaultCleared chan => Sys2Proof.Machine.execLaneFaultCleared chan s
  | .remoteStoreAcknowledge r => Sys2Proof.Machine.execRemoteStoreAcknowledge r s
  | .clusterScrubComplete cluster => Sys2Proof.Machine.execClusterScrubComplete cluster s

end Sys2Proof.Machine
end

