-- ==== Sys2Proof/Machine/Fetch.lean ====
section
/-! DEFINITION. Fetching an instruction at a slot's pc, the registers that an instruction names while replies are
pending, and which agenda entry goes next (spec 03 R60, R62; 08 R167 to R169; 11 R229; 14 R295). -/

namespace Sys2Proof.Machine

/-! ### Fetch (R62, R77, R229) -/

/-- The instruction word in a 64-byte line at an address. -/
def lineWord (l : VWord) (a : Nat) : BitVec 32 := l.extractLsb' (8 * (a % 64)) 32

/-- The word at a channel core's pc comes from its fetch buffer; a miss parks the slot until the line arrives (R229).
Only translated pages hold its instructions. -/
def State.fetchChan (s : State) : Except State (BitVec 32 × State) :=
  let sl := s.me
  let chan := s.core - chanCore0
  let line := sl.pc.toNat / 64
  if inWindows sl.pc then .error (s.trap (Trap.sync 1 sl.pc (detail 9 0)))
  else match (s.chan chan).fbuf.find? fun e => e.1 == sl.asid && e.2.1 == line with
    | some e => .ok (lineWord e.2.2 sl.pc.toNat, s)
    | none =>
      let e : Event := .fetchLineArrival chan sl.asid.toNat line
      let s := s.upd (·.parkOn .fetch)
      .error (if s.agenda.contains e then s else s.post e)

/-- The word at a core's pc in memory. A poisoned word is consumed as the poison policy says (R277, R280; log entry
30). -/
def State.fetchMem (s : State) (pa : Nat) : Except State (BitVec 32 × State) :=
  if s.bad (pa / 8) then
    match s.consume s.sid s.me.pc with
    | .abort s => .error s
    | .held v s => .ok (v.extractLsb' 0 32, s)
    | .trap t => .error (s.trap t)
    | .zero s => .ok (0, s)
  else .ok (BitVec.ofNat 32 (s.rd pa 4), s)

/-- The instruction word at pc of the slot whose turn it is, or the state in which the turn ends without one: cause 0
for a misaligned pc, cause 1 for a fetch fault (R79, R142). -/
def State.fetch (s : State) : Except State (BitVec 32 × State) :=
  let sl := s.me
  if sl.pc.toNat % 4 ≠ 0 then .error (s.trap (Trap.sync 0 sl.pc))
  else match s.locate s.sid sl.pc 4 .fetch with
    | .error t => .error (s.trap t)
    | .ok h => if isChan s.core then h.st.fetchChan else h.st.fetchMem h.pa

/-! ### Pending registers (R295, R423) -/

/-- Registers that a packet carries beside those named (R35). -/
def packetRegs : List Nat := [5, 6, 10, 11, 12, 13, 14, 15, 16, 17]

/-- The registers that an instruction names as operands, x registers as 0 to 31 and v registers as 32 to 47, but for
the destinations of RLD and RLDV, which have a park of their own (R423). -/
def regsOf (i : Instr) : List Nat :=
  match i with
  | .add rd rs1 rs2 | .sub rd rs1 rs2 | .sll rd rs1 rs2 | .slt rd rs1 rs2 | .sltu rd rs1 rs2 | .xor rd rs1 rs2
    | .srl rd rs1 rs2 | .sra rd rs1 rs2 | .or rd rs1 rs2 | .and rd rs1 rs2 | .addw rd rs1 rs2 | .subw rd rs1 rs2
    | .sllw rd rs1 rs2 | .srlw rd rs1 rs2 | .sraw rd rs1 rs2 | .mul rd rs1 rs2 | .mulh rd rs1 rs2
    | .mulhsu rd rs1 rs2 | .mulhu rd rs1 rs2 | .div rd rs1 rs2 | .divu rd rs1 rs2 | .rem rd rs1 rs2
    | .remu rd rs1 rs2 | .mulw rd rs1 rs2 | .divw rd rs1 rs2 | .divuw rd rs1 rs2 | .remw rd rs1 rs2
    | .remuw rd rs1 rs2 =>
      [rd.toNat, rs1.toNat, rs2.toNat]
  | .addi rd rs1 _ | .slti rd rs1 _ | .sltiu rd rs1 _ | .xori rd rs1 _ | .ori rd rs1 _ | .andi rd rs1 _
    | .slli rd rs1 _ | .srli rd rs1 _ | .srai rd rs1 _ | .addiw rd rs1 _ | .slliw rd rs1 _ | .srliw rd rs1 _
    | .sraiw rd rs1 _ | .lb rd rs1 _ | .lh rd rs1 _ | .lw rd rs1 _ | .ld rd rs1 _ | .lbu rd rs1 _
    | .lhu rd rs1 _ | .lwu rd rs1 _ | .jalr rd rs1 _ =>
      [rd.toNat, rs1.toNat]
  | .sb rs2 rs1 _ | .sh rs2 rs1 _ | .sw rs2 rs1 _ | .sd rs2 rs1 _ =>
      [rs2.toNat, rs1.toNat]
  | .beq rs1 rs2 _ | .bne rs1 rs2 _ | .blt rs1 rs2 _ | .bge rs1 rs2 _ | .bltu rs1 rs2 _ | .bgeu rs1 rs2 _ =>
      [rs1.toNat, rs2.toNat]
  | .lui rd _ | .auipc rd _ | .jal rd _ | .qrd rd _ | .qtst rd _ | .barq rd _ | .pcnt rd _ | .pfirst rd _
    | .bsget rd _ | .bspeek rd _ =>
      [rd.toNat]
  | .csrrw rd _ rs1 | .csrrs rd _ rs1 | .csrrc rd _ rs1 =>
      [rd.toNat, rs1.toNat]
  | .csrrwi rd _ _ | .csrrsi rd _ _ | .csrrci rd _ _ =>
      [rd.toNat]
  | .ldfk rd rs1 | .ldfe rd rs1 | .feget rd rs1 | .qwait rd rs1 =>
      [rd.toNat, rs1.toNat]
  | .stef rs2 rs1 | .stfl rs2 rs1 | .feput rs2 rs1 | .rst rs2 rs1 | .mcst rs2 rs1 =>
      [rs2.toNat, rs1.toNat]
  | .rld _ rs1 | .rldv _ rs1 | .bcarm _ rs1 | .barinit _ rs1 =>
      [rs1.toNat]
  | .rstv vs2 rs1 | .mcstv vs2 rs1 | .vst vs2 rs1 =>
      [rs1.toNat, 32 + vs2.toNat]
  | .amadd rd rs2 rs1 _ _ _ | .amand rd rs2 rs1 _ _ _ | .amor rd rs2 rs1 _ _ _ | .amxor rd rs2 rs1 _ _ _
    | .ammax rd rs2 rs1 _ _ _ | .ammin rd rs2 rs1 _ _ _ | .amswap rd rs2 rs1 _ _ _ | .amcas rd rs2 rs1 _ _ _
    | .amfadd rd rs2 rs1 _ _ _ | .amfmax rd rs2 rs1 _ _ _ =>
      [rd.toNat, rs2.toNat, rs1.toNat]
  | .cpy _ _ rs1 rs2 rs3 | .cpy2d _ _ rs1 rs2 rs3 | .cpyg _ _ rs1 rs2 rs3 | .cpys _ _ rs1 rs2 rs3 =>
      [rs1.toNat, rs2.toNat, rs3.toNat]
  | .cseal rd | .cdstat rd =>
      [rd.toNat]
  | .pgzero rs1 | .park rs1 | .cdopen rs1 | .eres rs1 | .teamstop rs1 | .teamgo rs1 | .ptparm rs1 | .bsskip rs1 =>
      [rs1.toNat]
  | .pgcopy rs1 rs2 | .cdpresCopy rs1 rs2 | .cdpresRef rs1 rs2 | .efence rs1 rs2 | .msend rs1 rs2
    | .ksfbind rs1 rs2 | .tlbinv rs1 rs2 | .ctxst rs1 rs2 | .ctxld rs1 rs2 | .scrub rs1 rs2 | .ksfload rs1 rs2 =>
      [rs1.toNat, rs2.toNat]
  | .migr rs1 =>
      packetRegs ++ [rs1.toNat]
  | .home =>
      packetRegs
  | .spawn rs1 rs2 | .deleg rs1 rs2 =>
      packetRegs ++ [rs1.toNat, rs2.toNat]
  | .delegReply rs1 rs2 _ =>
      packetRegs ++ [rs1.toNat, rs2.toNat]
  | .loop rs1 _ | .bsput rs1 _ =>
      [rs1.toNat]
  | .qwr _ rs2 | .qbind _ rs2 =>
      [rs2.toNat]
  | .qrdv vd _ =>
      [32 + vd.toNat]
  | .qwrv _ vs2 | .enq _ vs2 =>
      [32 + vs2.toNat]
  | .msendv rs1 vs2 =>
      [rs1.toNat, 32 + vs2.toNat]
  | .vadd _ _ vd vs1 vs2 | .vsub _ _ vd vs1 vs2 | .vmul _ _ vd vs1 vs2 | .vfma _ _ vd vs1 vs2
    | .vfms _ _ vd vs1 vs2 | .vmax _ _ vd vs1 vs2 | .vmin _ _ vd vs1 vs2 | .viadd _ _ vd vs1 vs2
    | .visub _ _ vd vs1 vs2 | .vimul _ _ vd vs1 vs2 | .vand _ _ vd vs1 vs2 | .vor _ _ vd vs1 vs2
    | .vxor _ _ vd vs1 vs2 | .vshl _ _ vd vs1 vs2 | .vshr _ _ vd vs1 vs2 | .vsra _ _ vd vs1 vs2
    | .vimax _ _ vd vs1 vs2 | .vimin _ _ vd vs1 vs2 =>
      [32 + vd.toNat, 32 + vs1.toNat, 32 + vs2.toNat]
  | .vabs _ _ vd vs1 | .vneg _ _ vd vs1 | .vrcpe _ _ vd vs1 | .vrsqe _ _ vd vs1 | .vexp2e _ _ vd vs1
    | .vreds _ _ vd vs1 | .vredm _ _ vd vs1 =>
      [32 + vd.toNat, 32 + vs1.toNat]
  | .vcmpEq _ _ _ vs1 vs2 | .vcmpLt _ _ _ vs1 vs2 | .vcmpLe _ _ _ vs1 vs2 | .vcmpNe _ _ _ vs1 vs2
    | .vicmpEq _ _ _ vs1 vs2 | .vicmpLt _ _ _ vs1 vs2 | .vicmpLe _ _ _ vs1 vs2 | .vicmpNe _ _ _ vs1 vs2 =>
      [32 + vs1.toNat, 32 + vs2.toNat]
  | .vcvt _ _ _ vd vs1 =>
      [32 + vd.toNat, 32 + vs1.toNat]
  | .vcmul _ vd vs1 vs2 =>
      [32 + vd.toNat, 32 + vs1.toNat, 32 + vs2.toNat]
  | .vld vd rs1 =>
      [rs1.toNat, 32 + vd.toNat]
  | .vlds _ vd rs1 rs2 | .vins _ vd rs1 rs2 =>
      [rs1.toNat, rs2.toNat, 32 + vd.toNat]
  | .vsts _ vs rs1 rs2 =>
      [rs1.toNat, rs2.toNat, 32 + vs.toNat]
  | .vgath _ vd rs1 vi =>
      [rs1.toNat, 32 + vd.toNat, 32 + vi.toNat]
  | .vscat _ vs rs1 vi =>
      [rs1.toNat, 32 + vs.toNat, 32 + vi.toNat]
  | .vbcst _ vd rs1 | .viota _ vd rs1 =>
      [rs1.toNat, 32 + vd.toNat]
  | .vmvx _ rd vs1 rs2 =>
      [rd.toNat, rs2.toNat, 32 + vs1.toNat]
  | .vshuf vd vs1 vs2 =>
      [32 + vd.toNat, 32 + vs1.toNat, 32 + vs2.toNat]
  | .vsel _ vd vs1 vs2 _ =>
      [32 + vd.toNat, 32 + vs1.toNat, 32 + vs2.toNat]
  | _ => []

/-- The registers that ENQ substitutes into a tile command word (R94, R95). -/
def Slot.tileRegs (sl : Slot) (i : Instr) : List Nat :=
  match i with
  | .enq _ vs2 =>
    let h := tileHdr ((sl.rv vs2).extractLsb' 0 256)
    [h.s1.toNat, h.s2.toNat, h.s3.toNat]
  | _ => []

/-- The registers that CDOPEN reads into its snapshot, and a0, which it writes (R272). -/
def Slot.snapRegs (sl : Slot) (i : Instr) : List Nat :=
  match i with
  | .cdopen rs1 =>
    let m := snapMask ((sl.rx rs1).extractLsb' 0 16)
    10 :: maskX m ++ (maskV m).map (32 + ·)
  | _ => []

/-- The slot waits for a reply to a register that the instruction names (R295); x0 is never pending (R423). -/
def Slot.waitsFor (sl : Slot) (i : Instr) : Bool :=
  !sl.pending.isEmpty && (regsOf i ++ sl.tileRegs i ++ sl.snapRegs i).any fun r => r != 0 && sl.pending.any fun p => p.dest == r

/-- The slot may access a CSR, and write it where the instruction writes (R56). -/
def Slot.csrAllowed (sl : Slot) (n : Nat) (writes : Bool) : Bool :=
  !(writes && csrReadOnly n) && (match csrLevel n with | some l => levelAllows sl.level l | none => false)

/-- The instruction is not one that the slot may execute: cause 2 comes with its decoding, before any of its parks (R54, R79). -/
def Slot.notAllowed (sl : Slot) (i : Instr) : Bool :=
  match i with
  | .kret | .ptparm _ | .teamgo _ | .teamstop _ | .eres _ | .tlbinv _ _ | .ctxst _ _ | .ctxld _ _ | .ksfload _ _ | .scrub _ _ =>
    sl.level == .task
  | .loop _ _ => sl.level != .task
  | .csrrw _ c _ | .csrrwi _ c _ => !sl.csrAllowed c.toNat true
  | .csrrs _ c r | .csrrc _ c r | .csrrsi _ c r | .csrrci _ c r => !sl.csrAllowed c.toNat (r != 0)
  | _ => false

/-- The instructions whose park a fault of the slot's own copies and commands breaks (R346). -/
def breaksPark (i : Instr) : Bool :=
  match i with
  | .cdclose | .cdpresCopy _ _ | .cdpresRef _ _ | .cwait _ | .bcwait _ | .efence _ _ => true
  | _ => false

/-! ### Issue -/

/-- The slot as its instruction issues: the safe-point counter counts the turn, and the safe point before it is left
(R255, R259). A parked instruction evaluated again does not issue anew; one whose line has had to be fetched does. -/
def Slot.issued (sl : Slot) : Slot :=
  if sl.status = .ready ∨ sl.status = .parked .fetch then { sl with spCount := sl.spCount + 1, safeAt := none } else sl

/-! ### Which entry goes next (R153, R167 to R169) -/

/-- The k-th agenda entry, when nothing holds it back, and the agenda without it. -/
def State.pick (s : State) (done : List Event) : List Event → Nat → Option (Event × List Event)
  | [], _ => none
  | e :: r, 0 => if s.holdsBack e || done.any (s.mustFollow · e) then none else some (e, done ++ r)
  | e :: r, k + 1 => State.pick s (done ++ [e]) r k

/-- The first agenda entry that may go, and the agenda without it. -/
def State.pickFirst (s : State) (done : List Event) : List Event → Option (Event × List Event)
  | [] => none
  | e :: r =>
    if s.holdsBack e || done.any (s.mustFollow · e) then State.pickFirst s (done ++ [e]) r else some (e, done ++ r)

end Sys2Proof.Machine
end

