-- ==== Sys2Proof/Machine/Turn.lean ====
section
/-! DEFINITION. A slot's turn: timers, arriving traps, interrupts at safe points, cause 17, the instruction at pc; the
rotation of turns; what an agenda entry does (spec 02 R32, R33, R40, R47; 12 R251, R254 to R259). -/

namespace Sys2Proof.Machine

/-- What an agenda entry does: the meaning of its constructor of Instr. -/
def runEvent (e : Event) (s : State) : Outcome :=
  match e with
  | .interruptEntry sid => execInterruptEntry sid s
  | .safePointOverdue sid => execSafePointOverdue sid s
  | .sliceInstant sid => execSliceInstant sid s
  | .kernelTimer sid => execKernelTimer sid s
  | .parkExpiry sid => execParkExpiry sid s
  | .followTimeout sid => execFollowTimeout sid s
  | .dispatchPlace lid choice => execDispatchPlace lid choice s
  | .teamStart tid => execTeamStart tid s
  | .dependenceReject lid => execDependenceReject lid s
  | .travellerArrival p owner sid tries crc => execTravellerArrival p owner sid tries crc s
  | .travellerRetry p owner sid tries due => execTravellerRetry p owner sid tries due s
  | .runQueueRelease core => execRunQueueRelease core s
  | .homePacketArrival f => execHomePacketArrival f s
  | .remoteUpdate p owner => execRemoteUpdate p owner s
  | .spawnExitReport tid logical flags => execSpawnExitReport tid logical flags s
  | .storeAtOwner r => execStoreAtOwner r s
  | .loadAtOwner r => execLoadAtOwner r s
  | .atomicAtOwner r => execAtomicAtOwner r s
  | .atomicReply r old flags => execAtomicReply r old flags s
  | .presenceRequest r => execPresenceRequest r s
  | .presenceRetry r due => execPresenceRetry r due s
  | .pageTableWalk sid va dir => execPageTableWalk sid va dir s
  | .vaultCacheFill cluster line => execVaultCacheFill cluster line s
  | .fetchLineArrival chan asid line => execFetchLineArrival chan asid line s
  | .copyBurstDeliver core ch => execCopyBurstDeliver core ch s
  | .streamReadAhead sid q => execStreamReadAhead sid q s
  | .streamElementWrite sid q => execStreamElementWrite sid q s
  | .ksfImageFetch chan tid slot => execKsfImageFetch chan tid slot s
  | .ksfStreamUnit core ch => execKsfStreamUnit core ch s
  | .messageArrival tid core hole d => execMessageArrival tid core hole d s
  | .barrierRootReport tid gen cluster b leaf => execBarrierRootReport tid gen cluster b leaf s
  | .barrierPhaseFlip tid gen cluster b => execBarrierPhaseFlip tid gen cluster b s
  | .doneMessage tid logical w => execDoneMessage tid logical w s
  | .tileCommandStart cluster eng => execTileCommandStart cluster eng s
  | .tileCommandComplete cluster eng ticket => execTileCommandComplete cluster eng ticket s
  | .domainAbort sid depth reason => execDomainAbort sid depth reason s
  | .domainRestore sid => execDomainRestore sid s
  | .remoteAccessArrival r => execRemoteAccessArrival r s
  | .remoteReplyArrival r value poisoned => execRemoteReplyArrival r value poisoned s
  | .remoteRejectReport r => execRemoteRejectReport r s
  | .multicastMemberReport sid member ok => execMulticastMemberReport sid member ok s
  | .packetRoute h level again e => execPacketRoute h level again e s
  | .flitArrival link f => execFlitArrival link f s
  | .flitRetryRequest link lseq => execFlitRetryRequest link lseq s
  | .flitAcknowledge link a => execFlitAcknowledge link a s
  | .rekeyThreshold r => execRekeyThreshold r s
  | .keyInstall link k => execKeyInstall link k s
  | .doorWrite d => execDoorWrite d s
  | .h2dAccept m => execH2dAccept m s
  | .prodWrite v => execProdWrite v s
  | .d2hSend => execD2hSend s
  | .seenWrite v restart => execSeenWrite v restart s
  | .moduleReset => execModuleReset s
  | .stewardDieTest pass => execStewardDieTest pass s
  | .bootVerify cfg => execBootVerify cfg s
  | .kernelLaunch record => execKernelLaunch record s
  | .attestationRequest nonce dst => execAttestationRequest nonce dst s
  | .stewardNotice n => execStewardNotice n s
  | .dieMapChange die phase pkg pdie => execDieMapChange die phase pkg pdie s
  | .hubFailover => execHubFailover s
  | .thermalAlarm scope unit temp => execThermalAlarm scope unit temp s
  | .thermalShutdown temp => execThermalShutdown temp s
  | .thermalClear stack temp => execThermalClear stack temp s
  | .halfWidthChange chan => execHalfWidthChange chan s
  | .fullWidthReturn chan => execFullWidthReturn chan s
  | .laneFault link unit => execLaneFault link unit s
  | .powerBudgetExceeded => execPowerBudgetExceeded s
  | .ptpOffsetExceeded hub offset => execPtpOffsetExceeded hub offset s
  | .rowPrecharge chan row parityOk => execRowPrecharge chan row parityOk s
  | .neighbourRefresh chan row => execNeighbourRefresh chan row s
  | .pageRowStep sid dst src rl k => execPageRowStep sid dst src rl k s
  | .scrubLineStep sid va left => execScrubLineStep sid va left s
  | .backgroundScrub pa finder => execBackgroundScrub pa finder s
  | .uncorrectableError pa => execUncorrectableError pa s
  | .unitFailure cls unit => execUnitFailure cls unit s
  | .diagnosisVote a b peer cls unit => execDiagnosisVote a b peer cls unit s
  | .replacement tid logical phys readable => execReplacement tid logical phys readable s
  | .stateLossSequence tid => execStateLossSequence tid s
  | .packageLoss pkg tid => execPackageLoss pkg tid s
  | .remapStart version => execRemapStart version s
  | .remapPageMove page => execRemapPageMove page s
  | .remapEnd => execRemapEnd s
  | .checkpointUnitCopy tid unit => execCheckpointUnitCopy tid unit s
  | .checkpointCommit tid reason => execCheckpointCommit tid reason s
  | .travellerSave tid sid => execTravellerSave tid sid s
  | .porterQuiesce tid core => execPorterQuiesce tid core s
  | .arrayQuiesce tid cluster => execArrayQuiesce tid cluster s
  | .saveComplete tid => execSaveComplete tid s
  | .teamResume lid choice => execTeamResume lid choice s
  | .ptpOffsetRecovered o => execPtpOffsetRecovered o s
  | .powerDrawWithinBudget => execPowerDrawWithinBudget s
  | .laneFaultCleared chan => execLaneFaultCleared chan s
  | .remoteStoreAcknowledge r => execRemoteStoreAcknowledge r s
  | .clusterScrubComplete cluster => execClusterScrubComplete cluster s

/-! ### The rotation (R32) -/

/-- Cores with a slot that runs or waits, in rising order. -/
def State.activeCores (s : State) : List Nat :=
  let on := s.slots.filter fun e => e.2.status != .idle && e.2.status != .exited
  match on.foldl (fun l e => mark l (coreOf e.1) true) [] with
  | [] => [0]
  | l => l

/-- The turn passes to the next core, and after the last one to the next cycle (R32). -/
def State.nextTurn (s : State) : State :=
  if s.phase + 1 < s.cores.length then { s with phase := s.phase + 1 }
  else { s with cycle := s.cycle + 1, phase := 0, cores := s.activeCores }

/-- The turn passes on after an outcome that has a next state. -/
def passTurn (o : Outcome) : Outcome :=
  match o with
  | .next s => .next s.nextTurn
  | .fault f => .fault f
  | .refused r => .refused r

/-! ### Traps and interrupts before the instruction -/

/-- Instants of the slot that are reached (R254). -/
def State.timers (s : State) (sid : Nat) : State :=
  let fire := fun (kind : Nat) (at' : Option Nat) (sl : Slot) => match at' with
    | some t => if t ≤ s.ptp then sl.instant kind t else sl
    | none => sl
  let sl := s.slot sid
  if sl.sliceAt.isSome || sl.timerAt.isSome then
    s.modSlot sid fun sl => fire 2 sl.timerAt (fire 1 sl.sliceAt sl)
  else s

/-- The slot issues nothing: a domain of it aborts (R278), or its team is stopped at once (R263). -/
def State.blocked (s : State) (sid : Nat) : Bool :=
  let sl := s.slot sid
  abortDepth sl.doms s.cycle != 0
    || (match s.teamOf sl with | some t => t.stop == some 2 | none => false)

/-- The first trap that waits for the slot is taken, by a waiting slot when it wakes; a park that it breaks is withdrawn
(R346). -/
def State.takeDue (s : State) (sid : Nat) (t : Trap) (l : List Trap) : State :=
  (s.withdraw sid).modSlot sid fun sl => { sl with due := l }.enter t

/-! ### The turn -/

/-- The instruction at pc is fetched, decoded and executed; a word that does not decode, or that the slot's level does not
allow, takes cause 2 (R54, R78, R79), and one that names a pending register parks (R295). -/
def State.issue (s : State) : Outcome :=
  match s.fetch with
  | .error s => .next s
  | .ok (w, s) =>
    match decodeWord w with
    | .error _ => .next (s.trap (Trap.sync 2 (w.zeroExtend 64)))
    | .ok i =>
      let s := s.upd (·.issued)
      if s.me.notAllowed i then s.finish (illegalI i)
      else if s.me.waitsFor i then .next (s.upd (·.parkRetry true))
      else exec i s

/-- A ready slot issues, and the slots that follow it see what (R40). -/
def State.issueReady (s : State) (sid : Nat) : Outcome :=
  match s.issue with
  | .next s' => .next (s'.followed sid (s.slot sid).pc)
  | o => o

/-- The instruction that a slot waits in is one whose park a fault of its own work breaks (R346). -/
def State.parkBreaks (s : State) : Bool :=
  match s.fetch with
  | .ok (w, _) => (match decodeWord w with | .ok i => breaksPark i | .error _ => false)
  | .error _ => false

/-- An interrupt that the slot can take where it stands (R255). -/
def State.irqNow (s : State) (sid : Nat) : Option Trap :=
  if (s.slot sid).atSafePoint then s.irqFor sid else none

/-- After a parked instruction was evaluated again: if it is still parked, a pending interrupt abandons it (R255,
R256). -/
def State.afterRetry (s : State) (sid : Nat) : State :=
  if (s.slot sid).status.safePark then
    match s.irqFor sid with
    | some t => s.interrupt sid t
    | none => s
  else s

/-- A waiting slot takes a pending interrupt if its park is a safe point. -/
def State.waitTurn (s : State) (sid : Nat) : State :=
  match s.irqNow sid with
  | some t => s.interrupt sid t
  | none => s

/-- What the turn of the slot that owns it does (R33, R47, R255). -/
def State.turnOf (s : State) : Outcome :=
  let sid := s.sid
  let s := s.timers sid
  let sl := s.slot sid
  if s.blocked sid then .next s
  else match sl.status with
    | .idle | .exited => .next s
    | .away => .next (s.waitTurn sid)
    | .parked .reply | .parked .moving => .next s
    | .parked .atom | .parked .pres | .parked .step => .next (s.waitTurn sid)
    | .parked (.until c) => .next (if c ≤ s.cycle then s.modSlot sid (·.retire) else s.waitTurn sid)
    | .parked .acq => .next (if sl.unacquired then s else s.modSlot sid (·.retire))
    | .parked .fetch => s.issue
    | .parked (.retry _) =>
      let again := match s.issue with
        | .next s => .next (s.afterRetry sid)
        | o => o
      match sl.due with
      | t :: l => if s.parkBreaks then .next (s.takeDue sid t l) else again
      | [] => again
    | .ready =>
      match sl.due with
      | t :: l => .next (s.takeDue sid t l)
      | [] =>
        match s.irqNow sid with
        | some t => .next (s.interrupt sid t)
        | none =>
          if sl.overdue then .next (s.modSlot sid (·.enter (Trap.sync 17 (BitVec.ofNat 64 sl.spCount))))
          else match s.followTurn sid with
            | (s, true) => s.issueReady sid
            | (s, false) => .next s

/-- A turn: what it does, and the turn passes on. -/
def State.turn (s : State) : Outcome := passTurn s.turnOf

/-! ### Who acts next -/

/-- A packet whose lookup leads elsewhere than to its die in this package is in the hands of its router: dropped, or sent on to
the package that serves the die (R12, R20). It enters on an adaptive channel, which of the four is open (R288; log entry 5). -/
def State.deflect (s : State) (e : Event) : Outcome :=
  let (v, s) := s.fresh
  execPacketRoute { reply := false, vc := v.toNat % 4, up := 0 } 0 false e s

/-- The entry picked from the agenda acts; none picked, nothing happens. -/
def State.runPicked (s : State) (e : Option (Event × List Event)) : Outcome :=
  match e with
  | some (e, r) =>
    let s := { s with agenda := r }
    if s.route e == .deliver then runEvent e s else s.deflect e
  | none => .next s

/-- The actor that the plan names, 0 the slot in turn and k + 1 the k-th agenda entry; with no plan the slot in turn and
the first entry that may go alternate (log entry 1). -/
def State.act (s : State) : Outcome :=
  match s.plan with
  | 0 :: p => State.turn { s with plan := p }
  | (k + 1) :: p => State.runPicked { s with plan := p } (s.pick [] s.agenda k)
  | [] =>
    if s.beat then
      match s.pickFirst [] s.agenda with
      | some e => State.runPicked { s with beat := false } (some e)
      | none => s.turn
    else State.turn { s with beat := true }

/-! ### An instruction placed for the next step -/

/-- The slot in turn made to run an instruction at its pc in its local store next (log entry 31). -/
def State.placeWord (s : State) (w : BitVec 32) : State :=
  let sid := s.sid
  let core := coreOf sid
  let s := s.modSlot sid fun sl =>
    { sl with status := .ready, due := [], doms := [],
              pc := if lsBase.toNat ≤ sl.pc.toNat ∧ sl.pc.toNat + 4 ≤ lsBase.toNat + 0x20000 ∧ sl.pc.toNat % 4 = 0
                then sl.pc else lsBase }
  let off := (s.slot sid).pc.toNat - lsBase.toNat
  let pa := lsPa core + off
  { (s.wr pa 4 w.toNat).setBad (pa / 8) false with plan := 0 :: s.plan, booted := true }

/-- A tile command word placed: the instruction is an ENQ of queue register 0 with the command in v0, its engine bound
and its lease held. -/
def State.placeTile (s : State) (w : BitVec 256) : State :=
  let s := s.placeWord ((encode (.enq 0 0)).getD 0)
  let eng := (tileEngine (tileOpc w)).getD 0
  let s := s.upd fun sl => { sl.wv 0 (w.zeroExtend 512) with qbind := sl.qbind.set 0 (BitVec.ofNat 64 (2 + 16 * eng)) }
  if eng = 0 then s.modCluster s.cluster fun k => { k with holder := some s.sid } else s

end Sys2Proof.Machine
end

