-- ==== Sys2Proof/Machine/Step.lean ====
section
/-! DEFINITION. One step of the package: a slot's turn or an agenda entry. -/

namespace Sys2Proof.Machine

/-- One step. Once the package is stopped (R19) only a module reset that waits in the agenda runs. -/
def step (s : State) : Host.Outcome State Fault Refusal :=
  if s.stopped then
    if s.agenda.contains .moduleReset then runEvent .moduleReset s else .fault .moduleStopped
  else s.act

/-- The state with an instruction placed where the next step fetches it (log entry 31). -/
def State.withFetchWord (s : State) (nbits w : Nat) : State :=
  if nbits ≤ 32 then s.placeWord (BitVec.ofNat 32 w) else s.placeTile (BitVec.ofNat 256 w)

end Sys2Proof.Machine
end

