-- ==== Sys2Proof/Safety.lean ====
section
/-! DEFINITION. What a safe state and a safe run are, in the terms that claims use. -/

namespace Sys2Proof.Machine

/-- A list of word numbers rises strictly from a bound on. -/
def risesFrom : Nat → List Nat → Bool
  | _, [] => true
  | lo, a :: r => decide (lo ≤ a) && risesFrom (a + 1) r

/-- The presence, poison and parity marks, the lost words and the correctable flips are lists without repeats, in rising
order. -/
def State.marksOk (s : State) : Bool :=
  risesFrom 0 s.empty && risesFrom 0 s.poison && risesFrom 0 s.lost && risesFrom 0 s.flips && risesFrom 0 s.badPar

/-- Memory and its marks are in canonical form, so that equal memories are equal data. -/
def State.canonical (s : State) : Bool := Memory.wf s.mem && s.marksOk

/-- A step that ends in a next state: no fault and no refusal. -/
def Steps (s s' : State) : Prop := step s = .next s'

/-- n steps that end in a next state. -/
inductive Runs : Nat → State → State → Prop where
  | zero (s : State) : Runs 0 s s
  | succ {n : Nat} {s t u : State} : Steps s t → Runs n t u → Runs (n + 1) s u

/-! ### What an instruction does to its slot, and what it leaves alone -/

/-- Everything but slot k is as it was: every other slot, every core, cluster, channel, team, all of memory with its
marks, the agenda, the counters. -/
def OnlySlot (s t : State) (k : Nat) : Prop :=
  { t with slots := s.slots } = s ∧ ∀ j, j ≠ k → t.slot j = s.slot j

/-- i answers a next state in which only slot k has changed, into `sl`. -/
def SlotDoes (i : Instr) (s : State) (k : Nat) (sl : Slot) : Prop :=
  ∃ t, exec i s = .next t ∧ OnlySlot s t k ∧ t.slot k = sl

/-- i answers a next state in which only the slot whose turn it is has changed, into `sl`. -/
def Does (i : Instr) (s : State) (sl : Slot) : Prop := SlotDoes i s s.sid sl

/-- i takes a trap: only the slot whose turn it is changes, as the entry to the trap says. -/
def Traps (i : Instr) (s : State) (t : Trap) : Prop := Does i s (s.me.enter t)

/-- i parks the slot whose turn it is and has no other effect; `safe` says whether the park is a safe point. -/
def Parks (i : Instr) (s : State) (safe : Bool) : Prop := Does i s (s.me.parkRetry safe)

/-- The destination of the instructions whose one result is an x register. -/
def xOnly : Instr → Option XReg
  | .add rd _ _ | .sub rd _ _ | .sll rd _ _ | .slt rd _ _ | .sltu rd _ _ | .xor rd _ _ | .srl rd _ _ | .sra rd _ _
  | .or rd _ _ | .and rd _ _ | .addw rd _ _ | .subw rd _ _ | .sllw rd _ _ | .srlw rd _ _ | .sraw rd _ _ | .mul rd _ _
  | .mulh rd _ _ | .mulhsu rd _ _ | .mulhu rd _ _ | .div rd _ _ | .divu rd _ _ | .rem rd _ _ | .remu rd _ _
  | .mulw rd _ _ | .divw rd _ _ | .divuw rd _ _ | .remw rd _ _ | .remuw rd _ _ | .addi rd _ _ | .slti rd _ _
  | .sltiu rd _ _ | .xori rd _ _ | .ori rd _ _ | .andi rd _ _ | .slli rd _ _ | .srli rd _ _ | .srai rd _ _
  | .addiw rd _ _ | .slliw rd _ _ | .srliw rd _ _ | .sraiw rd _ _ | .lui rd _ | .auipc rd _ | .vmvx _ rd _ _
  | .pcnt rd _ | .pfirst rd _ | .cdstat rd => some rd
  | _ => none

/-- Lanes of width w of vd take the values f gives where the governing predicate is set, the others stay; the flags of
the enabled lanes are ORed into fflags; nothing else of the machine changes but the slot's pc and what retiring sets. -/
def VecDoes (i : Instr) (s : State) (pred : PReg) (w : Nat) (vd : VReg) (f : Nat → Nat × BitVec 6) : Prop :=
  ∃ t, exec i s = .next t ∧ OnlySlot s t s.sid
    ∧ (∀ k, k < 512 / w → lane ((t.slot s.sid).rv vd) w k =
        if laneOn (s.me.gov pred) w k then (f k).1 % 2 ^ w else lane (s.me.rv vd) w k)
    ∧ (∀ b, b < 6 → ((t.slot s.sid).fflags.getLsbD b = true ↔
        s.me.fflags.getLsbD b = true ∨ ∃ k, k < 512 / w ∧ laneOn (s.me.gov pred) w k = true ∧ (f k).2.getLsbD b = true))
    ∧ (∀ r, r ≠ vd → (t.slot s.sid).rv r = s.me.rv r)
    ∧ { t.slot s.sid with v := s.me.v, fflags := s.me.fflags } = s.me.retire

/-- Bits of pd take the results r gives where the governing predicate is set: lane k for 32- and 16-bit lanes, lanes 2k
and 2k + 1 together for 8-bit lanes; bits without a lane are zero; the others stay (R457). -/
def CmpDoes (i : Instr) (s : State) (pred : PReg) (w : Nat) (pd : PReg) (r : Nat → Bool) (f : Nat → BitVec 6) : Prop :=
  ∃ t, exec i s = .next t ∧ OnlySlot s t s.sid
    ∧ (∀ k, k < 32 → ((t.slot s.sid).rp pd).getLsbD k =
        if w = 32 ∧ 16 ≤ k then false
        else if (s.me.gov pred).getLsbD k then (if w = 8 then r (2 * k) && r (2 * k + 1) else r k)
        else (s.me.rp pd).getLsbD k)
    ∧ (∀ b, b < 6 → ((t.slot s.sid).fflags.getLsbD b = true ↔
        s.me.fflags.getLsbD b = true ∨ ∃ k, k < 512 / w ∧ laneOn (s.me.gov pred) w k = true ∧ (f k).getLsbD b = true))
    ∧ (∀ q, q ≠ pd → (t.slot s.sid).rp q = s.me.rp q)
    ∧ { t.slot s.sid with p := s.me.p, fflags := s.me.fflags } = s.me.retire

/-- A load whose word is in the own storage: aligned, local, translated, not poisoned, no write of the core to it on its way. It
is complete within the turn,
with the value read, and changes nothing but the slot, beside the bits that translation and correction set. -/
def OwnLoad (i : Instr) (s : State) (a : Word) (n : Nat) (f : Slot → Nat → Slot) : Prop :=
  ∀ h, a.toNat % n = 0 → isRemote a = false → s.locate s.sid a n .load = .ok h → isOwn s.sid h.pa = true →
    h.st.badAt h.pa n = false → s.inFlight s.core h.pa n false = false →
    exec i s = .next ((h.st.correctAt s.sid h.pa n).modSlot s.sid fun sl => (f sl (h.st.rd h.pa n)).retire)

/-- A load of another word parks its slot and sends the request to the word's owner: to another core's local store as an active
message for its innkeeper (R125). -/
def FarLoad (i : Instr) (s : State) (a : Word) (n : Nat) (dst : LoadDst) : Prop :=
  ∀ h, a.toNat % n = 0 → isRemote a = false → s.locate s.sid a n .load = .ok h → isOwn s.sid h.pa = false →
    let r : LoadReq := { sid := s.sid, els := [(h.pa, a)], size := n, dst := dst, got := 0, n := 0 }
    let p := (h.st.vcLoad s.sid h).activePacket s.sid a (.load r)
    ∃ t, exec i s = .next t ∧ (t.slot s.sid).status = .parked .reply
      ∧ (innkeeperOf s.sid h.pa = none → Event.loadAtOwner r ∈ t.agenda)
      ∧ (∀ c, innkeeperOf s.sid h.pa = some c → Event.travellerArrival p c s.sid 0 p.crc ∈ t.agenda)
      ∧ t.mem = h.st.mem ∧ (∀ k, k ≠ s.sid → t.slot k = h.st.slot k)
      ∧ (t.slot s.sid).x = (h.st.slot s.sid).x ∧ (t.slot s.sid).v = (h.st.slot s.sid).v
      ∧ (t.slot s.sid).pc = (h.st.slot s.sid).pc

/-- A store to the own storage: aligned, local, translated, not protected, its word not poisoned, no access of the core to it on
its way. It is performed within
the turn: the n bytes at the address that translation gives hold the data, every other byte of memory is as it was, and
the slot retires. -/
def OwnStore (i : Instr) (s : State) (a : Word) (n : Nat) (v : VWord) : Prop :=
  ∀ h, a.toNat % n = 0 → isRemote a = false → s.locateStore s.sid a n = .ok h → isOwn s.sid h.pa = true →
    h.st.badAt h.pa n = false → h.pa / 64 ≠ h.st.hostPage / 64 → s.inFlight s.core h.pa n true = false →
    ∃ t, exec i s = .next t ∧ (∀ k, k < n → t.byte (h.pa + k) = v.extractLsb' (8 * k) 8)
      ∧ (∀ b, b < h.pa ∨ h.pa + n ≤ b → t.byte b = h.st.byte b)
      ∧ t.slot s.sid = (h.st.slot s.sid).retire ∧ (∀ k, k ≠ s.sid → t.slot k = h.st.slot k)

/-- A store elsewhere is posted to its word's owner and retires; memory is as translation leaves it. To another core's local
store it is an active message (R125). -/
def FarStore (i : Instr) (s : State) (a : Word) (n : Nat) (v : VWord) : Prop :=
  ∀ h, a.toNat % n = 0 → isRemote a = false → s.locateStore s.sid a n = .ok h → isOwn s.sid h.pa = false →
    let r : StoreReq := { sid := s.sid, pa := h.pa, size := n, data := v, va := a }
    exec i s = .next ((match innkeeperOf s.sid h.pa with
      | none => h.st.post (.storeAtOwner r)
      | some c =>
        let p := h.st.activePacket s.sid a (.store r)
        h.st.post (.travellerArrival p c s.sid 0 p.crc)).modSlot s.sid (·.retire))

/-- i sends an event from the state `s'` (the state as the checks of its operands left it) and parks its slot on w. -/
def Sends (i : Instr) (s s' : State) (e : Event) (w : Wait) : Prop :=
  exec i s = .next ((s'.post e).modSlot s.sid (·.parkOn w))

/-- The conditions under which EXIT, HOME, MIGR and a YIELD that gives its slot away find nothing to object to: no lease
held, no open copy, no open domain (R44). -/
def State.mayLeave (s : State) : Prop :=
  (isChan s.core = true ∨ (s.clusterSt s.cluster).holder ≠ some s.sid) ∧ s.me.openCopies = 0 ∧ s.me.cdlvl = 0

/-- A team of the slot that does not trace, and no running checkpoint: a write changes the written bytes alone. -/
def State.plainWrites (s : State) (sid : Nat) : Prop :=
  (∀ t, s.teamOf (s.slot sid) = some t → t.flags.getLsbD 5 = false) ∧ ∀ e, e ∈ s.teams → e.2.ckRun = false

/-- Every byte but the n at an address is the same in two states. -/
def SameBut (s t : State) (pa n : Nat) : Prop := ∀ b, b < pa ∨ pa + n ≤ b → t.byte b = s.byte b

/-- The copy that a copy instruction of the slot whose turn it is forms from its registers: destination, source, and
length or descriptor (R153, R350). -/
def State.formed (s : State) (kind : Nat) (bc : Option (BitVec 3)) (d src v : Word) : Copy :=
  { sid := s.sid, kind := kind, dst := d, src := src, len := v.toNat, rowBytes := v.toNat, sstride := 0, dstride := 0,
    idx := 0, done := 0, bar := bc.map (·.toNat), batch := none, ticket := 0,
    dom := match s.me.doms with | [] => 0 | x :: _ => x.serial, asid := s.me.asid, ptb := s.me.ptbase,
    level := s.me.level, ksf := none, num := 1, den := 1, regs := [], seed := none, flags := 0, susp := none,
    onRead := false, at' := none }

/-- Nothing is preserved by reference in the cluster and no snapshot record is in use. -/
def State.unprotected (s : State) (cluster : Nat) : Prop :=
  (s.clusterSt cluster).refs = [] ∧ ∀ core r, r < 8 → s.recUsed core r = false

/-- A well-formed copy finds nothing to trap or to wait for on a channel without a graph: its spans lie in their
extents, fewer than 64 copies of the slot are open, nothing is protected, channel and tracker have room, the porter
runs (R154, R177, R350, R352). -/
def State.copyFits (s : State) (c : Copy) (ch : BitVec 2) : Prop :=
  isChan s.core = false ∧ c.src.toNat % 8 = 0 ∧ c.dst.toNat % 8 = 0 ∧ c.src.extractLsb' 57 7 = 0
    ∧ c.dst.extractLsb' 57 7 = 0
    ∧ s.firstPast { s.ctx s.sid with thread := false } (s.copySpans c 1 1).1 = none
    ∧ s.firstPast { s.ctx s.sid with thread := false } (s.copySpans c 1 1).2 = none
    ∧ tfind (s.coreSt s.core).cksf ch.toNat = none ∧ s.me.openCopies < 64 ∧ s.unprotected s.cluster
    ∧ ((s.coreSt s.core).chans.toList.getD ch.toNat []).length < 16 ∧ s.trackerFull s.cluster = false
    ∧ (s.coreSt s.core).porterStop = false ∧ s.inStop = false

/-- i accepts copy c on a channel: it is appended there with the tracker's ticket and counted open; memory and the
other slots are as they were. -/
def State.accepts (s : State) (i : Instr) (c : Copy) (ch : BitVec 2) : Prop :=
  ∃ t, exec i s = .next t ∧ t.mem = s.mem ∧ (∀ k, k ≠ s.sid → t.slot k = s.slot k)
    ∧ t.slot s.sid = { s.me with openCopies := s.me.openCopies + 1 }.retire
    ∧ (t.coreSt s.core).chans.toList.getD ch.toNat []
        = (s.coreSt s.core).chans.toList.getD ch.toNat [] ++ [{ c with ticket := (s.clusterSt s.cluster).nextTicket }]

/-- i changes the slot whose turn it is into `sl`, and beside it at most cores, clusters and the agenda. -/
def Turns (i : Instr) (s : State) (sl : Slot) (f : State → Prop) : Prop :=
  ∃ t, exec i s = .next t ∧ t.slot s.sid = sl ∧ (∀ k, k ≠ s.sid → t.slot k = s.slot k) ∧ t.mem = s.mem
    ∧ t.empty = s.empty ∧ t.poison = s.poison ∧ t.teams = s.teams ∧ f t

/-! ### Tile commands -/

/-- Physical pieces that follow each other from an address for n bytes. -/
def follows : Nat → List (Nat × Nat) → Nat → Prop
  | _, [], n => n = 0
  | pa, (q, k) :: r, n => q = pa ∧ k ≤ n ∧ follows (pa + k) r (n - k)

/-- The n bytes at va lie at pa and are found there without a walk, whatever memory holds: in a window, or through
TLB entries that allow the access. -/
def State.maps (s : State) (c : Ctx) (va : Word) (n : Nat) (dir : Dir) (pa : Nat) : Prop :=
  ∀ s' : State, s'.coreTab = s.coreTab → (∀ k, (s'.clusterSt k).tlb = (s.clusterSt k).tlb ∧ (s'.clusterSt k).vcs = (s.clusterSt k).vcs) →
    (∀ k, (s'.team? k).map (·.place) = (s.team? k).map (·.place)) → ∃ l, s'.span c va n dir = .ok (l, s') ∧ follows pa l n

/-- The same for n bytes block by block of 64. -/
def State.mapsBlocks (s : State) (c : Ctx) (va : Word) (n : Nat) (dir : Dir) (pa : Nat) : Prop :=
  ∀ k, 64 * k < n → s.maps c (va + BitVec.ofNat 64 (64 * k)) (min 64 (n - 64 * k)) dir (pa + 64 * k)

/-- The engines of the cluster whose turn it is are idle, the core's stores are performed, nothing is poisoned,
protected, remapped or checkpointed, no domain of the slot aborts: a tile command that is accepted now runs at once, to its
record. -/
def State.ready (s : State) : Prop :=
  isChan s.core = false ∧ (s.clusterSt s.cluster).running = [] ∧ (s.clusterSt s.cluster).queues = Vector.replicate 3 []
    ∧ (s.clusterSt s.cluster).tracker = [] ∧ (s.clusterSt s.cluster).quiesced = false
    ∧ (∀ u, (s.clusterSt s.cluster).unitFree.toList.getD u 0 ≤ s.cycle)
    ∧ (∀ p, (s.clusterSt s.cluster).lastStart = some p → p + 256 ≤ s.cycle)
    ∧ s.unreleased s.core 2 = false ∧ s.poison = [] ∧ s.badPar = [] ∧ s.remap = none
    ∧ (∀ e, e ∈ s.teams → e.2.ckRun = false) ∧ s.unprotected s.cluster ∧ s.hostPage % 64 = 0 ∧ s.hostPage < 2 ^ 50
    ∧ ∀ d, d ∈ s.me.doms → d.aborting = none

/-- n bytes at pa are storage of the machine beside the host port page. -/
def State.clearOf (s : State) (pa n : Nat) : Prop := pa + n ≤ 2 ^ 50 ∧ (s.hostPage + 64 ≤ pa ∨ pa + n ≤ s.hostPage)

/-- In t one more record stands in the slot's result FIFO of engine e: of the command word w, with status 0 or 1 as its
flags say and the next SEQ (R97). -/
def State.records (s t : State) (e : Nat) (w : BitVec 256) : Prop :=
  ∃ fl : BitVec 7, let f := s.me.fifos.toList.getD e ResFifo.init
    (t.slot s.sid).fifos.toList.getD e ResFifo.init = { recs := f.recs ++ [recordWord (tileOpc w).toNat (if fl = 0 then 0 else 1) fl.toNat f.seq.toNat 0], seq := f.seq + 1, reserved := f.reserved }

/-- Tile command i, accepted by an idle engine e of the slot's cluster, runs to its record in one step and leaves a state
of which P holds; no other slot changes. `c` is the command as ENQ samples it, which passes ENQ's checks. -/
def TileDoes (i : Instr) (e : Nat) (s : State) (P : Cmd → State → Prop) : Prop :=
  ∀ w, encodeTile i = some w → s.ready → let c := s.sampleCmd s.sid e w i
    s.engineChecks { s.ctx s.sid with thread := false } c = .ok c →
    ∃ t, exec i s = .next t ∧ s.records t e w ∧ (∀ k, k ≠ s.sid → t.slot k = s.slot k) ∧ P c t

end Sys2Proof.Machine
end

