-- ==== Sys2Proof/Certificates/Slice0/Obligations.lean ====
section
/-! DEFINITION. The statements for the provers: what decoding, each family of instructions, the events of the device and the
taking of exceptions do, and what they leave alone. `Does`, `OnlySlot` and their kin are those of Safety. -/

open Sys2Proof Sys2Proof.Machine

/-- Words written out from the spec's encodings decode to the instructions they stand for (spec 04; the worked encodings of spec 20 to 25). -/
def Obligations.KnownWordsDecode : Prop :=
  decodeWord 0x00B50533#32 = .ok (.add 10 10 11) ∧ decodeWord 0x00C58513#32 = .ok (.addi 10 11 12)
    ∧ decodeWord 0x0035202B#32 = .ok (.loop 10 3) ∧ decodeWord 0x00000073#32 = .ok .ecall
    ∧ decodeWord 0x00B53423#32 = .ok (.sd 11 10 8) ∧ decodeWord 0x0FF0000F#32 = .ok (.fence 0 0 0x0FF)
    ∧ decodeWord 0#32 = .error .notWord ∧ decodeWord 0xFFFFFFFF#32 = .error .majorOpcode
    ∧ (decodeTile (BitVec.ofNat 256 0x05)).toOption
        = some (.mzero { wait := 0, s1 := 0, s2 := 0, s3 := 0, din := 0, dout := 0 } 0)

/-- No bit of an encoding is dropped: the word of a well-formed instruction, with every operand at every value its field admits, decodes to that instruction (spec 04). -/
def Obligations.DecodeInvertsEncode : Prop :=
  ∀ (i : Instr) (w : BitVec 32), i.wf = true → encode i = some w → decodeWord w = .ok i

/-- Every accepted word is the encoding of its instruction: the decoder ignores no bit and takes no reserved bit for zero; the ignored fields of FENCE and FENCE.I are operands of the constructor (spec 04). -/
def Obligations.EncodeInvertsDecode : Prop :=
  ∀ (w : BitVec 32) (i : Instr), decodeWord w = .ok i → encode i = some w

/-- The 256-bit word of a well-formed tile command decodes to that command (R94, R95). -/
def Obligations.DecodeTileInvertsEncode : Prop :=
  ∀ (i : Instr) (w : BitVec 256), i.wf = true → encodeTile i = some w → decodeTile w = .ok i

/-- Decoding gives well-formed terms only, and no constructor is both an instruction word and a tile command (R77, R94). -/
def Obligations.EveryInstructionHasAWord : Prop :=
  (∀ w i, decodeWord w = .ok i → i.wf = true ∧ (encode i).isSome = true)
    ∧ (∀ w i, decodeTile w = .ok i → i.wf = true ∧ (encodeTile i).isSome = true)
    ∧ ∀ i, (encode i).isNone = true ∨ (encodeTile i).isNone = true

/-- When the slot in turn is ready, no trap or interrupt comes first, the word at its pc decodes to i, and no register of i is pending or i is not allowed at the slot's level, the step is exec of i at that state with the issue counted (`issued`); the slots that follow this one have it in their stream (`followed`), and the turn passes on (`passTurn`). Without followers `followed` changes nothing. That the slot acts in this step is the plan's choice (log entry 1). -/
def Obligations.StepRunsTheDecodedInstruction : Prop :=
  ∀ (s f : State) (p : List Nat) (w : BitVec 32) (i : Instr),
    s.stopped = false → s.plan = 0 :: p →
    let r := { s with plan := p }
    (s.me.status = .ready ∧ s.me.due = [] ∧ s.me.sliceAt = none ∧ s.me.timerAt = none ∧ s.me.follow = none
      ∧ r.blocked s.sid = false ∧ r.irqNow s.sid = none ∧ s.me.overdue = false) →
    r.fetch = .ok (w, f) → decodeWord w = .ok i → (f.me.waitsFor i = false ∨ f.me.notAllowed i = true) →
    (∀ t, exec i (f.upd (·.issued)) = .next t → step s = passTurn (.next (t.followed s.sid s.me.pc)))
    ∧ ∀ t : State, (∀ e, e ∈ t.slots → e.2.follows e.1 s.sid = false) → (t.slot s.sid).follow = none →
        t.followed s.sid s.me.pc = t

/-- R131 for memory; slots idle (R33), task level, no team and no event. The zero of a register that the spec gives no reset value is the model's choice (log entry 4). -/
def Obligations.ResetState : Prop :=
  (∀ a, State.reset.byte a = 0) ∧ (∀ w, State.reset.full w = true ∧ State.reset.bad w = false)
    ∧ (∀ k, (State.reset.slot k).status = .idle ∧ (State.reset.slot k).level = .task
        ∧ (∀ r, (State.reset.slot k).rx r = 0) ∧ (∀ r, (State.reset.slot k).rv r = 0) ∧ ∀ r, (State.reset.slot k).rp r = 0)
    ∧ State.reset.teams = [] ∧ State.reset.agenda = [] ∧ State.reset.cycle = 0 ∧ State.reset.stopped = false
    ∧ State.reset.canonical = true

/-- There is no state in which an instruction word, a tile command or a device event is without a meaning: traps and parks are next states (R78). -/
def Obligations.EveryExecCompletes : Prop :=
  ∀ (i : Instr) (s : State), ∃ t, exec i s = .next t

/-- R19: above 115 degrees on a die (temperatures of events are in tenths) the stewards stop the package; no further step of it is taken but a module reset. -/
def Obligations.StoppedModuleStaysStopped : Prop :=
  (∀ s : State, s.stopped = true → Event.moduleReset ∉ s.agenda → step s = .fault .moduleStopped)
    ∧ (∀ s : State, s.stopped = true → Event.moduleReset ∈ s.agenda → step s = exec .moduleReset s)
    ∧ ∀ (s : State) (temp : Nat), 1150 < temp → ∃ t, exec (.thermalShutdown temp) s = .next t ∧ t.stopped = true
        ∧ Out.packageStopped ∈ t.outbox ∧ t.mem = s.mem ∧ t.slots = s.slots

/-- R49. -/
def Obligations.RegisterZero : Prop :=
  (∀ (sl : Slot) (w : Word), sl.wx 0 w = sl ∧ sl.rx 0 = 0)
    ∧ (∀ (sl : Slot) (r : XReg) (w : Word), r ≠ 0 → (sl.wx r w).rx r = w ∧ { sl.wx r w with x := sl.x } = sl)
    ∧ (∀ (sl : Slot) (r q : XReg) (w : Word), q ≠ r → (sl.wx r w).rx q = sl.rx q)
    ∧ (∀ (sl : Slot) (r q : VReg) (w : VWord), (sl.wv r w).rv q = if q = r then w else sl.rv q)
    ∧ ∀ (sl : Slot) (r q : PReg) (w : PWord), (sl.wp r w).rp q = if q = r then w else sl.rp q

/-- R383 and R249: the check at each retirement, and LOOP itself; pc bits 1, 0 and 63 to 57 are zero (R49, `pcOf`). -/
def Obligations.RetirementAndHardwareLoop : Prop :=
  (∀ sl : Slot, sl.level = .task → sl.pc = sl.loope → sl.loopc ≠ 0 →
      sl.retire.loopc = sl.loopc - 1 ∧ sl.retire.pc = pcOf (if sl.loopc - 1 ≠ 0 then sl.loops else sl.loope + 4))
    ∧ (∀ sl : Slot, ¬(sl.level = .task ∧ sl.pc = sl.loope ∧ sl.loopc ≠ 0) →
        sl.retire.loopc = sl.loopc ∧ sl.retire.pc = pcOf (sl.pc + 4))
    ∧ (∀ sl : Slot, sl.retire.status = .ready
        ∧ { sl.retire with pc := sl.pc, loopc := sl.loopc, status := sl.status, safeAt := sl.safeAt } = sl)
    ∧ (∀ (s : State) (rs1 : XReg) (n : BitVec 12), s.me.level = .task →
        Does (.loop rs1 n) s { s.me with
          pc := pcOf (if s.me.rx rs1 = 0 then s.me.pc + 4 + 4 * n.zeroExtend 64 else s.me.pc + 4)
          loops := s.me.pc + 4, loope := s.me.pc + 4 * n.zeroExtend 64, loopc := s.me.rx rs1, status := .ready
          safeAt := if s.me.status.safePark then some 0x1000 else none })
    ∧ ∀ (s : State) (rs1 : XReg) (n : BitVec 12), s.me.level ≠ .task →
        Traps (.loop rs1 n) s (Trap.sync 2 (wordOf (.loop rs1 n)))

/-- R247: one entry for synchronous causes and interrupts, with ECALL and EBREAK as the instructions that are nothing else (R367). -/
def Obligations.TrapEntry : Prop :=
  (∀ (sl : Slot) (t : Trap), sl.level ≠ .monitor → ¬(t.int = false ∧ t.code = 9) →
      let e := sl.enter t
      e.kepc = sl.pc ∧ e.kcause = t.causeWord ∧ e.ktval = t.v1 ∧ e.ktval2 = t.v2 ∧ e.level = .kernel
        ∧ e.pc = pcOf (sl.kvec + t.offset) ∧ e.follow = none ∧ e.status = .ready
        ∧ e.kstatus.extractLsb' 0 2 = (match sl.level with | .task => 0 | .kernel => 1 | .monitor => 3)
        ∧ e.kstatus.getLsbD 2 = false ∧ e.kstatus.getLsbD 3 = sl.kstatus.getLsbD 2
        ∧ { e with kepc := sl.kepc, kcause := sl.kcause, ktval := sl.ktval, ktval2 := sl.ktval2, kstatus := sl.kstatus
                   level := sl.level, pc := sl.pc, follow := sl.follow, status := sl.status, safeAt := sl.safeAt, traps := sl.traps } = sl)
    ∧ (∀ (sl : Slot) (t : Trap), (sl.level = .monitor ∨ (t.int = false ∧ t.code = 9)) →
      let e := sl.enter t
      e.mepc = sl.pc ∧ e.mcause = t.causeWord ∧ e.ktval = t.v1 ∧ e.ktval2 = t.v2 ∧ e.level = .monitor
        ∧ e.pc = pcOf (sl.mvec + t.offset) ∧ e.follow = none ∧ e.status = .ready
        ∧ e.mstatus.extractLsb' 0 2 = (match sl.level with | .task => 0 | .kernel => 1 | .monitor => 3)
        ∧ e.mstatus.getLsbD 2 = false ∧ e.mstatus.getLsbD 3 = sl.mstatus.getLsbD 2
        ∧ { e with mepc := sl.mepc, mcause := sl.mcause, ktval := sl.ktval, ktval2 := sl.ktval2, mstatus := sl.mstatus
                   level := sl.level, pc := sl.pc, follow := sl.follow, status := sl.status, safeAt := sl.safeAt, traps := sl.traps } = sl)
    ∧ (∀ t : Trap, t.code < 32 → t.offset = (if t.int then 0x800 + BitVec.ofNat 64 (64 * t.code) else BitVec.ofNat 64 (64 * t.code))
        ∧ t.causeWord.getLsbD 63 = t.int ∧ t.causeWord.extractLsb' 0 63 = BitVec.ofNat 63 t.code)
    ∧ (∀ s : State, Traps .ecall s (Trap.sync (if s.me.level = .task then 8 else 9) 0))
    ∧ ∀ s : State, Traps .ebreak s (Trap.sync 3 s.me.pc)

/-- R248 and R379. A slot whose loaded frame is that of an away slot becomes away (R264); an abort held until the return begins then (R277). -/
def Obligations.TrapReturn : Prop :=
  (∀ s : State, s.me.level = .task → Traps .kret s (Trap.sync 2 (wordOf .kret)))
    ∧ (∀ s : State, s.me.level = .kernel → 1 < (s.me.kstatus.extractLsb' 0 2).toNat →
        Traps .kret s (Trap.sync 2 (wordOf .kret)))
    ∧ (∀ s : State, s.me.level = .kernel → (s.me.kstatus.extractLsb' 0 2).toNat ≤ 1 → s.me.heldAbort = [] →
        Does .kret s { s.me with
          pc := pcOf s.me.kepc, level := if s.me.kstatus.extractLsb' 0 2 = 0 then .task else .kernel
          kstatus := (s.me.kstatus &&& 3) ||| (if s.me.kstatus.getLsbD 3 then 4 else 0) ||| 8
          spCount := 0, safeAt := some 0x1000, status := if s.me.savedAway then .away else .ready
          savedAway := false, frame := none, saved := 0 })
    ∧ (∀ s : State, s.me.level = .monitor → s.me.mstatus.extractLsb' 0 2 = 2 → Traps .kret s (Trap.sync 2 (wordOf .kret)))
    ∧ ∀ s : State, s.me.level = .monitor → (s.me.mstatus.extractLsb' 0 2).toNat ≠ 2 → s.me.heldAbort = [] →
        ∃ sl, Does .kret s sl ∧ sl.pc = pcOf s.me.mepc ∧ sl.safeAt = some 0x1000 ∧ sl.mstatus = (s.me.mstatus &&& 3) ||| (if s.me.mstatus.getLsbD 3 then 4 else 0) ||| 8
          ∧ sl.level = (if s.me.mstatus.extractLsb' 0 2 = 0 then .task else if s.me.mstatus.extractLsb' 0 2 = 1 then .kernel else .monitor)
          ∧ sl.kstatus = s.me.kstatus ∧ sl.x = s.me.x ∧ sl.spCount = 0

/-- R329, R333, R384, R407, R436, R437, R442 and R470, compares and arithmetic shifts as integer arithmetic; the frame is that of `Does`: nothing but rd, the pc and what retiring sets. -/
def Obligations.AluResults : Prop :=
  (∀ (s : State) (rd a b : XReg),
    Does (.add rd a b) s (s.me.wx rd (s.me.rx a + s.me.rx b)).retire
    ∧ Does (.sub rd a b) s (s.me.wx rd (s.me.rx a - s.me.rx b)).retire
    ∧ Does (.and rd a b) s (s.me.wx rd (s.me.rx a &&& s.me.rx b)).retire
    ∧ Does (.or rd a b) s (s.me.wx rd (s.me.rx a ||| s.me.rx b)).retire
    ∧ Does (.xor rd a b) s (s.me.wx rd (s.me.rx a ^^^ s.me.rx b)).retire
    ∧ Does (.slt rd a b) s (s.me.wx rd (if (s.me.rx a).toInt < (s.me.rx b).toInt then 1 else 0)).retire
    ∧ Does (.sltu rd a b) s (s.me.wx rd (if (s.me.rx a).toNat < (s.me.rx b).toNat then 1 else 0)).retire
    ∧ Does (.sll rd a b) s (s.me.wx rd (s.me.rx a <<< ((s.me.rx b).toNat % 64))).retire
    ∧ Does (.srl rd a b) s (s.me.wx rd (s.me.rx a >>> ((s.me.rx b).toNat % 64))).retire
    ∧ Does (.sra rd a b) s (s.me.wx rd (BitVec.ofInt 64 ((s.me.rx a).toInt / 2 ^ ((s.me.rx b).toNat % 64)))).retire
    ∧ Does (.addw rd a b) s (s.me.wx rd ((((s.me.rx a).extractLsb' 0 32 + (s.me.rx b).extractLsb' 0 32).signExtend 64))).retire
    ∧ Does (.subw rd a b) s (s.me.wx rd ((((s.me.rx a).extractLsb' 0 32 - (s.me.rx b).extractLsb' 0 32).signExtend 64))).retire
    ∧ Does (.sllw rd a b) s (s.me.wx rd ((((s.me.rx a).extractLsb' 0 32 <<< ((s.me.rx b).toNat % 32)).signExtend 64))).retire
    ∧ Does (.srlw rd a b) s (s.me.wx rd ((((s.me.rx a).extractLsb' 0 32 >>> ((s.me.rx b).toNat % 32)).signExtend 64))).retire
    ∧ Does (.sraw rd a b) s (s.me.wx rd (BitVec.ofInt 64 (((s.me.rx a).extractLsb' 0 32).toInt / 2 ^ ((s.me.rx b).toNat % 32)))).retire)
  ∧ (∀ (s : State) (rd a : XReg) (i : BitVec 12),
    Does (.addi rd a i) s (s.me.wx rd (s.me.rx a + i.signExtend 64)).retire
    ∧ Does (.andi rd a i) s (s.me.wx rd (s.me.rx a &&& i.signExtend 64)).retire
    ∧ Does (.ori rd a i) s (s.me.wx rd (s.me.rx a ||| i.signExtend 64)).retire
    ∧ Does (.xori rd a i) s (s.me.wx rd (s.me.rx a ^^^ i.signExtend 64)).retire
    ∧ Does (.slti rd a i) s (s.me.wx rd (if (s.me.rx a).toInt < i.toInt then 1 else 0)).retire
    ∧ Does (.sltiu rd a i) s (s.me.wx rd (if (s.me.rx a).toNat < ((i.signExtend 64) : Word).toNat then 1 else 0)).retire
    ∧ Does (.addiw rd a i) s (s.me.wx rd (((s.me.rx a + i.signExtend 64).extractLsb' 0 32).signExtend 64)).retire)
  ∧ (∀ (s : State) (rd a : XReg) (k : BitVec 6),
    Does (.slli rd a k) s (s.me.wx rd (s.me.rx a <<< k.toNat)).retire
    ∧ Does (.srli rd a k) s (s.me.wx rd (s.me.rx a >>> k.toNat)).retire
    ∧ Does (.srai rd a k) s (s.me.wx rd (BitVec.ofInt 64 ((s.me.rx a).toInt / 2 ^ k.toNat))).retire)
  ∧ (∀ (s : State) (rd a : XReg) (k : BitVec 5),
    Does (.slliw rd a k) s (s.me.wx rd ((((s.me.rx a).extractLsb' 0 32 <<< k.toNat).signExtend 64))).retire
    ∧ Does (.srliw rd a k) s (s.me.wx rd ((((s.me.rx a).extractLsb' 0 32 >>> k.toNat).signExtend 64))).retire
    ∧ Does (.sraiw rd a k) s (s.me.wx rd (BitVec.ofInt 64 (((s.me.rx a).extractLsb' 0 32).toInt / 2 ^ k.toNat))).retire)
  ∧ ∀ (s : State) (rd : XReg) (i : BitVec 20),
    Does (.lui rd i) s (s.me.wx rd (((i.zeroExtend 32 <<< 12) : BitVec 32).signExtend 64)).retire
    ∧ Does (.auipc rd i) s (s.me.wx rd (s.me.pc + ((i.zeroExtend 32 <<< 12) : BitVec 32).signExtend 64)).retire

/-- R339, R378 and the jump-target rows of R80. A jump goes to its target, bit 0 of which a pc does not have; a taken jump leaves the loop registers alone (R383). -/
def Obligations.BranchesAndJumps : Prop :=
  let goes := fun (i : Instr) (s : State) (target : Word) (sl : Slot) =>
    (target.getLsbD 1 = true → Traps i s (Trap.sync 0 target))
    ∧ (target.getLsbD 1 = false → target.extractLsb' 57 7 ≠ 0 → Traps i s (Trap.sync 1 target))
    ∧ (target.getLsbD 1 = false → target.extractLsb' 57 7 = 0 → Does i s { sl with
        pc := pcOf target, status := .ready, safeAt := if s.me.status.safePark then some 0x1000 else none })
  (∀ (s : State) (a b : XReg) (o : BitVec 12),
    let dest := s.me.pc + (o.signExtend 64 <<< 1)
    (if s.me.rx a = s.me.rx b then goes (.beq a b o) s dest s.me else Does (.beq a b o) s s.me.retire)
    ∧ (if s.me.rx a ≠ s.me.rx b then goes (.bne a b o) s dest s.me else Does (.bne a b o) s s.me.retire)
    ∧ (if (s.me.rx a).toInt < (s.me.rx b).toInt then goes (.blt a b o) s dest s.me else Does (.blt a b o) s s.me.retire)
    ∧ (if (s.me.rx b).toInt ≤ (s.me.rx a).toInt then goes (.bge a b o) s dest s.me else Does (.bge a b o) s s.me.retire)
    ∧ (if (s.me.rx a).toNat < (s.me.rx b).toNat then goes (.bltu a b o) s dest s.me else Does (.bltu a b o) s s.me.retire)
    ∧ (if (s.me.rx b).toNat ≤ (s.me.rx a).toNat then goes (.bgeu a b o) s dest s.me else Does (.bgeu a b o) s s.me.retire))
  ∧ (∀ (s : State) (rd : XReg) (o : BitVec 20),
    goes (.jal rd o) s (s.me.pc + (o.signExtend 64 <<< 1)) (s.me.wx rd (s.me.pc + 4)))
  ∧ ∀ (s : State) (rd a : XReg) (i : BitVec 12),
    goes (.jalr rd a i) s ((s.me.rx a + i.signExtend 64) &&& ~~~1) (s.me.wx rd (s.me.pc + 4))

/-- The frame of the instructions whose only result is an x register. The pc may change; loopc is the loop counter that a retirement at loope counts (R383). -/
def Obligations.RegisterInstructionsFrame : Prop :=
  ∀ (i : Instr) (rd : XReg) (s t : State), xOnly i = some rd → exec i s = .next t →
    (∀ r, r ≠ rd → (t.slot s.sid).rx r = s.me.rx r)
    ∧ (∀ r, (t.slot s.sid).rv r = s.me.rv r) ∧ (∀ r, (t.slot s.sid).rp r = s.me.rp r)
    ∧ (t.slot s.sid).fflags = s.me.fflags ∧ (t.slot s.sid).fmt = s.me.fmt ∧ (t.slot s.sid).rnd = s.me.rnd
    ∧ (t.slot s.sid).loops = s.me.loops ∧ (t.slot s.sid).loope = s.me.loope
    ∧ (t.slot s.sid).kstatus = s.me.kstatus ∧ (t.slot s.sid).kepc = s.me.kepc ∧ (t.slot s.sid).kcause = s.me.kcause
    ∧ (t.slot s.sid).ktval = s.me.ktval ∧ (t.slot s.sid).mstatus = s.me.mstatus ∧ (t.slot s.sid).mepc = s.me.mepc
    ∧ { t.slot s.sid with x := s.me.x, pc := s.me.pc, loopc := s.me.loopc, status := s.me.status, safeAt := s.me.safeAt } = s.me
    ∧ (∀ k, k ≠ s.sid → t.slot k = s.slot k)
    ∧ (∀ a, t.byte a = s.byte a) ∧ (∀ w, t.full w = s.full w ∧ t.bad w = s.bad w) ∧ { t with slots := s.slots } = s

/-- R402 whole: the words and, over integers, the results; the result is in rd in the next state. -/
def Obligations.MultiplyRule : Prop :=
  (∀ (rd a b : XReg), encode (.mul rd a b) = some (0x02000033#32 ||| (b.zeroExtend 32 <<< 20) ||| (a.zeroExtend 32 <<< 15) ||| (rd.zeroExtend 32 <<< 7))
    ∧ encode (.mulh rd a b) = some (0x02001033#32 ||| (b.zeroExtend 32 <<< 20) ||| (a.zeroExtend 32 <<< 15) ||| (rd.zeroExtend 32 <<< 7))
    ∧ encode (.mulhsu rd a b) = some (0x02002033#32 ||| (b.zeroExtend 32 <<< 20) ||| (a.zeroExtend 32 <<< 15) ||| (rd.zeroExtend 32 <<< 7))
    ∧ encode (.mulhu rd a b) = some (0x02003033#32 ||| (b.zeroExtend 32 <<< 20) ||| (a.zeroExtend 32 <<< 15) ||| (rd.zeroExtend 32 <<< 7))
    ∧ encode (.mulw rd a b) = some (0x0200003B#32 ||| (b.zeroExtend 32 <<< 20) ||| (a.zeroExtend 32 <<< 15) ||| (rd.zeroExtend 32 <<< 7)))
  ∧ decodeWord 0x02C58533#32 = .ok (.mul 10 11 12)
  ∧ ∀ (s : State) (rd a b : XReg),
    Does (.mul rd a b) s (s.me.wx rd (s.me.rx a * s.me.rx b)).retire
    ∧ Does (.mulh rd a b) s (s.me.wx rd (BitVec.ofInt 64 ((s.me.rx a).toInt * (s.me.rx b).toInt / 2 ^ 64))).retire
    ∧ Does (.mulhsu rd a b) s (s.me.wx rd (BitVec.ofInt 64 ((s.me.rx a).toInt * ((s.me.rx b).toNat : Int) / 2 ^ 64))).retire
    ∧ Does (.mulhu rd a b) s (s.me.wx rd (BitVec.ofNat 64 ((s.me.rx a).toNat * (s.me.rx b).toNat / 2 ^ 64))).retire
    ∧ Does (.mulw rd a b) s (s.me.wx rd ((((s.me.rx a).extractLsb' 0 32 * (s.me.rx b).extractLsb' 0 32).signExtend 64))).retire

/-- R366 whole: words, quotients over integers, division by zero, overflow. -/
def Obligations.DivideRule : Prop :=
  (∀ (rd a b : XReg), encode (.div rd a b) = some (0x02004033#32 ||| (b.zeroExtend 32 <<< 20) ||| (a.zeroExtend 32 <<< 15) ||| (rd.zeroExtend 32 <<< 7))
    ∧ encode (.divu rd a b) = some (0x02005033#32 ||| (b.zeroExtend 32 <<< 20) ||| (a.zeroExtend 32 <<< 15) ||| (rd.zeroExtend 32 <<< 7))
    ∧ encode (.divw rd a b) = some (0x0200403B#32 ||| (b.zeroExtend 32 <<< 20) ||| (a.zeroExtend 32 <<< 15) ||| (rd.zeroExtend 32 <<< 7))
    ∧ encode (.divuw rd a b) = some (0x0200503B#32 ||| (b.zeroExtend 32 <<< 20) ||| (a.zeroExtend 32 <<< 15) ||| (rd.zeroExtend 32 <<< 7)))
  ∧ decodeWord 0x02C5C533#32 = .ok (.div 10 11 12)
  ∧ (∀ (s : State) (rd a b : XReg), s.me.rx a = BitVec.intMin 64 → s.me.rx b = BitVec.allOnes 64 →
    Does (.div rd a b) s (s.me.wx rd (s.me.rx a)).retire)
  ∧ (∀ (s : State) (rd a b : XReg), (s.me.rx a).extractLsb' 0 32 = BitVec.intMin 32 → (s.me.rx b).extractLsb' 0 32 = BitVec.allOnes 32 →
    Does (.divw rd a b) s (s.me.wx rd (((s.me.rx a).extractLsb' 0 32).signExtend 64)).retire)
  ∧ ∀ (s : State) (rd a b : XReg),
    Does (.div rd a b) s (s.me.wx rd (if s.me.rx b = 0 then BitVec.allOnes 64 else BitVec.ofInt 64 ((s.me.rx a).toInt.tdiv (s.me.rx b).toInt))).retire
    ∧ Does (.divu rd a b) s (s.me.wx rd (if s.me.rx b = 0 then BitVec.allOnes 64 else BitVec.ofNat 64 ((s.me.rx a).toNat / (s.me.rx b).toNat))).retire
    ∧ Does (.divw rd a b) s (s.me.wx rd (if (s.me.rx b).extractLsb' 0 32 = 0 then BitVec.allOnes 64 else ((BitVec.ofInt 32 (((s.me.rx a).extractLsb' 0 32).toInt.tdiv ((s.me.rx b).extractLsb' 0 32).toInt)).signExtend 64))).retire
    ∧ Does (.divuw rd a b) s (s.me.wx rd (if (s.me.rx b).extractLsb' 0 32 = 0 then BitVec.allOnes 64 else ((BitVec.ofNat 32 (((s.me.rx a).extractLsb' 0 32).toNat / ((s.me.rx b).extractLsb' 0 32).toNat)).signExtend 64))).retire

/-- R421 whole. -/
def Obligations.RemainderRule : Prop :=
  (∀ (rd a b : XReg), encode (.rem rd a b) = some (0x02006033#32 ||| (b.zeroExtend 32 <<< 20) ||| (a.zeroExtend 32 <<< 15) ||| (rd.zeroExtend 32 <<< 7))
    ∧ encode (.remu rd a b) = some (0x02007033#32 ||| (b.zeroExtend 32 <<< 20) ||| (a.zeroExtend 32 <<< 15) ||| (rd.zeroExtend 32 <<< 7))
    ∧ encode (.remw rd a b) = some (0x0200603B#32 ||| (b.zeroExtend 32 <<< 20) ||| (a.zeroExtend 32 <<< 15) ||| (rd.zeroExtend 32 <<< 7))
    ∧ encode (.remuw rd a b) = some (0x0200703B#32 ||| (b.zeroExtend 32 <<< 20) ||| (a.zeroExtend 32 <<< 15) ||| (rd.zeroExtend 32 <<< 7)))
  ∧ decodeWord 0x02C5E533#32 = .ok (.rem 10 11 12)
  ∧ (∀ (s : State) (rd a b : XReg), s.me.rx a = BitVec.intMin 64 → s.me.rx b = BitVec.allOnes 64 →
    Does (.rem rd a b) s (s.me.wx rd 0).retire)
  ∧ (∀ (s : State) (rd a b : XReg), (s.me.rx a).extractLsb' 0 32 = BitVec.intMin 32 → (s.me.rx b).extractLsb' 0 32 = BitVec.allOnes 32 →
    Does (.remw rd a b) s (s.me.wx rd 0).retire)
  ∧ ∀ (s : State) (rd a b : XReg),
    Does (.rem rd a b) s (s.me.wx rd (if s.me.rx b = 0 then s.me.rx a else BitVec.ofInt 64 ((s.me.rx a).toInt.tmod (s.me.rx b).toInt))).retire
    ∧ Does (.remu rd a b) s (s.me.wx rd (if s.me.rx b = 0 then s.me.rx a else BitVec.ofNat 64 ((s.me.rx a).toNat % (s.me.rx b).toNat))).retire
    ∧ Does (.remw rd a b) s (s.me.wx rd (if (s.me.rx b).extractLsb' 0 32 = 0 then (((s.me.rx a).extractLsb' 0 32).signExtend 64) else ((BitVec.ofInt 32 (((s.me.rx a).extractLsb' 0 32).toInt.tmod ((s.me.rx b).extractLsb' 0 32).toInt)).signExtend 64))).retire
    ∧ Does (.remuw rd a b) s (s.me.wx rd (if (s.me.rx b).extractLsb' 0 32 = 0 then (((s.me.rx a).extractLsb' 0 32).signExtend 64) else ((BitVec.ofNat 32 (((s.me.rx a).extractLsb' 0 32).toNat % ((s.me.rx b).extractLsb' 0 32).toNat)).signExtend 64))).retire

/-- R382, R463 and R122: a scalar load's address is rs1 + sext(imm12), VLD's is rs1. The event's clause is for a request whose last element is served from good words. -/
def Obligations.LoadsFromOwnAndOtherStorage : Prop :=
  (∀ (s : State) (rd a : XReg) (i : BitVec 12) (vd : VReg),
    let at' := s.me.rx a + i.signExtend 64
    OwnLoad (.lb rd a i) s at' 1 (fun sl v => sl.wx rd ((BitVec.ofNat 8 v).signExtend 64))
    ∧ OwnLoad (.lh rd a i) s at' 2 (fun sl v => sl.wx rd ((BitVec.ofNat 16 v).signExtend 64))
    ∧ OwnLoad (.lw rd a i) s at' 4 (fun sl v => sl.wx rd ((BitVec.ofNat 32 v).signExtend 64))
    ∧ OwnLoad (.ld rd a i) s at' 8 (fun sl v => sl.wx rd (BitVec.ofNat 64 v))
    ∧ OwnLoad (.lbu rd a i) s at' 1 (fun sl v => sl.wx rd ((BitVec.ofNat 8 v).zeroExtend 64))
    ∧ OwnLoad (.lhu rd a i) s at' 2 (fun sl v => sl.wx rd ((BitVec.ofNat 16 v).zeroExtend 64))
    ∧ OwnLoad (.lwu rd a i) s at' 4 (fun sl v => sl.wx rd ((BitVec.ofNat 32 v).zeroExtend 64))
    ∧ OwnLoad (.vld vd a) s (s.me.rx a) 64 (fun sl v => sl.wv vd (BitVec.ofNat 512 v)))
  ∧ ((∀ (s : State) (rd a : XReg) (i : BitVec 12) (vd : VReg),
    let at' := s.me.rx a + i.signExtend 64
    FarLoad (.lb rd a i) s at' 1 (.scalar rd true)
    ∧ FarLoad (.lh rd a i) s at' 2 (.scalar rd true)
    ∧ FarLoad (.lw rd a i) s at' 4 (.scalar rd true)
    ∧ FarLoad (.ld rd a i) s at' 8 (.scalar rd false)
    ∧ FarLoad (.lbu rd a i) s at' 1 (.scalar rd false)
    ∧ FarLoad (.lhu rd a i) s at' 2 (.scalar rd false)
    ∧ FarLoad (.lwu rd a i) s at' 4 (.scalar rd false)
    ∧ FarLoad (.vld vd a) s (s.me.rx a) 64 (.vector vd))
  ∧ ∀ (s : State) (r : LoadReq) (pa : Nat) (va : Word), r.els = [(pa, va)] → (s.slot r.sid).status = .parked .reply →
      s.badAt pa r.size = false →
      ∃ t, exec (.loadAtOwner r) s = .next t
        ∧ t.slot r.sid = (((s.correctAt r.sid pa r.size).slot r.sid).deliver r.dst r.size
            (r.got + s.rd pa r.size * 2 ^ (8 * r.size * r.n))).retire
        ∧ (∀ b, t.byte b = s.byte b) ∧ ∀ k, k ≠ r.sid → t.slot k = s.slot k)

/-- R427, R463, R166, R183 and R428, with the frame of memory: every byte outside the n stored ones reads as before. The request carries the physical address that translation gave. The host port page, where some bytes keep their value (R304), is apart. -/
def Obligations.StoresToOwnAndOtherStorage : Prop :=
  (∀ (s : State) (b a : XReg) (i : BitVec 12) (vs : VReg),
    let at' := s.me.rx a + i.signExtend 64
    OwnStore (.sb b a i) s at' 1 ((s.me.rx b).zeroExtend 512)
    ∧ OwnStore (.sh b a i) s at' 2 ((s.me.rx b).zeroExtend 512)
    ∧ OwnStore (.sw b a i) s at' 4 ((s.me.rx b).zeroExtend 512)
    ∧ OwnStore (.sd b a i) s at' 8 ((s.me.rx b).zeroExtend 512)
    ∧ OwnStore (.vst vs a) s (s.me.rx a) 64 (s.me.rv vs))
  ∧ ((∀ (s : State) (b a : XReg) (i : BitVec 12) (vs : VReg),
    let at' := s.me.rx a + i.signExtend 64
    FarStore (.sb b a i) s at' 1 ((s.me.rx b).zeroExtend 512)
    ∧ FarStore (.sh b a i) s at' 2 ((s.me.rx b).zeroExtend 512)
    ∧ FarStore (.sw b a i) s at' 4 ((s.me.rx b).zeroExtend 512)
    ∧ FarStore (.sd b a i) s at' 8 ((s.me.rx b).zeroExtend 512)
    ∧ FarStore (.vst vs a) s (s.me.rx a) 64 (s.me.rv vs))
  ∧ ∀ (s : State) (r : StoreReq), 0 < r.size → r.size ≤ 64 →
      (∀ t, s.teamOf (s.slot r.sid) = some t → t.flags.getLsbD 5 = false) →
      (∀ e, e ∈ s.teams → e.2.ckRun = false) → s.badAt r.pa r.size = false → r.pa / 64 ≠ s.hostPage / 64 →
      ∃ t, exec (.storeAtOwner r) s = .next t ∧ (∀ k, k < r.size → t.byte (r.pa + k) = r.data.extractLsb' (8 * k) 8)
        ∧ (∀ b, b < r.pa ∨ r.pa + r.size ≤ b → t.byte b = s.byte b) ∧ ∀ k, t.slot k = s.slot k)

/-- The misaligned-data row of R80, and the malformed pointers of R60, for each form. -/
def Obligations.MisalignedAndMalformedAccessesTrap : Prop :=
  ∀ (s : State) (r a : XReg) (i : BitVec 12) (v : VReg),
    let at' := s.me.rx a + i.signExtend 64
    let bad := fun (i : Instr) (w : Word) (n c d : Nat) =>
      (w.toNat % n ≠ 0 → Traps i s (Trap.sync c w)) ∧ (w.toNat % n = 0 → isMalformed w = true → Traps i s (Trap.sync d w))
    bad (.lb r a i) at' 1 4 5
    ∧ bad (.lh r a i) at' 2 4 5
    ∧ bad (.lw r a i) at' 4 4 5
    ∧ bad (.ld r a i) at' 8 4 5
    ∧ bad (.lbu r a i) at' 1 4 5
    ∧ bad (.lhu r a i) at' 2 4 5
    ∧ bad (.lwu r a i) at' 4 4 5
    ∧ bad (.sb r a i) at' 1 6 7
    ∧ bad (.sh r a i) at' 2 6 7
    ∧ bad (.sw r a i) at' 4 6 7
    ∧ bad (.sd r a i) at' 8 6 7
    ∧ bad (.vld v a) (s.me.rx a) 64 4 5
    ∧ bad (.vst v a) (s.me.rx a) 64 6 7

/-- R56 and R355: what is read is csrRead of the number; level and read-only checks come first. Then the masks of R55, R57, R59 and R249, read back by csrRead from the slot written. -/
def Obligations.CsrReadsAndWhatWritesLeave : Prop :=
  ((∀ (s : State) (rd : XReg) (n : BitVec 12) (l : Level), csrLevel n.toNat = some l → levelAllows s.me.level l = true →
      Does (.csrrs rd n 0) s (s.me.wx rd (s.csrRead n.toNat)).retire
      ∧ Does (.csrrc rd n 0) s (s.me.wx rd (s.csrRead n.toNat)).retire
      ∧ Does (.csrrsi rd n 0) s (s.me.wx rd (s.csrRead n.toNat)).retire
      ∧ Does (.csrrci rd n 0) s (s.me.wx rd (s.csrRead n.toNat)).retire)
    ∧ (∀ (s : State) (rd a : XReg) (n : BitVec 12) (u : BitVec 5), (match csrLevel n.toNat with | none => true | some l => !levelAllows s.me.level l) = true →
      Traps (.csrrw rd n a) s (Trap.sync 2 (wordOf (.csrrw rd n a))) ∧ Traps (.csrrs rd n a) s (Trap.sync 2 (wordOf (.csrrs rd n a)))
      ∧ Traps (.csrrc rd n a) s (Trap.sync 2 (wordOf (.csrrc rd n a))) ∧ Traps (.csrrwi rd n u) s (Trap.sync 2 (wordOf (.csrrwi rd n u)))
      ∧ Traps (.csrrsi rd n u) s (Trap.sync 2 (wordOf (.csrrsi rd n u))) ∧ Traps (.csrrci rd n u) s (Trap.sync 2 (wordOf (.csrrci rd n u))))
    ∧ ∀ (s : State) (rd a : XReg) (n : BitVec 12) (u : BitVec 5), csrReadOnly n.toNat = true →
      Traps (.csrrw rd n a) s (Trap.sync 2 (wordOf (.csrrw rd n a))) ∧ Traps (.csrrwi rd n u) s (Trap.sync 2 (wordOf (.csrrwi rd n u))))
  ∧ (∀ (s : State) (v : Word),
    let rd := fun (n : Nat) => (s.upd (·.csrSet n v)).csrRead n
    rd 0x5C0 = v &&& 15 ∧ rd 0x7C0 = v &&& 15 ∧ rd 0x5C2 = v &&& ~~~3 ∧ rd 0x7C2 = v &&& ~~~3
    ∧ rd 0x5C4 = v &&& ~~~0xFFF ∧ rd 0x7C3 = v &&& ~~~0xFFF ∧ rd 0x5C6 = v &&& 0xFFFF ∧ rd 0x5C9 = v &&& 0xFFFFFFFF
    ∧ rd 0x803 = v &&& 3 ∧ rd 0x804 = v &&& 0x3F ∧ rd 0x81B = v &&& 3 ∧ rd 0x841 = v &&& 15
    ∧ rd 0x819 = v &&& 0xFFFFF ∧ rd 0x81A = v &&& 0xFFFFF ∧ rd 0x5C1 = v &&& 0x800000000000001F
    ∧ (∀ n, n ∈ [0x801, 0x802, 0x805, 0x806, 0x807, 0x818, 0x840, 0x5C3, 0x5C5, 0x5C7, 0x5C8, 0x5CC, 0x5CD, 0x5CE] → rd n = v)
    ∧ ∀ n m, n ∈ [0x801, 0x803, 0x804, 0x805, 0x5C0, 0x5C2, 0x5C4, 0x5C6, 0x7C0, 0x7C2] →
        m ∈ [0x801, 0x803, 0x804, 0x805, 0x5C0, 0x5C2, 0x5C4, 0x5C6, 0x7C0, 0x7C2] → n ≠ m →
        (s.upd (·.csrSet n v)).csrRead m = s.csrRead m)

/-- R57 and R355 to R357, with the write masks of csrSet; R58 for cbatch and cdone; the write of a queue binding is QBIND's (R144). -/
def Obligations.CsrWrites : Prop :=
  let plain := fun (s : State) (n : BitVec 12) => s.csrWritable n.toNat = true ∧ n.toNat ≠ 0x820 ∧ n.toNat ≠ 0x821
    ∧ ¬(0x810 ≤ n.toNat ∧ n.toNat ≤ 0x817)
  (∀ (s : State) (rd a : XReg) (n : BitVec 12) (u : BitVec 5), plain s n →
      let old := s.csrRead n.toNat
      Does (.csrrw rd n a) s ((s.me.csrSet n.toNat (s.me.rx a)).wx rd old).retire
      ∧ (a ≠ 0 → Does (.csrrs rd n a) s ((s.me.csrSet n.toNat (old ||| s.me.rx a)).wx rd old).retire)
      ∧ (a ≠ 0 → Does (.csrrc rd n a) s ((s.me.csrSet n.toNat (old &&& ~~~ s.me.rx a)).wx rd old).retire)
      ∧ Does (.csrrwi rd n u) s ((s.me.csrSet n.toNat (u.zeroExtend 64)).wx rd old).retire
      ∧ (u ≠ 0 → Does (.csrrsi rd n u) s ((s.me.csrSet n.toNat (old ||| u.zeroExtend 64)).wx rd old).retire)
      ∧ (u ≠ 0 → Does (.csrrci rd n u) s ((s.me.csrSet n.toNat (old &&& ~~~ (u.zeroExtend 64))).wx rd old).retire))
    ∧ (∀ (s : State) (n : BitVec 12) (v : Word), plain s n → Does (.csrWrite n v) s (s.me.csrSet n.toNat v).retire)
    ∧ (∀ (s : State) (n : BitVec 12) (v : Word), s.csrWritable n.toNat = false → exec (.csrWrite n v) s = .next s)
    ∧ (∀ (s : State) (v : Word), s.me.batches = [] →
        Does (.cbatchCdoneWrite v) s { s.me with cbatch := v.extractLsb' 0 32 }.retire)
    ∧ (∀ (s : State) (v : Word), s.me.batches ≠ [] →
        Traps (.cbatchCdoneWrite v) s (Trap.sync 11 ((s.me.cbatch - s.me.cdone).zeroExtend 64)))
    ∧ (∀ (s : State) (k : Nat) (v : Word), SlotDoes (.preqWrite k v) s k { s.slot k with preqReq := v.getLsbD 0 })
    ∧ (∀ (s : State) (v : Word), Does (.dmapWrite v) s { s.me with dmapIdx := v.extractLsb' 60 4 }.retire)
    ∧ ∀ (s : State) (v : Word), Does (.loopRegisterWrite 0x805 v) s { s.me with loopc := v }.retire
        ∧ Does (.loopRegisterWrite 0x806 v) s { s.me with loops := v }.retire
        ∧ Does (.loopRegisterWrite 0x807 v) s { s.me with loope := v }.retire

/-- R174, R375 and R433: what is outstanding is unreleased (posted accesses of the core not performed at the scope) and unacquired (replies of the slot not returned). FENCE.I waits for earlier stores, so that fetch reads them. -/
def Obligations.FencesOrder : Prop :=
  (∀ (s : State) (rd a : XReg) (i : BitVec 12), (s.me.unacquired = false ∧ s.unreleased s.core 4 = false) →
      Does (.fence rd a i) s s.me.retire)
    ∧ (∀ (s : State) (rd a : XReg) (i : BitVec 12), (s.me.unacquired = true ∨ s.unreleased s.core 4 = true) →
      Parks (.fence rd a i) s true)
    ∧ (∀ (s : State) (k : BitVec 2) (c : BitVec 3), c.toNat < 2 → Does (.scopef k c) s s.me.retire)
    ∧ (∀ (s : State) (k : BitVec 2) (c : BitVec 3), s.me.unacquired = false → s.unreleased s.core c.toNat = false →
        Does (.scopef k c) s s.me.retire)
    ∧ (∀ (s : State) (c : BitVec 3), 2 ≤ c.toNat → s.unreleased s.core c.toNat = true →
        Parks (.scopef 1 c) s true ∧ Parks (.scopef 2 c) s true)
    ∧ (∀ (s : State) (c : BitVec 3), 2 ≤ c.toNat → s.me.unacquired = true →
        Parks (.scopef 0 c) s true ∧ Parks (.scopef 1 c) s true ∧ Parks (.scopef 2 c) s true)
    ∧ (∀ (s : State) (rd a : XReg) (i : BitVec 12), s.unreleased s.core 2 = true → Parks (.fenceI rd a i) s false)
    ∧ ∀ (s : State) (rd a : XReg) (i : BitVec 12), s.unreleased s.core 2 = false → ∃ t, exec (.fenceI rd a i) s = .next t
        ∧ t.slot s.sid = { s.me with follow := none }.retire
        ∧ (∀ k, (s.slot k).follows k s.sid = true → (t.slot k).follow = none)
        ∧ (∀ b, t.byte b = s.byte b) ∧ t.agenda = s.agenda
        ∧ (chanCore0 ≤ s.core → ∀ e, e ∈ (t.chan (s.core - chanCore0)).fbuf → e.1 ≠ s.me.asid)

/-- R255, R259, R409, R426, R471 and R40; SLICE_INSTANT and KERNEL_TIMER of R254. -/
def Obligations.SafePointsParksAndLoops : Prop :=
  (∀ (s : State) (k : BitVec 12), Does (.safept k) s { s.me.retire with spCount := 0, safeAt := some k.toNat })
    ∧ (∀ (s : State) (a : XReg), s.me.status = .ready → s.me.rx a = 0 → Does (.park a) s s.me.retire)
    ∧ (∀ (s : State) (a : XReg), s.me.status = .ready → s.me.rx a ≠ 0 →
        Does (.park a) s { s.me with status := .parked (.until (s.cycle + (s.me.rx a).toNat)), spCount := 0 })
    ∧ (∀ (s : State) (k c : Nat), (s.slot k).status = .parked (.until c) →
        SlotDoes (.parkExpiry k) s k (if c ≤ s.cycle then (s.slot k).retire else s.slot k))
    ∧ (∀ s : State, s.me.running = .user → Does .yield s { s.me.retire with spCount := 0, safeAt := some 0x1000 })
    ∧ (∀ s : State, isChan s.core = false → s.me.running ≠ .delegate → s.leaderCore s.sid ≠ s.core →
        ¬(lsBase.toNat ≤ s.me.retire.pc.toNat ∧ s.me.retire.pc.toNat < lsBase.toNat + 0x20000) →
        (s.slot (s.leaderCore s.sid * 16 + s.sid % 16)).status ∉ [Status.idle, .exited, .away] →
        ∃ t, exec .follow s = .next t ∧ OnlySlot s { t with agenda := s.agenda } s.sid ∧ t.agenda = s.agenda ++ [.followTimeout s.sid]
          ∧ t.slot s.sid = { s.me with follow := some ({ lead := s.leaderCore s.sid % 16, traps := (s.slot (s.leaderCore s.sid * 16 + s.sid % 16)).traps, since := s.cycle, matched := false, seen := [] } : Follow) }.retire)
    ∧ (∀ s : State, isChan s.core = false → s.me.running ≠ .delegate → s.leaderCore s.sid = s.core →
        Does .follow s s.me.retire)
    ∧ (∀ (s : State) (k : Nat) (f : Follow), (s.slot k).follow = some f → f.matched = false → f.since + 1024 ≤ s.cycle →
        SlotDoes (.followTimeout k) s k { s.slot k with follow := none })
    ∧ (∀ (s : State) (k : Nat) (f : Follow), (s.slot k).follow = some f → f.matched = false → s.cycle < f.since + 1024 →
        exec (.followTimeout k) s = .next (s.post (.followTimeout k)))
    ∧ (∀ (s : State) (k i : Nat), (s.slot k).sliceAt = some i → i ≤ s.ptp →
        ∃ sl, SlotDoes (.sliceInstant k) s k sl ∧ sl.sliceAt = none ∧ (1, BitVec.ofNat 64 i) ∈ sl.instants ∧ sl.x = (s.slot k).x)
    ∧ ∀ (s : State) (k i : Nat), (s.slot k).timerAt = some i → i ≤ s.ptp →
        ∃ sl, SlotDoes (.kernelTimer k) s k sl ∧ sl.timerAt = none ∧ (2, BitVec.ofNat 64 i) ∈ sl.instants ∧ sl.x = (s.slot k).x

/-- R251, R255 and R259, for INTERRUPT_ENTRY and SAFE_POINT_OVERDUE. -/
def Obligations.InterruptsAreTakenAtSafePoints : Prop :=
  (∀ (s : State) (k i : Nat), (s.slot k).level = .task → (s.slot k).preqReq = true → (s.slot k).status = .ready →
      (s.slot k).safeAt = some i →
      SlotDoes (.interruptEntry k) s k
        { ({ s.slot k with preqReq := false }.enter (Trap.irq 0 (BitVec.ofNat 64 i))) with
          spCount := 0, savedAway := (s.slot k).savedAway, saved := 0 })
    ∧ (∀ (s : State) (k : Nat), (s.slot k).atSafePoint = false → exec (.interruptEntry k) s = .next s)
    ∧ (∀ (s : State) (k : Nat), (s.slot k).level = .monitor → exec (.interruptEntry k) s = .next s)
    ∧ (∀ (s : State) (k : Nat), (s.slot k).level = .task → (s.slot k).preqReq = true → (s.slot k).status = .ready →
        (s.slot k).safeb.toNat % 2 ^ 32 ≤ (s.slot k).spCount →
        SlotDoes (.safePointOverdue k) s k ((s.slot k).enter (Trap.sync 17 (BitVec.ofNat 64 (s.slot k).spCount))))
    ∧ ∀ (s : State) (k : Nat), ((s.slot k).level ≠ .task ∨ (s.slot k).preqReq = false
        ∨ (s.slot k).spCount < (s.slot k).safeb.toNat % 2 ^ 32) → exec (.safePointOverdue k) s = .next s

/-- R41, R43, R44 and R372, with SPAWN_EXIT_REPORT. -/
def Obligations.ExitEndsTheSlot : Prop :=
  (∀ s : State, s.me.running = .user → s.mayLeave →
      ∃ t, exec .exit s = .next t ∧ (t.slot s.sid).status = .exited ∧ (t.slot s.sid).x = s.me.x
        ∧ (t.clusterSt s.cluster).done.exits = (s.clusterSt s.cluster).done.exits + 1 ∧ t.mem = s.mem)
    ∧ (∀ s : State, isChan s.core = false → (s.clusterSt s.cluster).holder = some s.sid →
        Traps .exit s (Trap.sync 20 0))
    ∧ (∀ s : State, (isChan s.core = true ∨ (s.clusterSt s.cluster).holder ≠ some s.sid) → s.me.openCopies ≠ 0 →
        Traps .exit s (Trap.sync 11 (BitVec.ofNat 64 s.me.openCopies)))
    ∧ (∀ s : State, (isChan s.core = true ∨ (s.clusterSt s.cluster).holder ≠ some s.sid) → s.me.openCopies = 0 →
        s.me.cdlvl ≠ 0 → Traps .exit s (Trap.sync 11 (BitVec.ofNat 64 s.me.cdlvl) 1))
    ∧ ∀ (s : State) (tid l cl : Nat) (f : BitVec 6) (tm : Team), s.team? tid = some tm → tm.place[l]? = some cl →
        ∃ t, exec (.spawnExitReport tid l f) s = .next t
          ∧ (t.clusterSt cl).spawned = (s.clusterSt cl).spawned - 1
          ∧ (t.clusterSt cl).done.exits = (s.clusterSt cl).done.exits + 1
          ∧ (t.clusterSt cl).done.err = (s.clusterSt cl).done.err ||| errOfFlags f
          ∧ t.mem = s.mem ∧ t.slots = s.slots

/-- R35, R36, R38, R363, R364, R377, R392 and R438. `s'` is the state as the translation of the target leaves it. -/
def Obligations.TravellersLeave : Prop :=
  (∀ (s s' : State) (a : XReg), s.me.running ≠ .delegate → s.mayLeave → s.targetOwner (s.me.rx a) = .ok (s.core, s') →
      exec (.migr a) s = .next (s'.modSlot s.sid (·.retire)))
    ∧ (∀ (s s' : State) (a : XReg) (o : Nat), s.me.running ≠ .delegate → s.mayLeave →
        s.targetOwner (s.me.rx a) = .ok (o, s') → o ≠ s.core → s.me.pending = [] → s.releaseWaits = false →
        let p := s.packetOf s.sid (match s.me.trav with | some v => v.kind | none => 0) (s.me.rx a) (s.me.pc + 4)
        Sends (.migr a) s s' (.travellerArrival p o s.sid 0 p.crc) .moving)
    ∧ (∀ (s s' : State) (a b : XReg) (o : Nat), routineTrap (s.me.rx b) = none →
        s.targetOwner (s.me.rx a) = .ok (o, s') → s.releaseWaits = false →
        let p := s.packetOf s.sid 1 (s.me.rx a) (s.me.rx b)
        Sends (.spawn a b) s s' (.travellerArrival p o s.sid 0 p.crc) .reply)
    ∧ (∀ (s s' : State) (a b : XReg) (o : Nat), routineTrap (s.me.rx b) = none →
        s.targetOwner (s.me.rx a) = .ok (o, s') → s.releaseWaits = false →
        let p := s.packetOf s.sid 2 (s.me.rx a) (s.me.rx b)
        Sends (.deleg a b) s s' (.travellerArrival p o s.sid 0 p.crc) .reply)
    ∧ (∀ (s s' : State) (a b : XReg) (h : BitVec 4) (o : Nat), s.me.running ≠ .delegate → routineTrap (s.me.rx b) = none →
        s.targetOwner (s.me.rx a) = .ok (o, s') → s.releaseWaits = false →
        let p := { s.packetOf s.sid 2 (s.me.rx a) (s.me.rx b) with
          reply := BitVec.ofNat 32 (h.toNat + 16 + s.me.delegSeq % 2 ^ 24 * 256) }
        Sends (.delegReply a b h) s s' (.travellerArrival p o s.sid 0 p.crc) .reply)
    ∧ (∀ s : State, s.me.running ≠ .migrated → Traps .home s (Trap.sync 2 (wordOf .home)))
    ∧ (∀ s : State, s.me.running = .migrated → s.mayLeave → s.me.pending = [] → s.releaseWaits = false →
        ∃ t, exec .home s = .next t ∧ (t.slot s.sid).status = .idle ∧ t.mem = s.mem
          ∧ Event.homePacketArrival ⟨s.packetOf s.sid 4 0 (s.me.pc + 4), (s.packetOf s.sid 4 0 (s.me.pc + 4)).crc⟩ ∈ t.agenda ∧ ∀ k, k ≠ s.sid → t.slot k = s.slot k)
    ∧ ∀ (s : State) (k kind : Nat) (a e : Word), (s.packetOf k kind a e).pc = e ∧ (s.packetOf k kind a e).target = a
        ∧ (s.packetOf k kind a e).origin = (s.slot k).coord ∧ (s.packetOf k kind a e).t0 = (s.slot k).rx 5
        ∧ (s.packetOf k kind a e).t1 = (s.slot k).rx 6 ∧ (s.packetOf k kind a e).p0 = (s.slot k).rp 0
        ∧ ∀ i, i < 8 → (s.packetOf k kind a e).a[i]? = some ((s.slot k).rx (BitVec.ofNat 5 (10 + i)))

/-- R131, R132, R373 and R440. A word of another core's local store is reached by an active message for that core's innkeeper (R125). LDFK and LDFE end with an acquire: with replies outstanding the slot waits for them, its register written. The host port page is apart (R304). -/
def Obligations.PresenceInstructions : Prop :=
  let at' := fun (s : State) (a : XReg) (store : Bool) (h : Hit) => (s.me.rx a).toNat % 8 = 0
    ∧ (if store then s.locateStore s.sid (s.me.rx a) 8 else s.locate s.sid (s.me.rx a) 8 .load) = .ok h
  let own := fun (s : State) (a : XReg) (store : Bool) (h : Hit) => at' s a store h ∧ isOwn s.sid h.pa = true
    ∧ h.st.bad (h.pa / 8) = false ∧ h.st.waits (h.st.waitAt h.pa) = [] ∧ h.st.flips = []
    ∧ h.pa / 64 ≠ h.st.hostPage / 64 ∧ h.st.plainWrites s.sid ∧ h.st.inFlight h.st.core h.pa 8 true = false
  let request := fun (s : State) (a : XReg) (h : Hit) (r : PresReq) => match innkeeperOf s.sid h.pa with
    | none => Event.presenceRequest r
    | some c =>
      let p := h.st.activePacket s.sid (s.me.rx a) (.pres r)
      Event.travellerArrival p c s.sid 0 p.crc
  (∀ (s : State) (d a : XReg) (h : Hit), own s a false h → s.me.unacquired = false → h.st.full (h.pa / 8) = true →
      ∃ t, exec (.ldfk d a) s = .next t
        ∧ t.slot s.sid = ((h.st.slot s.sid).wx d (BitVec.ofNat 64 (h.st.rd h.pa 8))).retire
        ∧ t.mem = h.st.mem ∧ ∀ w, t.full w = h.st.full w)
    ∧ (∀ (s : State) (d a : XReg) (h : Hit), own s a true h → s.me.unacquired = false → h.st.full (h.pa / 8) = true →
      ∃ t, exec (.ldfe d a) s = .next t
        ∧ t.slot s.sid = ((h.st.slot s.sid).wx d (BitVec.ofNat 64 (h.st.rd h.pa 8))).retire
        ∧ t.mem = h.st.mem ∧ t.full (h.pa / 8) = false)
    ∧ (∀ (s : State) (d a : XReg) (h : Hit), own s a false h → s.me.unacquired = true → h.st.full (h.pa / 8) = true →
      ∃ t, exec (.ldfk d a) s = .next t
        ∧ t.slot s.sid = ((h.st.slot s.sid).wx d (BitVec.ofNat 64 (h.st.rd h.pa 8))).parkOn .acq ∧ t.mem = h.st.mem)
    ∧ (∀ (s : State) (b a : XReg) (h : Hit), own s a true h → s.releaseWaits = false → h.st.full (h.pa / 8) = false →
      ∃ t, exec (.stef b a) s = .next t ∧ t.slot s.sid = (h.st.slot s.sid).retire
        ∧ t.rd h.pa 8 = (s.me.rx b).toNat ∧ SameBut h.st t h.pa 8 ∧ t.full (h.pa / 8) = true)
    ∧ (∀ (s : State) (b a : XReg) (h : Hit), own s a true h → s.releaseWaits = false →
      ∃ t, exec (.stfl b a) s = .next t ∧ t.slot s.sid = (h.st.slot s.sid).retire
        ∧ t.rd h.pa 8 = (s.me.rx b).toNat ∧ SameBut h.st t h.pa 8 ∧ t.full (h.pa / 8) = true)
    ∧ (∀ (s : State) (d a : XReg) (h : Hit), own s a false h →
      ∃ t, exec (.feget d a) s = .next t
        ∧ t.slot s.sid = ((h.st.slot s.sid).wx d (if h.st.full (h.pa / 8) then 1 else 0)).retire ∧ t.mem = h.st.mem)
    ∧ (∀ (s : State) (b a : XReg) (h : Hit), own s a true h →
      ∃ t, exec (.feput b a) s = .next t ∧ t.slot s.sid = (h.st.slot s.sid).retire
        ∧ t.mem = h.st.mem ∧ t.full (h.pa / 8) = (s.me.rx b).getLsbD 0)
    ∧ (∀ (s : State) (r a : XReg) (h : Hit), own s a true h →
      (h.st.full (h.pa / 8) = false → ∃ t, exec (.ldfe r a) s = .next t ∧ (t.slot s.sid).status = .parked .pres
        ∧ s.presReq .ldfe h.pa 0 r (s.me.rx a) ∈ t.waits (t.waitAt h.pa) ∧ t.mem = h.st.mem)
      ∧ (s.releaseWaits = false → h.st.full (h.pa / 8) = true → ∃ t, exec (.stef r a) s = .next t ∧ (t.slot s.sid).status = .parked .pres
        ∧ s.presReq .stef h.pa (s.me.rx r) 0 (s.me.rx a) ∈ t.waits (t.waitAt h.pa) ∧ t.mem = h.st.mem))
    ∧ (∀ (s : State) (r a : XReg) (h : Hit), at' s a false h → isOwn s.sid h.pa = false →
      Sends (.ldfk r a) s h.st (request s a h (s.presReq .ldfk h.pa 0 r (s.me.rx a))) .pres
      ∧ Sends (.feget r a) s h.st (request s a h (s.presReq .feget h.pa 0 r (s.me.rx a))) .reply)
    ∧ ∀ (s : State) (r a : XReg) (h : Hit), at' s a true h → isOwn s.sid h.pa = false →
      Sends (.ldfe r a) s h.st (request s a h (s.presReq .ldfe h.pa 0 r (s.me.rx a))) .pres
      ∧ (s.releaseWaits = false → Sends (.stef r a) s h.st (request s a h (s.presReq .stef h.pa (s.me.rx r) 0 (s.me.rx a))) .pres
        ∧ exec (.stfl r a) s = .next ((h.st.post (request s a h (s.presReq .stfl h.pa (s.me.rx r) 0 (s.me.rx a)))).modSlot
          s.sid (·.retire)))
      ∧ exec (.feput r a) s = .next ((h.st.post (request s a h (s.presReq .feput h.pa (s.me.rx r) 0 (s.me.rx a)))).modSlot
          s.sid (·.retire))

/-- R133 and R134, for PRESENCE_REQUEST and PRESENCE_RETRY. -/
def Obligations.PresenceRequests : Prop :=
  (∀ (s : State) (r : PresReq), s.presLive r = true → s.presHolds r = false →
      (s.waits (s.waitAt r.pa)).length < (s.waitAt r.pa).size →
      exec (.presenceRequest r) s = .next (s.setWaits (s.waitAt r.pa) (s.waits (s.waitAt r.pa) ++ [r])))
    ∧ (∀ (s : State) (r : PresReq), s.presLive r = true → s.presHolds r = false →
      (s.waitAt r.pa).size ≤ (s.waits (s.waitAt r.pa)).length →
      if 1023 ≤ r.tries then SlotDoes (.presenceRequest r) s r.sid ((s.slot r.sid).enter (Trap.sync 22 r.va))
      else exec (.presenceRequest r) s = .next (s.post (.presenceRetry { r with tries := r.tries + 1 } (s.cycle + 64))))
    ∧ (∀ (s : State) (r : PresReq) (d : Nat), s.presLive r = false →
      exec (.presenceRequest r) s = .next s ∧ exec (.presenceRetry r d) s = .next s)
    ∧ (∀ (s : State) (r : PresReq) (d : Nat), s.presLive r = true →
      exec (.presenceRetry r d) s = if d ≤ s.cycle then exec (.presenceRequest r) s else .next (s.post (.presenceRetry r d)))
    ∧ ∀ (s : State) (r : PresReq), r.op = .ldfk → s.presLive r = true → (s.slot r.sid).pending = [] → s.full (r.pa / 8) = true →
      s.bad (r.pa / 8) = false → s.flips = [] → s.waits (s.waitAt r.pa) = [] →
      ∃ t, exec (.presenceRequest r) s = .next t
        ∧ t.slot r.sid = ((s.slot r.sid).wx r.rd (BitVec.ofNat 64 (s.rd r.pa 8))).retire ∧ t.mem = s.mem

/-- R37 and R185 to R188. n is the atomic's width in bytes; `ok`: aligned, translated for a store, and nothing that a release (.rl) waits for. An atomic goes to its word's owner in a packet, joins the queue there or is refused, and leaves a vault controller's queue in arrival order. The integer results of R186 are stated, and the NaN row of R188. -/
def Obligations.AtomicsAtMemory : Prop :=
  let ok := fun (s : State) (a : XReg) (n : Nat) (rl : Bool) (h : Hit) => (s.me.rx a).toNat % n = 0
    ∧ s.locateStore s.sid (s.me.rx a) n = .ok h ∧ (rl = true → s.releaseWaits = false)
  let form := fun (mk : Bool → Bool → Bool → Instr) (op : AtomOp) (n : Nat) (s : State) (rd b a : XReg) =>
    (∀ nr aq rl, (s.me.rx a).toNat % n ≠ 0 → Traps (mk nr aq rl) s (Trap.sync 6 (s.me.rx a)))
    ∧ (∀ aq rl h, ok s a n rl h →
        let p := s.updatePacket (mk true aq rl) (s.me.rx a) (s.me.rx b) (if op = .cas then s.me.rx rd else 0)
        Sends (mk true aq rl) s h.st (.travellerArrival p (s.atomOwner h.pa) s.sid 0 p.crc) .reply)
    ∧ ∀ aq rl h, ok s a n rl h → s.me.pending.length < 8 →
        let p := s.activePacket s.sid (s.me.rx a) (.atom { sid := s.sid, op := op, nr := false, aq := aq, pa := h.pa, b := s.me.rx b, cmp := s.me.rx rd, rd := rd, va := s.me.rx a })
        exec (mk false aq rl) s = .next ((h.st.post (.travellerArrival p (s.atomOwner h.pa) s.sid 0 p.crc)).modSlot s.sid fun sl =>
          { sl.parkOn .atom with pending := sl.pending ++ [⟨3, rd.toNat⟩] })
  (∀ (s : State) (rd b a : XReg),
    form (Instr.amadd rd b a) .add 8 s rd b a
    ∧ form (Instr.amand rd b a) .and 8 s rd b a
    ∧ form (Instr.amor rd b a) .or 8 s rd b a
    ∧ form (Instr.amxor rd b a) .xor 8 s rd b a
    ∧ form (Instr.ammax rd b a) .max 8 s rd b a
    ∧ form (Instr.ammin rd b a) .min 8 s rd b a
    ∧ form (Instr.amswap rd b a) .swap 8 s rd b a
    ∧ form (Instr.amcas rd b a) .cas 8 s rd b a
    ∧ form (Instr.amfadd rd b a) .fadd 4 s rd b a
    ∧ form (Instr.amfmax rd b a) .fmax 4 s rd b a)
    ∧ (∀ (s : State) (p : Packet) (r : AtomReq) (o k n : Nat), p.act = some (.atom r) →
      ((s.queueOf o).length < queueSize o →
        exec (.travellerArrival p o k n p.crc) s
          = .next ((s.setQueue o (s.queueOf o ++ [{ p := p, arrived := s.cycle }])).post (.runQueueRelease o)))
      ∧ (queueSize o ≤ (s.queueOf o).length → n < 63 → ∃ t, exec (.travellerArrival p o k n p.crc) s = .next t
        ∧ t.mem = s.mem ∧ t.slots = s.slots ∧ t.agenda = s.agenda ++ [.travellerRetry p o k (n + 1) (s.cycle + 256)])
      ∧ (queueSize o ≤ (s.queueOf o).length → 63 ≤ n → k ≠ noSlot → (s.slot r.sid).status = .parked .atom →
        (s.slot r.sid).frame = none → ∃ t, exec (.travellerArrival p o k n p.crc) s = .next t ∧ t.mem = s.mem
          ∧ t.slot r.sid = ({ s.slot r.sid with pending := (s.slot r.sid).pending.erase ⟨3, r.rd.toNat⟩ }.enter (Trap.sync 18 p.target)))
      ∧ ∀ e q, vaultOwner0 ≤ o → s.busyOf o = none → s.queueOf o = e :: q → e.p = p →
        exec (.runQueueRelease o) s = .next (((s.setQueue o q).setBusy o (some p)).post (.atomicAtOwner r)))
    ∧ (∀ (s : State) (r : AtomReq), s.bad (r.pa / 8) = false → s.flips = [] → s.plainWrites r.sid → r.pa / 64 ≠ s.hostPage / 64 →
      let n := if r.op = .fadd ∨ r.op = .fmax then 4 else 8
      let old := BitVec.ofNat 64 (s.rd r.pa n)
      ∃ t, exec (.atomicAtOwner r) s = .next t ∧ Event.atomicReply r old (atomF r.op old r.b).2 ∈ t.agenda
        ∧ (∀ k, t.slot k = s.slot k) ∧ SameBut s t r.pa n
        ∧ t.rd r.pa n = if r.op = .cas ∧ old ≠ r.cmp then s.rd r.pa n else (atomF r.op old r.b).1.toNat % 2 ^ (8 * n))
    ∧ (∀ x y : Word, atomF .add x y = (x + y, 0) ∧ atomF .and x y = (x &&& y, 0) ∧ atomF .or x y = (x ||| y, 0)
      ∧ atomF .xor x y = (x ^^^ y, 0) ∧ atomF .max x y = (if x.toInt < y.toInt then y else x, 0)
      ∧ atomF .min x y = (if y.toInt < x.toInt then y else x, 0) ∧ atomF .swap x y = (y, 0) ∧ atomF .cas x y = (y, 0)
      ∧ (((decodeF fp32 (x.toNat % 2 ^ 32)).isNaN = true ∨ (decodeF fp32 (y.toNat % 2 ^ 32)).isNaN = true) →
          atomF .fadd x y = (0x7FC00000, 16) ∧ atomF .fmax x y = (0x7FC00000, 16)))
    ∧ ∀ (s : State) (r : AtomReq) (old : Word) (f : BitVec 6), (s.slot r.sid).pending.contains ⟨3, r.rd.toNat⟩ = true →
      (s.slot r.sid).status = .parked .atom → (s.slot r.sid).frame = none →
      (r.aq = false ∨ (s.slot r.sid).pending.erase ⟨3, r.rd.toNat⟩ = []) →
      SlotDoes (.atomicReply r old f) s r.sid
        (({ s.slot r.sid with pending := (s.slot r.sid).pending.erase ⟨3, r.rd.toNat⟩ }.wx r.rd old).retire.orFlags f)

/-- R63, R293, R295, R390, R423 and R424. `req` is the request built from entry h of the slot's window table. A destination still pending, or eight outstanding replies, or an unfinished multicast parks the instruction. -/
def Obligations.RemoteAccessesAreIssued : Prop :=
  let req := fun (s : State) (w : Word) (n : Nat) (st : Bool) (d : VWord) (u : RemUse) =>
    s.remReq s.sid u (ptrHandle w) (ptrOff w) n st d w
  let ok := fun (s : State) (w : Word) (n : Nat) (st mc : Bool) => isChan s.core = false ∧ isRemote w = true
    ∧ ptrOff w % n = 0 ∧ s.senderOk s.me (ptrHandle w) (ptrOff w) n st mc = true
  let waits := fun (i : Instr) (s : State) (w : Word) (n : Nat) (st : Bool) (d : VWord) (u : RemUse) =>
    isRemote w = true → w.toNat % n = 0 →
      if s.senderOk s.me (ptrHandle w) (ptrOff w) n st false = true
      then exec i s = .next ((s.sendRem (req s w n st d u)).modSlot s.sid (·.parkOn .reply))
      else Traps i s (Trap.sync 10 w)
  let checks := fun (i : Instr) (s : State) (w : Word) (n c d : Nat) (st mc : Bool) =>
    (isChan s.core = true → Traps i s (Trap.sync 2 (wordOf i)))
    ∧ (isChan s.core = false → isRemote w = false → Traps i s (Trap.sync c w))
    ∧ (isChan s.core = false → isRemote w = true → ptrOff w % n ≠ 0 → Traps i s (Trap.sync d w))
    ∧ (isChan s.core = false → isRemote w = true → ptrOff w % n = 0 →
        s.senderOk s.me (ptrHandle w) (ptrOff w) n st mc = false → Traps i s (Trap.sync 10 w))
  let loads := fun (i : Instr) (s : State) (w : Word) (n : Nat) (busy : Bool) (p : PendRep) (u : RemUse) =>
    checks i s w n 5 4 false false
    ∧ (ok s w n false false → busy = false → s.me.pending.length < 8 →
        exec i s = .next ((s.sendRem (req s w n false 0 u)).modSlot s.sid fun sl =>
          { sl with pending := sl.pending ++ [p] }.retire))
    ∧ (ok s w n false false → (busy = true ∨ 8 ≤ s.me.pending.length) → Parks i s false)
  let stores := fun (i : Instr) (s : State) (w : Word) (n : Nat) (d : VWord) =>
    checks i s w n 7 6 true false
    ∧ (ok s w n true false → exec i s = .next ((s.sendRem (req s w n true d .posted)).modSlot s.sid (·.retire)))
  let casts := fun (i : Instr) (s : State) (w : Word) (n : Nat) (d : VWord) =>
    let k := (s.winEntry s.me.winbase (ptrHandle w)).nmem
    let member := fun (j : Nat) => s.remReq s.sid (.member j) (ptrHandle w + 1 + j) (ptrOff w) n true d w
    checks i s w n 7 6 true true
    ∧ (ok s w n true true → s.me.mcast.isSome = true → Parks i s false)
    ∧ (ok s w n true true → s.me.mcast = none →
        (∀ j, j < k → s.senderOk s.me (ptrHandle w + 1 + j) (ptrOff w) n true false = true) →
        ∃ t, exec i s = .next t ∧ t.mem = s.mem
          ∧ t.slot s.sid = { s.me with
              mcast := if k = 0 then none else some { ptr := w, left := List.range k, failed := [] } }.retire
          ∧ ∀ j, j < k → member j ∈ t.remStores
              ∧ (Event.remoteAccessArrival (member j) ∈ t.agenda ∨ ∃ h l g, Event.packetRoute h l g (.remoteAccessArrival (member j)) ∈ t.agenda))
  ∀ (s : State) (rd a : XReg) (i : BitVec 12) (v : VReg),
    let at' := s.me.rx a + i.signExtend 64
    waits (.lb rd a i) s at' 1 false 0 (.waitX rd true)
    ∧ waits (.lh rd a i) s at' 2 false 0 (.waitX rd true)
    ∧ waits (.lw rd a i) s at' 4 false 0 (.waitX rd true)
    ∧ waits (.ld rd a i) s at' 8 false 0 (.waitX rd false)
    ∧ waits (.lbu rd a i) s at' 1 false 0 (.waitX rd false)
    ∧ waits (.lhu rd a i) s at' 2 false 0 (.waitX rd false)
    ∧ waits (.lwu rd a i) s at' 4 false 0 (.waitX rd false)
    ∧ waits (.sb rd a i) s at' 1 true ((s.me.rx rd).zeroExtend 512) (.waitS)
    ∧ waits (.sh rd a i) s at' 2 true ((s.me.rx rd).zeroExtend 512) (.waitS)
    ∧ waits (.sw rd a i) s at' 4 true ((s.me.rx rd).zeroExtend 512) (.waitS)
    ∧ waits (.sd rd a i) s at' 8 true ((s.me.rx rd).zeroExtend 512) (.waitS)
    ∧ waits (.vld v a) s (s.me.rx a) 64 false 0 (.waitV v)
    ∧ waits (.vst v a) s (s.me.rx a) 64 true (s.me.rv v) (.waitS)
    ∧ loads (.rld rd a) s (s.me.rx a) 8 (s.me.pendingX rd) ⟨1, rd.toNat⟩ (.pendX rd)
    ∧ loads (.rldv v a) s (s.me.rx a) 64 (s.me.pendingV v) ⟨2, 32 + v.toNat⟩ (.pendV v)
    ∧ stores (.rst rd a) s (s.me.rx a) 8 ((s.me.rx rd).zeroExtend 512)
    ∧ stores (.rstv v a) s (s.me.rx a) 64 (s.me.rv v)
    ∧ casts (.mcst rd a) s (s.me.rx a) 8 ((s.me.rx rd).zeroExtend 512)
    ∧ casts (.mcstv v a) s (s.me.rx a) 64 (s.me.rv v)

/-- R12, R20, R288, R289, R293 to R297 and R425. The slot's clauses are for a slot that has neither exited nor been saved. `answered`: the answer's place is free again, and a store is outstanding no more. -/
def Obligations.RemoteAccessesAreServed : Prop :=
  let answers := fun (i : Instr) (s : State) (r : RemReq) (sl : Slot) => ∃ t, exec i s = .next t ∧ OnlySlot (s.answered r) t r.sid
    ∧ t.slot r.sid = sl
  let here := fun (s : State) (k : Nat) => (s.slot k).status ≠ .exited ∧ (s.slot k).status ≠ .idle ∧ s.isSaved k = false
  (∀ (s : State) (r : RemReq), s.serve r = .reject →
      let s' := s.modTeam r.team fun t => { t with rejects := t.rejects + 1 }
      exec (.remoteAccessArrival r) s = .next (if r.src = s.ownPkg.toNat then s'.post (.remoteRejectReport r)
        else s'.inject true (.remoteRejectReport r)))
    ∧ (∀ (s s' : State) (r : RemReq), s.serve r = .stored s' →
      exec (.remoteAccessArrival r) s = .next (if r.src = s.ownPkg.toNat then s'.post (.remoteStoreAcknowledge r)
        else s'.inject true (.remoteStoreAcknowledge r)))
    ∧ (∀ (s s' : State) (r : RemReq) (v : VWord) (b : Bool), s.serve r = .loaded v b s' →
      exec (.remoteAccessArrival r) s = .next (if r.src = s.ownPkg.toNat then s'.post (.remoteReplyArrival r v b)
        else s'.inject true (.remoteReplyArrival r v b)))
    ∧ (∀ (s : State) (r : RemReq), s.team? r.team = none → s.serve r = .reject)
    ∧ (∀ (s : State) (r : RemReq) (t : Team), s.team? r.team = some t →
      let e := s.winEntry t.winb 0
      (t.winl = 0 ∨ e.v = false ∨ r.key ≠ e.key ∨ (r.store = true ∧ e.wr = false) ∨ (r.store = false ∧ e.rd = false)
        ∨ r.addr.toNat < e.base.toNat ∨ e.base.toNat + e.limit < r.addr.toNat + r.size
        ∨ isRemote r.addr = true ∨ isMalformed r.addr = true) → s.serve r = .reject)
    ∧ (∀ (s : State) (r : RemReq) (t : Team) (h : Hit), s.team? r.team = some t →
      let e := s.winEntry t.winb 0
      (t.winl ≠ 0 ∧ e.v = true ∧ e.zeroOk = true ∧ r.key = e.key ∧ e.base.toNat ≤ r.addr.toNat
        ∧ r.addr.toNat + r.size ≤ e.base.toNat + e.limit ∧ t.state ≤ 2 ∧ r.addr.extractLsb' 57 7 = 0 ∧ inWindows r.addr = false) →
      r.store = false → e.rd = true → s.resolve { t.ctx r.team with level := .task, thread := true } r.addr r.size .load = .ok h →
      s.serve r = .loaded (BitVec.ofNat 512 (h.st.rd h.pa r.size)) (h.st.badAt h.pa r.size) h.st)
    ∧ (∀ (s : State) (r : RemReq) (v : VWord) (rd : XReg) (vd : VReg) (sg : Bool), (s.slot r.sid).frame = none →
      (r.use = .pendX rd → (s.slot r.sid).pending.contains ⟨1, rd.toNat⟩ = true →
        answers (.remoteReplyArrival r v false) s r
          ({ s.slot r.sid with pending := (s.slot r.sid).pending.erase ⟨1, rd.toNat⟩ }.wx rd (v.extractLsb' 0 64)))
      ∧ (r.use = .pendV vd → (s.slot r.sid).pending.contains ⟨2, 32 + vd.toNat⟩ = true →
        answers (.remoteReplyArrival r v false) s r
          ({ s.slot r.sid with pending := (s.slot r.sid).pending.erase ⟨2, 32 + vd.toNat⟩ }.wv vd v))
      ∧ (r.use = .waitX rd sg → (s.slot r.sid).status = .parked .reply →
        answers (.remoteReplyArrival r v false) s r (((s.slot r.sid).deliver (.scalar rd sg) r.size v.toNat).retire))
      ∧ (r.use = .waitV vd → (s.slot r.sid).status = .parked .reply →
        answers (.remoteReplyArrival r v false) s r (((s.slot r.sid).wv vd v).retire)))
    ∧ (∀ (s : State) (r : RemReq), (r.use = .posted → exec (.remoteStoreAcknowledge r) s = .next (s.answered r))
      ∧ (r.use = .waitS → (s.slot r.sid).status = .parked .reply →
        answers (.remoteStoreAcknowledge r) s r (s.slot r.sid).retire)
      ∧ (s.answered r).remStores = s.remStores.erase r ∧ { s.answered r with remStores := s.remStores, coreTab := s.coreTab } = s
      ∧ (s.answered r).coreSt (coreOf r.sid) = if r.pkg = s.ownPkg.toNat then s.coreSt (coreOf r.sid)
          else { s.coreSt (coreOf r.sid) with reserved := (s.coreSt (coreOf r.sid)).reserved - 1 })
    ∧ (∀ (s : State) (r : RemReq) (rd : XReg), here s r.sid →
      (r.use = .posted → ∃ t, exec (.remoteRejectReport r) s = .next t ∧ t.mem = s.mem
        ∧ t.slot r.sid = { s.slot r.sid with due := (s.slot r.sid).due ++ [Trap.sync 10 r.ptr] })
      ∧ (r.use = .pendX rd → (s.slot r.sid).frame = none → (s.slot r.sid).pending.contains ⟨1, rd.toNat⟩ = true →
        ∃ t, exec (.remoteRejectReport r) s = .next t ∧ t.mem = s.mem
          ∧ t.slot r.sid = { s.slot r.sid with pending := (s.slot r.sid).pending.erase ⟨1, rd.toNat⟩, due := (s.slot r.sid).due ++ [Trap.sync 10 r.ptr] })
      ∧ (r.use = .waitS → (s.slot r.sid).status = .parked .reply → ∃ t, exec (.remoteRejectReport r) s = .next t
        ∧ t.slot r.sid = (s.slot r.sid).enter (Trap.sync 10 r.ptr) ∧ t.mem = s.mem))
    ∧ (∀ (s : State) (k j : Nat) (m : Mcast), (s.slot k).mcast = some m → j ∈ m.left →
      (m.left.erase j ≠ [] → SlotDoes (.multicastMemberReport k j true) s k
        { s.slot k with mcast := some { m with left := m.left.erase j } })
      ∧ (m.left = [j] → m.failed = [] → SlotDoes (.multicastMemberReport k j true) s k { s.slot k with mcast := none })
      ∧ (m.left = [j] → m.failed = [] → here s k → ∃ t, exec (.multicastMemberReport k j false) s = .next t ∧ t.mem = s.mem
        ∧ t.slot k = { s.slot k with mcast := none, due := (s.slot k).due ++ [Trap.sync 19 m.ptr (BitVec.ofNat 64 (2 ^ j))] }))
    ∧ (∀ (s : State) (e : Event) (d : Nat), s.destPkg e = none → s.destDie e = some d →
      let m := s.dmapAt (s.identityOf d)
      (m.held = true → s.route e = .hold) ∧ (m.held = false → m.v = false → s.route e = .drop)
      ∧ (m.held = false → m.v = true → m.pkg = s.ownPkg → s.route e = .deliver)
      ∧ (m.held = false → m.v = true → m.pkg ≠ s.ownPkg → s.route e = .away m.pkg.toNat))
    ∧ ∀ (s : State) (h : Hop) (l : Nat) (g : Bool) (e : Event),
      (s.route e = .hold → exec (.packetRoute h l g e) s = .next (s.post (.packetRoute h l g e)))
      ∧ (s.route e = .deliver → exec (.packetRoute h l g e) s = .next (s.post e))
      ∧ (∀ r pa va els, e = .loadAtOwner r → r.els = (pa, va) :: els → (s.slot r.sid).status = .parked .reply → s.route e = .drop →
        ∃ t, exec (.packetRoute h l g e) s = .next t ∧ tget 0 t.misroute (routerOf e) = tget 0 s.misroute (routerOf e) + 1
          ∧ t.slot r.sid = (s.slot r.sid).enter (Trap.sync 5 va) ∧ t.mem = s.mem ∧ t.agenda = s.agenda)
      ∧ (∀ r, e = .storeAtOwner r → here s r.sid → s.route e = .drop →
        ∃ t, exec (.packetRoute h l g e) s = .next t ∧ t.slot r.sid = { s.slot r.sid with due := (s.slot r.sid).due ++ [Trap.sync 7 r.va] }
          ∧ t.mem = s.mem)
      ∧ ∀ pkg, s.route e = .away pkg → l < 2 → ∃ h' t, exec (.packetRoute h l g e) s = .next t ∧ Event.packetRoute h' (l + 1) g e ∈ t.agenda
        ∧ h'.reply = h.reply ∧ (4 ≤ h.vc → h'.vc = 4) ∧ (h'.vc = h.vc ∨ h'.vc = 4)
        ∧ (h'.vc = 4 → h'.up = (pkg ^^^ ((s.destDie e).elim 0 s.identityOf * 16)) % max 1 (Config.upPorts l))
        ∧ h'.up < max 1 (Config.upPorts l) ∧ t.mem = s.mem ∧ t.slots = s.slots

/-- R153 to R158, R337, R338, R350, R351, R354, R362. `copyFits` names what would trap or park. The burst is of a copy without a graph; `readIdx` pins the index of the element in delivery as it is read before the element is written (R154). -/
def Obligations.CopiesAreAcceptedAndDelivered : Prop :=
  (∀ (s : State) (ch : BitVec 2) (bc : Option (BitVec 3)) (d a v : XReg),
      let c := fun (k : Nat) => s.formed k bc (s.me.rx d) (s.me.rx a) (s.me.rx v)
      (8 ≤ (s.me.rx v).toNat ∧ (s.me.rx v).toNat ≤ 2 ^ 32 - 8 ∧ (s.me.rx v).toNat % 8 = 0 → s.copyFits (c 0) ch →
        s.accepts (.cpy ch bc d a v) (c 0) ch)
      ∧ (∀ c', s.readDesc (c 1) (s.me.rx v) = some c' → s.copyFits c' ch → s.accepts (.cpy2d ch bc d a v) c' ch)
      ∧ (∀ c', s.readDesc (c 2) (s.me.rx v) = some c' → s.copyFits c' ch → s.accepts (.cpyg ch bc d a v) c' ch)
      ∧ (∀ c', s.readDesc (c 3) (s.me.rx v) = some c' → s.copyFits c' ch → s.accepts (.cpys ch bc d a v) c' ch)
      ∧ (isChan s.core = false → (s.me.rx a).toNat % 8 ≠ 0 → Traps (.cpy ch bc d a v) s (Trap.sync 4 (s.me.rx a))
        ∧ Traps (.cpy2d ch bc d a v) s (Trap.sync 4 (s.me.rx a)) ∧ Traps (.cpyg ch bc d a v) s (Trap.sync 4 (s.me.rx a))
        ∧ Traps (.cpys ch bc d a v) s (Trap.sync 4 (s.me.rx a)))
      ∧ (isChan s.core = false → (s.me.rx a).toNat % 8 = 0 → (s.me.rx d).toNat % 8 ≠ 0 →
        Traps (.cpy ch bc d a v) s (Trap.sync 6 (s.me.rx d)) ∧ Traps (.cpy2d ch bc d a v) s (Trap.sync 6 (s.me.rx d))
        ∧ Traps (.cpyg ch bc d a v) s (Trap.sync 6 (s.me.rx d)) ∧ Traps (.cpys ch bc d a v) s (Trap.sync 6 (s.me.rx d)))
      ∧ (isChan s.core = true → Traps (.cpy ch bc d a v) s (Trap.sync 2 (wordOf (.cpy ch bc d a v)))))
    ∧ (∀ (s : State) (rd : XReg), isChan s.core = false →
      let left := (s.coreSt s.core).openOf s.sid
      Turns (.cseal rd) s (Slot.retire { s.me.wx rd (s.me.cbatch.zeroExtend 64) with
          cbatch := s.me.cbatch + 1, openCopies := 0
          batches := if left = 0 then s.me.batches else s.me.batches ++ [{ num := s.me.cbatch, left := left }] })
        fun t => (t.coreSt s.core).openOf s.sid = 0)
    ∧ (∀ (s : State) (n : BitVec 5), isChan s.core = false →
      if s.me.batches.length ≤ n.toNat then Does (.cwait n) s s.me.retire else Parks (.cwait n) s true)
    ∧ (∀ (s : State) (b : BitVec 3) (r : XReg), isChan s.core = false →
      Turns (.bcarm b r) s s.me.retire fun t => (t.coreSt s.core).bcnt.toList.getD b.toNat 0 = s.me.rx r
        ∧ ∀ k, k < 4 → (t.coreSt s.core).wptr.toList.getD k 0 =
            if (s.coreSt s.core).chans.toList.getD k [] = [] then 0 else (s.coreSt s.core).wptr.toList.getD k 0)
    ∧ (∀ (s : State) (b : BitVec 3), isChan s.core = false →
      if (s.coreSt s.core).bcnt.toList.getD b.toNat 0 = 0 then Does (.bcwait b) s s.me.retire
      else Parks (.bcwait b) s true)
    ∧ (∀ (s s1 s2 : State) (core ch ps pd : Nat) (c : Copy) (r : List Copy),
      let d := s.readIdx c c.done
      let n := s.burstLen d
      ch < 4 → (s.coreSt core).chans.toList.getD ch [] = c :: r → c.susp = none → (s.coreSt core).porterStop = false →
      s.depsClear (clusterOf core) c.ticket = true → c.ksf = none → n % 8 = 0 → pd % 8 = 0 → ps % 8 = 0 →
      s.span (s.copyCtx c) (s.copySrc d c.done) n .load = .ok ([(ps, n)], s1) →
      s1.span (s.copyCtx c) (s.copyDst d c.done) n .store = .ok ([(pd, n)], s2) →
      s1.unprotected (clusterOf (coreOf c.sid)) → s2.flips = [] → (∀ k, k < n → s2.bad ((ps + k) / 8) = false) →
      (∀ k, k < n → (pd + k) / 64 ≠ s2.hostPage / 64) → (∀ e, e ∈ s2.teams → e.2.ckRun = false) → c.done + n < c.len →
      ∃ t, exec (.copyBurstDeliver core ch) s = .next t
        ∧ (∀ k, k < n → t.byte (pd + k) = s2.byte (ps + k)) ∧ SameBut s2 t pd n
        ∧ (t.coreSt core).chans.toList.getD ch [] = { d with done := c.done + n } :: r
        ∧ (t.coreSt core).wptr.toList.getD ch 0 = (s.coreSt core).wptr.toList.getD ch 0 + BitVec.ofNat 64 n
        ∧ ∀ k, t.slot k = s.slot k)
    ∧ (∀ (s : State) (core ch : Nat), (s.coreSt core).chans.toList.getD ch [] = [] →
      exec (.copyBurstDeliver core ch) s = .next s ∧ exec (.ksfStreamUnit core ch) s = .next s)
    ∧ ∀ (s : State) (core ch : Nat) (c : Copy) (r : List Copy), (s.coreSt core).chans.toList.getD ch [] = c :: r →
      c.susp = none → (s.coreSt core).porterStop = false → s.depsClear (clusterOf core) c.ticket = false →
      exec (.copyBurstDeliver core ch) s = .next (s.kick core ch)

/-- R234 to R238, R380 and R381. runUnit is the graph's run on one unit, cell by cell; its operations are those of the vector instructions (R231). -/
def Obligations.StreamFabricSteps : Prop :=
  (∀ (s : State) (a b : XReg), isChan s.core = false →
      let n := (s.me.rx b).toNat % 8
      let has := match s.teamOf s.me with | some t => t.ksfHas.getLsbD n | none => false
      let k := (s.me.rx a).toNat % 8
      let sel : KsfSel := { slot := n, recOff := if (s.me.rx b).getLsbD 4 then some ((s.me.rx b).toNat % 0x20000 / 64 * 64) else none }
      let fine := ksfOperandsOk (s.me.rx a) (s.me.rx b) = true ∧ has = true
      (¬fine → Traps (.ksfbind a b) s (Trap.sync 21 (s.me.rx a) (s.me.rx b)))
      ∧ (fine → (s.me.rx a).getLsbD 3 = true → Does (.ksfbind a b) s { s.me with
          qksf := if (s.me.rx b).getLsbD 3 then tset s.me.qksf k sel else tdel s.me.qksf k }.retire)
      ∧ (fine → (s.me.rx a).getLsbD 3 = false → Turns (.ksfbind a b) s s.me.retire fun t => (t.coreSt s.core).cksf =
          if (s.me.rx b).getLsbD 3 then tset (s.coreSt s.core).cksf k sel else tdel (s.coreSt s.core).cksf k))
    ∧ (∀ (s : State) (a b : XReg), s.me.level ≠ .task →
      (7 < (s.me.rx b).toNat → Traps (.ksfload a b) s (Trap.sync 21 (s.me.rx a) 7))
      ∧ ((s.me.rx b).toNat ≤ 7 → (s.me.rx a).toNat % 64 ≠ 0 → Traps (.ksfload a b) s (Trap.sync 21 (s.me.rx a) 1))
      ∧ ∀ (img : Nat) (s1 : State), (s.me.rx b).toNat ≤ 7 → (s.me.rx a).toNat % 64 = 0 → (s.me.rx a).extractLsb' 57 7 = 0 →
        s.readVa (s.ctx s.sid) (s.me.rx a) 0x1540 = .ok (img, s1) →
        (∀ c, imgCode img = some c → Traps (.ksfload a b) s (Trap.sync 21 (s.me.rx a) (BitVec.ofNat 64 c)))
        ∧ ∀ s2, imgCode img = none → s.teamBySave s.me.teamctx = none →
          s1.writeVa (s1.kctx s.sid) (ksfSlotVa s.me.teamctx (s.me.rx b).toNat) 0x1540 img = .ok s2 →
          exec (.ksfload a b) s = .next ((s2.loaded none s.me.teamctx (s.me.rx b).toNat).modSlot s.sid (·.retire)))
    ∧ (∀ (s : State) (chan tid n img : Nat) (t : Team), s.team? tid = some t → s.ksfImage tid n = some img →
      ∃ u, exec (.ksfImageFetch chan tid n) s = .next u ∧ u.mem = s.mem ∧ u.slots = s.slots
        ∧ ({ team := tid, gen := t.gen, slot := n, load := t.ksfGen.toList.getD n 0, image := img } : KsfImage) ∈ (u.chan chan).images)
    ∧ ∀ (s : State) (core ch : Nat) (c : Copy) (r : List Copy) (b : KsfBind),
      (s.coreSt core).chans.toList.getD ch [] = c :: r → c.ksf = some b → c.susp = none →
      (s.coreSt core).porterStop = false →
      (s.depsClear (clusterOf core) c.ticket = false → exec (.ksfStreamUnit core ch) s = .next (s.kick core ch))
      ∧ (s.depsClear (clusterOf core) c.ticket = true → c.len ≤ c.done →
        exec (.ksfStreamUnit core ch) s = .next (s.post (.copyBurstDeliver core ch)))
      ∧ ∀ (s1 s2 : State) (ip op : List Nat) (img : Nat), s.depsClear (clusterOf core) c.ticket = true → c.done < c.len →
        ch < 4 → s.wordsAt (s.copyCtx c) 8 .load ((List.range (8 * c.den)).map fun j => s.copySrc c (c.done + 8 * j)) = .ok (ip, s1) →
        s1.wordsAt (s.copyCtx c) 8 .store ((List.range (8 * c.num)).map fun j => s.copyDst c (c.done / c.den * c.num + 8 * j))
          = .ok (op, s2) →
        let hbm := if c.onRead then ip else op
        let chan := s2.chanOf (hbm.headD 0)
        (∀ p, p ∈ hbm → ownerOf p = .hbm) →
        (s2.resident chan (s.copyCtx c).team b.slot = none →
          exec (.ksfStreamUnit core ch) s = .next ((s2.post (.ksfImageFetch chan (s.copyCtx c).team b.slot)).kick core ch))
        ∧ (s2.resident chan (s.copyCtx c).team b.slot = some img → sideBytes img = 0 → dxCell img = none →
          (∀ p, p ∈ ip → s2.bad (p / 8) = false) → s2.flips = [] → ∃ t u, exec (.ksfStreamUnit core ch) s = .next t
            ∧ u = runUnit img chan c.regs (s2.beatsOf c.den ip) []
            ∧ (t.coreSt core).chans.toList.getD ch [] =
                { s2.readIdx c (c.done + 64 * c.den - 8) with done := c.done + 64 * c.den, regs := u.regs, flags := c.flags ||| u.u.flags } :: r
            ∧ t.mem = (s2.putBeats u.u.outs op).mem
            ∧ (t.coreSt core).wptr.toList.getD ch 0 = (s.coreSt core).wptr.toList.getD ch 0 + BitVec.ofNat 64 (64 * c.num))

/-- R145 to R149, R416, R418, R419. Streams have a statement of their own. -/
def Obligations.QueueReadsAndWrites : Prop :=
  let fine := fun (s : State) (q : QReg) (kind : Nat) => qKind (s.me.qb q.toNat) = kind ∧ s.breaksRow s.sid (s.me.qb q.toNat) = false
  let sub := fun (s : State) (q : QReg) => qSub (s.me.qb q.toNat)
  (∀ (s : State) (q : QReg) (r : XReg) (v : VReg) (o : BitVec 12),
      (qKind (s.me.qb q.toNat) = 0 ∨ s.breaksRow s.sid (s.me.qb q.toNat) = true) →
      let t := Trap.sync 11 (BitVec.ofNat 64 q.toNat)
      Traps (.qrd r q) s t ∧ Traps (.qrdv v q) s t ∧ Traps (.qwr q r) s t ∧ Traps (.qwrv q v) s t ∧ Traps (.qtst r q) s t
      ∧ Traps (.qbr q o) s t)
    ∧ (∀ (s : State) (q : QReg) (r : XReg) (v : VReg) (w : Word) (l : List Word), fine s q 1 →
      ((s.coreSt s.core).links.toList.getD (sub s q) [] = w :: l → Turns (.qrd r q) s (s.me.wx r w).retire fun t =>
          (t.coreSt s.core).links.toList.getD (sub s q) [] = l)
      ∧ ((s.coreSt s.core).links.toList.getD (sub s q) [] = [] → Parks (.qrd r q) s true)
      ∧ (8 ≤ ((s.coreSt s.core).links.toList.getD (sub s q) []).length → ∃ d, Turns (.qrdv v q) s (s.me.wv v d).retire (fun t =>
          (t.coreSt s.core).links.toList.getD (sub s q) [] = ((s.coreSt s.core).links.toList.getD (sub s q) []).drop 8)
          ∧ ∀ k, k < 8 → some (d.extractLsb' (64 * k) 64) = ((s.coreSt s.core).links.toList.getD (sub s q) [])[k]?)
      ∧ (((s.coreSt s.core).links.toList.getD (sub s q) []).length < 8 → Parks (.qrdv v q) s true))
    ∧ (∀ (s : State) (q : QReg) (r : XReg) (w : Word) (l : List Word), fine s q 3 →
      let f := s.me.fifos.toList.getD (sub s q) ResFifo.init
      (f.recs = w :: l → Does (.qrd r q) s
          ({ s.me with fifos := s.me.fifos.set! (sub s q) { f with recs := l } }.wx r w).retire)
      ∧ (f.recs = [] → Parks (.qrd r q) s true))
    ∧ (∀ (s : State) (q : QReg) (r : XReg) (v : VReg) (m : Msg) (l : List Msg), fine s q 6 →
      (s.coreSt s.core).holes.toList.getD (sub s q) [] = m :: l →
      (m.big = false → Turns (.qrd r q) s (s.me.wx r (m.data.extractLsb' 0 64)).retire fun t =>
          (t.coreSt s.core).holes.toList.getD (sub s q) [] = l)
      ∧ (m.big = true → Traps (.qrd r q) s (Trap.sync 11 (BitVec.ofNat 64 q.toNat))
        ∧ Turns (.qrdv v q) s (s.me.wv v m.data).retire fun t => (t.coreSt s.core).holes.toList.getD (sub s q) [] = l))
    ∧ (∀ (s : State) (q : QReg) (r : XReg) (w : Word) (l : List Word) (o : BitVec 12), fine s q 7 →
      (s.me.brq = w :: l → Does (.qrd r q) s ({ s.me with brq := l }.wx r w).retire)
      ∧ (s.me.brq = 0 :: l → Does (.qbr q o) s { s.me with brq := l }.retire)
      ∧ (s.me.brq = w :: l → w ≠ 0 →
        let target := s.me.pc + (o.signExtend 64 <<< 1)
        target.getLsbD 1 = false → target.extractLsb' 57 7 = 0 → Does (.qbr q o) s
          { s.me with brq := l, pc := pcOf target, status := .ready
                      safeAt := if s.me.status.safePark then some 0x1000 else none })
      ∧ (s.me.brq = [] → Parks (.qbr q o) s true)
      ∧ (let p := s.core * 16 + sub s q
        (s.slot p).brq.length < 8 → p ≠ s.sid → ∃ t, exec (.qwr q r) s = .next t ∧ t.mem = s.mem
          ∧ t.slot s.sid = s.me.retire ∧ t.slot p = { s.slot p with brq := (s.slot p).brq ++ [s.me.rx r] }))
    ∧ (∀ (s : State) (q : QReg) (r : XReg) (v : VReg) (n : Nat), fine s q 1 → neighbourCore s.core (sub s q) = some n →
      let fifo := (s.coreSt n).links.toList.getD (opposite (sub s q)) []
      s.releaseWaits = false →
      (fifo.length < 8 → Turns (.qwr q r) s s.me.retire fun t =>
          (t.coreSt n).links.toList.getD (opposite (sub s q)) [] = fifo ++ [s.me.rx r])
      ∧ (fifo = [] → Turns (.qwrv q v) s s.me.retire fun t => (t.coreSt n).links.toList.getD (opposite (sub s q)) []
          = (List.range 8).map fun k => (s.me.rv v).extractLsb' (64 * k) 64)
      ∧ (8 ≤ fifo.length → Parks (.qwr q r) s true))
    ∧ ∀ (s : State) (q : QReg) (r : XReg), qKind (s.me.qb q.toNat) ≠ 0 → s.breaksRow s.sid (s.me.qb q.toNat) = false →
      ∃ w, Does (.qtst r q) s (s.me.wx r w).retire ∧ (w.getLsbD 0 = true ↔ s.qCount q.toNat ≠ 0)
        ∧ w.getLsbD 1 = s.qWritable q.toNat ∧ w.getLsbD 2 = s.qBig q.toNat
        ∧ w.extractLsb' 8 16 = BitVec.ofNat 16 (s.qCount q.toNat)

/-- R144, R147, R151, R152, R414, R415, R420, for streams without a graph. elemAddr is the address of an element, dimension 0 innermost. -/
def Obligations.QueueBindingsAndStreams : Prop :=
  (∀ (s : State) (q : QReg) (r : XReg), s.stream? s.sid q.toNat = none →
      let v := s.me.rx r
      (qKind v ≠ 4 ∧ qKind v ≠ 5 → (isChan s.core = true → qKind v = 0 ∨ qKind v = 6) →
        Does (.qbind q r) s { s.me with qbind := s.me.qbind.set! q.toNat v }.retire)
      ∧ (qKind v = 4 ∨ qKind v = 5 → isChan s.core = false → s.breaksRow s.sid v = false →
        tfind s.me.qksf q.toNat = none → (s.coreSt s.core).cksf = [] → Turns (.qbind q r) s { s.me with
            qbind := s.me.qbind.set! q.toNat v
            streams := tset s.me.streams q.toNat (s.readStream s.sid q.toNat (qKind v == 5) (qDesc v)) }.retire fun _ => True)
      ∧ (isChan s.core = true → qKind v ≠ 0 → qKind v ≠ 6 → Traps (.qbind q r) s (Trap.sync 2 (wordOf (.qbind q r))))
      ∧ (qKind (s.me.qb q.toNat) ≠ 0 → Does (.qfree q) s { s.me with qbind := s.me.qbind.set! q.toNat 0 }.retire))
    ∧ (∀ (s : State) (q : QReg), qKind (s.me.qb q.toNat) = 0 → Traps (.qfree q) s (Trap.sync 11 (BitVec.ofNat 64 q.toNat)))
    ∧ (∀ (s : State) (d a : XReg), let m := s.me.rx a
      (m = 0 ∨ m.extractLsb' 8 56 ≠ 0 → Traps (.qwait d a) s (Trap.sync 11 m))
      ∧ (m ≠ 0 → m.extractLsb' 8 56 = 0 →
        (∀ k, k < 8 → m.getLsbD k = true → qKind (s.me.qb k) ≠ 0 ∧ s.breaksRow s.sid (s.me.qb k) = false) →
        (∀ k, k < 8 → m.getLsbD k = true → s.qCount k ≠ 0 →
          (∀ j, j < 8 → m.getLsbD j = true → s.qCount j ≠ 0 → qEff (s.me.qb j) = 1 → qEff (s.me.qb k) = 1 ∧ k ≤ j) →
          ((∀ j, j < 8 → m.getLsbD j = true → s.qCount j ≠ 0 → qEff (s.me.qb j) ≠ 1) →
            ∀ j, j < k → m.getLsbD j = true → s.qCount j = 0) →
          Does (.qwait d a) s (s.me.wx d (BitVec.ofNat 64 k)).retire)
        ∧ ((∀ k, k < 8 → m.getLsbD k = true → s.qCount k = 0) → Parks (.qwait d a) s true)))
    ∧ (∀ (s : State) (q : QReg) (r : XReg) (x : Stream) (v : VWord) (l : List (VWord × Bool)),
      qKind (s.me.qb q.toNat) = 4 → s.breaksRow s.sid (s.me.qb q.toNat) = false → s.stream? s.sid q.toNat = some x →
      x.bad = false → x.esize ≠ 6 → x.ksf = none → x.pos < x.total → x.ahead = (v, false) :: l →
      let w := v.toNat % 2 ^ (8 * x.size)
      Turns (.qrd r q) s (({ s.me with streams := tset s.me.streams q.toNat { x with ahead := l, pos := x.pos + 1 } }).wx r
        (if x.flags / 2 % 2 = 1 then BitVec.ofInt 64 (toSigned (8 * x.size) w) else BitVec.ofNat 64 w)).retire fun _ => True)
    ∧ (∀ (s : State) (q : QReg) (r : XReg) (x : Stream), qKind (s.me.qb q.toNat) = 5 →
      s.breaksRow s.sid (s.me.qb q.toNat) = false → s.stream? s.sid q.toNat = some x → x.bad = false → x.esize ≠ 6 →
      x.ksf = none → x.pos < x.total → (x.ahead.length + 1) * x.size ≤ 256 →
      Turns (.qwr q r) s { s.me with streams := tset s.me.streams q.toNat { x with
          ahead := x.ahead ++ [(BitVec.ofNat 512 ((s.me.rx r).toNat % 2 ^ (8 * x.size)), false)], pos := x.pos + 1 } }.retire
        fun _ => True)
    ∧ (∀ (s : State) (k q : Nat) (x : Stream) (h : Hit), s.stream? k q = some x → x.out = false → x.bad = false →
      x.susp = none → (s.coreSt (coreOf k)).porterStop = false → x.fetched < x.total → s.streamHasRoom k x = true →
      x.ksf = none → s.resolve (s.streamCtx k) (x.addr x.fetched) x.size .load = .ok h → x.flags % 2 = 0 →
      h.st.badAt h.pa x.size = false → h.st.flips = [] →
      ∃ t, exec (.streamReadAhead k q) s = .next t ∧ t.mem = h.st.mem ∧ (∀ j, j ≠ k → t.slot j = s.slot j)
        ∧ t.slot k = { s.slot k with streams := tset (s.slot k).streams q { x with
            ahead := x.ahead ++ [(BitVec.ofNat 512 (h.st.rd h.pa x.size), false)], fetched := x.fetched + 1 } })
    ∧ ∀ (s s1 : State) (k q pa : Nat) (x : Stream) (v : VWord) (l : List (VWord × Bool)), s.stream? k q = some x →
      x.out = true → x.bad = false → x.susp = none → (s.coreSt (coreOf k)).porterStop = false → x.ksf = none →
      x.ahead = (v, false) :: l → s.span (s.streamCtx k) (x.addr x.fetched) x.size .store = .ok ([(pa, x.size)], s1) →
      s.unprotected (clusterOf (coreOf k)) → s1.badAt pa x.size = false → pa / 64 ≠ s1.hostPage / 64 →
      s1.plainWrites k → x.esize ≤ 6 →
      ∃ t, exec (.streamElementWrite k q) s = .next t ∧ SameBut s1 t pa x.size
        ∧ t.rd pa x.size = v.toNat % 2 ^ (8 * x.size)
        ∧ t.slot k = { s.slot k with streams := tset (s.slot k).streams q { x with ahead := l, fetched := x.fetched + 1 } }

/-- R149 to R150, R160 to R163, R335, R398 and R399. A barrier instruction of a core outside the mask, or a second arrival, takes cause 11 with the barrier number. -/
def Obligations.MessagesAndBarriers : Prop :=
  let quiet := fun (s : State) (c : Nat) => s.unreleased s.core c = false ∧ s.me.unacquired = false
  (∀ (s : State) (a b : XReg) (v : VReg), let w := s.me.rx a
      (∀ core off, s.holeOf w = some (core, off) → off % 8 = 0 → off < 128 → s.releaseWaits = false →
        (∀ t, s.team? s.me.team = some t → t.stop = none ∧ t.state = 1) →
        if (s.coreSt core).holeFull (off / 8) = true then Parks (.msend a b) s true ∧ Parks (.msendv a v) s true
        else exec (.msend a b) s = .next ((s.sendMessage s.me.team core (off / 8)
              { big := false, data := (s.me.rx b).zeroExtend 512 }).modSlot s.sid (·.retire))
          ∧ exec (.msendv a v) s = .next ((s.sendMessage s.me.team core (off / 8)
              { big := true, data := s.me.rv v }).modSlot s.sid (·.retire)))
      ∧ ((s.holeOf w = none ∨ ∃ core off, s.holeOf w = some (core, off) ∧ (off % 8 ≠ 0 ∨ 128 ≤ off)) →
        Traps (.msend a b) s (Trap.sync 7 w) ∧ Traps (.msendv a v) s (Trap.sync 7 w)))
    ∧ (∀ (s : State) (tid core h : Nat) (m : Msg) (t : Team), s.team? tid = some t → h < 16 →
      (t.stop = none → t.state = 1 → ∃ u, exec (.messageArrival tid core h (.hole m)) s = .next u ∧ u.mem = s.mem ∧ u.slots = s.slots
        ∧ (u.coreSt core).holes.toList.getD h [] = (s.coreSt core).holes.toList.getD h [] ++ [m]
        ∧ (u.coreSt core).flight.toList.getD h 0 = (s.coreSt core).flight.toList.getD h 0 - 1
        ∧ (tid = 0 → 8 ≤ h → tfind u.irqs 4 = some (BitVec.ofNat 64 (h + t.logicalCore core * 65536), 0)))
      ∧ (t.stop.isSome = true →
        let s1 := s.modCore core fun k => { k with flight := k.flight.set! h (k.flight.toList.getD h 0 - 1) }
        ∀ u, s1.logPut tid (.message (t.logicalCore core) h m) = some u → exec (.messageArrival tid core h (.hole m)) s = .next u))
    ∧ (∀ (s s1 : State) (tid pa : Nat) (e : LogEnt), s.logAt tid = some (pa, s1) →
      (∀ e, e ∈ s1.teams → e.2.ckRun = false) → s1.rd pa 8 + e.bytes.length ≤ logRoom →
      (∀ a, pa ≤ a → a < pa + 0x10000 → a / 64 ≠ s1.hostPage / 64) →
      ∃ u, s.logPut tid e = some u ∧ u.rd pa 8 = s1.rd pa 8 + e.bytes.length ∧ u.slots = s.slots
        ∧ ∀ i, i < e.bytes.length → some (u.byte (pa + 8 + s1.rd pa 8 + i)) = e.bytes[i]?)
    ∧ (∀ (s : State) (b : BitVec 3), isChan s.core = false →
      let x := s.bar b.toNat
      let k := s.core % 16
      let n := x.counts.toList.getD k 0 + 1
      let ph := x.phase.getLsbD k
      (x.mask.getLsbD k = false ∨ x.reported.getLsbD k = true ∨ s.hasArrived b.toNat = true →
        Traps (.bararv b) s (Trap.sync 11 (BitVec.ofNat 64 b.toNat)))
      ∧ (x.mask.getLsbD k = true → x.reported.getLsbD k = false → s.hasArrived b.toNat = false → quiet s x.scope →
        (n < x.expect → Turns (.bararv b) s { s.me with barRec := tset s.me.barRec b.toNat ph, barWait := none }.retire fun t =>
            (t.bar b.toNat).counts.toList.getD k 0 = n ∧ (t.bar b.toNat).reported = x.reported ∧ t.agenda = s.agenda)
        ∧ (x.expect ≤ n → Turns (.bararv b) s { s.me with barRec := tset s.me.barRec b.toNat ph, barWait := none }.retire fun t =>
            (t.bar b.toNat).counts.toList.getD k 0 = 0 ∧ (t.bar b.toNat).reported.getLsbD k = true
            ∧ t.agenda = s.agenda ++ [.barrierRootReport s.me.team (s.me.teamid.extractLsb' 16 16).toNat
                (s.clusterSt s.cluster).logical b.toNat (some s.core)])
        ∧ (n < x.expect → s.me.barWait ≠ some (b.toNat, s.me.pc) → Turns (.barsyn b) s
            ({ s.me with barRec := tset s.me.barRec b.toNat ph, barWait := some (b.toNat, s.me.pc) }.parkRetry true) fun t =>
            (t.bar b.toNat).counts.toList.getD k 0 = n))
      ∧ (tfind s.me.barRec b.toNat = none → Traps (.barwt b) s (Trap.sync 11 (BitVec.ofNat 64 b.toNat)))
      ∧ (∀ p, tfind s.me.barRec b.toNat = some p →
        (p = ph → Does (.barwt b) s ({ s.me with barWait := some (b.toNat, s.me.pc) }.parkRetry true))
        ∧ (p ≠ ph → s.me.unacquired = false →
          Does (.barwt b) s { s.me with barRec := tdel s.me.barRec b.toNat, barWait := none }.retire
          ∧ (s.me.barWait = some (b.toNat, s.me.pc) →
            Does (.barsyn b) s { s.me with barRec := tdel s.me.barRec b.toNat, barWait := none }.retire))))
    ∧ (∀ (s : State) (r : XReg) (b : BitVec 3), isChan s.core = false →
      let x := s.bar b.toNat
      ∃ w, Does (.barq r b) s (s.me.wx r w).retire ∧ w.getLsbD 0 = x.phase.getLsbD (s.core % 16)
        ∧ w.getLsbD 1 = s.hasArrived b.toNat ∧ w.getLsbD 24 = x.team
        ∧ w.extractLsb' 8 16 = BitVec.ofNat 16 (x.counts.toList.getD (s.core % 16) 0))
    ∧ (∀ (s : State) (r : XReg) (b : BitVec 3), isChan s.core = false →
      let w := s.me.rx r
      let e := (w.extractLsb' 16 5).toNat
      (w.extractLsb' 0 16 = 0 ∨ e = 0 ∨ 14 < e ∨ w.extractLsb' 21 3 ≠ 0 ∨ w.extractLsb' 25 39 ≠ 0 →
        Traps (.barinit b r) s (Trap.sync 11 (BitVec.ofNat 64 b.toNat)))
      ∧ (w.extractLsb' 0 16 ≠ 0 → 1 ≤ e → e ≤ 14 → w.extractLsb' 21 3 = 0 → w.extractLsb' 25 39 = 0 →
        s.team? s.me.team = none → ∃ t, exec (.barinit b r) s = .next t ∧ t.mem = s.mem ∧ (t.slot s.sid).status = .ready
          ∧ (t.slot s.sid).x = s.me.x
          ∧ t.bar b.toNat = { Bar.init e with team := w.getLsbD 24, mask := w.extractLsb' 0 16 }))
    ∧ (∀ (s : State) (tid gen cl b : Nat) (leaf : Option Nat), s.staleGen tid gen = true →
      exec (.barrierRootReport tid gen cl b leaf) s = .next (s.countStale tid)
      ∧ exec (.barrierPhaseFlip tid gen cl b) s = .next (s.countStale tid))
    ∧ (∀ (s : State) (tid gen cl b leaf : Nat) (c : ClusterSt), s.staleGen tid gen = false → s.teamCluster tid cl = some c →
      (c.bar b).mask &&& (c.bar b).reported = (c.bar b).mask → s.agenda.any (isLeafReport tid cl b) = false →
      exec (.barrierRootReport tid gen cl b (some leaf)) s = .next (s.post
        (if (c.bar b).team then .barrierRootReport tid gen cl b none else .barrierPhaseFlip tid gen cl b)))
    ∧ ∀ (s : State) (tid gen cl b ph : Nat) (t : Team), s.staleGen tid gen = false → s.team? tid = some t → t.saved = none →
      t.place[cl]? = some ph → b < 8 →
      (∃ u, exec (.barrierPhaseFlip tid gen cl b) s = .next u ∧ u.mem = s.mem ∧ u.slots = s.slots
        ∧ ((u.clusterSt ph).bar b).phase = ~~~ ((s.clusterSt ph).bar b).phase ∧ ((u.clusterSt ph).bar b).reported = 0)
      ∧ (((s.clusterSt ph).bar b).team = true → (∃ l, l < t.s * t.c ∧ l ≠ cl ∧ ∃ c, s.teamCluster tid l = some c
            ∧ (c.bar b).team = true ∧ (c.bar b).rootDone = false ∧ t.place[l]? ≠ some ph) →
          ∃ u, exec (.barrierRootReport tid gen cl b none) s = .next u ∧ u.mem = s.mem ∧ u.slots = s.slots
            ∧ u.agenda = s.agenda ∧ ((u.clusterSt ph).bar b).rootDone = true)

/-- R107, R110 to R112, R455 to R457: `one` is the one rounding; numAdd, numMul and numFma are exact, and the last clauses pin their special cases. -/
def Obligations.VectorFloatingResults : Prop :=
  (∀ (s : State) (p : PReg) (ty : LaneTy) (vd v1 v2 : VReg), ty ∈ [LaneTy.f32, LaneTy.bf16, LaneTy.fp16] →
      let m := s.me.rnd.toNat % 4
      let w := laneBits ty
      let A := fun k => decodeF (laneFmt ty) (lane (s.me.rv v1) w k)
      let B := fun k => decodeF (laneFmt ty) (lane (s.me.rv v2) w k)
      let D := fun k => decodeF (laneFmt ty) (lane (s.me.rv vd) w k)
      let one := fun (r : Machine.Num × BitVec 6) => ((roundTo (laneFmt ty) m r.1).1, r.2 ||| (roundTo (laneFmt ty) m r.1).2)
      let pick := fun (b a : Machine.Num) (q : Bool) => if a.isNaN || b.isNaN then (canonNaN (laneFmt ty), if a.isSNaN || b.isSNaN then fNV else 0)
        else roundTo (laneFmt ty) 0 (if q then b else a)
      let cmp := fun (pd : PReg) (i : Instr) (strict nan : Bool) (r : Machine.Num → Machine.Num → Bool) =>
        CmpDoes i s p w pd (fun k => if (A k).isNaN || (B k).isNaN then nan else r (A k) (B k))
          fun k => if (A k).isSNaN || (B k).isSNaN || (strict && ((A k).isNaN || (B k).isNaN)) then fNV else 0
      VecDoes (.vadd p ty vd v1 v2) s p w vd (fun k => one (numAdd m (A k) (B k)))
      ∧ VecDoes (.vsub p ty vd v1 v2) s p w vd (fun k => one (numAdd m (A k) (B k).negate))
      ∧ VecDoes (.vmul p ty vd v1 v2) s p w vd (fun k => one (numMul (A k) (B k)))
      ∧ VecDoes (.vfma p ty vd v1 v2) s p w vd (fun k => one (numFma m (A k) (B k) (D k)))
      ∧ VecDoes (.vfms p ty vd v1 v2) s p w vd (fun k => one (numFma m (A k).negate (B k) (D k)))
      ∧ VecDoes (.vmax p ty vd v1 v2) s p w vd (fun k => pick (B k) (A k) (numBefore (A k) (B k)))
      ∧ VecDoes (.vmin p ty vd v1 v2) s p w vd (fun k => pick (B k) (A k) (numBefore (B k) (A k)))
      ∧ VecDoes (.vabs p ty vd v1) s p w vd (fun k => (if (A k).isNaN then canonNaN (laneFmt ty)
          else lane (s.me.rv v1) w k % 2 ^ (w - 1), if (A k).isSNaN then fNV else 0))
      ∧ VecDoes (.vneg p ty vd v1) s p w vd (fun k => (if (A k).isNaN then canonNaN (laneFmt ty)
          else (lane (s.me.rv v1) w k + 2 ^ (w - 1)) % 2 ^ w, if (A k).isSNaN then fNV else 0))
      ∧ ∀ pd : PReg, cmp pd (.vcmpEq p ty pd v1 v2) false false (fun a b => numEq a b)
        ∧ cmp pd (.vcmpLt p ty pd v1 v2) true false (fun a b => numLt a b)
        ∧ cmp pd (.vcmpLe p ty pd v1 v2) true false (fun a b => numLt a b || numEq a b)
        ∧ cmp pd (.vcmpNe p ty pd v1 v2) false true (fun a b => numLt a b || numLt b a))
    ∧ (∀ (s : State) (p : PReg) (vd v1 v2 : VReg),
      let m := s.me.rnd.toNat % 4
      let re := fun (v : VReg) k => decodeF bf16 (lane (s.me.rv v) 32 k % 65536)
      let im := fun (v : VReg) k => decodeF bf16 (lane (s.me.rv v) 32 k / 65536)
      let two := fun (x y : Machine.Num × BitVec 6) => let a := finishF bf16 m x
        let b := finishF bf16 m y
        (a.1 + 65536 * b.1, a.2 ||| b.2)
      let dot := fun (x y z w : Machine.Num) => let r := numAdd m (numMul x y).1 (numMul z w).1
        (r.1, (numMul x y).2 ||| (numMul z w).2 ||| r.2)
      VecDoes (.vadd p .c16 vd v1 v2) s p 32 vd (fun k => two (numAdd m (re v1 k) (re v2 k)) (numAdd m (im v1 k) (im v2 k)))
      ∧ VecDoes (.vsub p .c16 vd v1 v2) s p 32 vd (fun k =>
          two (numAdd m (re v1 k) (re v2 k).negate) (numAdd m (im v1 k) (im v2 k).negate))
      ∧ VecDoes (.vneg p .c16 vd v1) s p 32 vd (fun k => two ((re v1 k).negate, if (re v1 k).isSNaN then fNV else 0)
          ((im v1 k).negate, if (im v1 k).isSNaN then fNV else 0))
      ∧ VecDoes (.vcmul p vd v1 v2) s p 32 vd (fun k => two (dot (re v1 k) (re v2 k) (im v1 k).negate (im v2 k))
          (dot (re v1 k) (im v2 k) (im v1 k) (re v2 k))))
    ∧ (∀ (m : Nat) (n : Bool) (e : Int), numAdd m (.inf true) (.inf false) = (.nan false, fNV)
      ∧ numAdd m (.inf false) (.inf true) = (.nan false, fNV) ∧ numMul (.inf n) (.fin n 0 e) = (.nan false, fNV)
      ∧ numMul (.fin n 0 e) (.inf n) = (.nan false, fNV))
    ∧ (∀ (m k : Nat) (e : Int), m < 4 → 0 < k →
      numAdd m (.fin false k e) (.fin true k e) = (.fin (decide (m = 2)) 0 e, 0)
      ∧ numAdd m (.fin true 0 e) (.fin true 0 e) = (.fin true 0 e, 0))
    ∧ ∀ e : Int, numBefore (.fin true 0 e) (.fin false 0 e) = true ∧ numBefore (.fin false 0 e) (.fin true 0 e) = false
      ∧ numEq (.fin true 0 e) (.fin false 0 e) = true

/-- R99, R106, R108 to R110 for FP32, BF16, FP16 and FA56. -/
def Obligations.RoundingIsOnceAndExact : Prop :=
  (∀ (f : Fmt) (mode b : Nat), f ∈ [fp32, bf16, fp16, fa56] → b < 2 ^ (1 + f.eb + f.fb) → (decodeF f b).isNaN = false →
      roundTo f mode (decodeF f b) = (b, 0))
    ∧ (∀ (neg : Bool) (m sh : Nat),
      (∀ mode, (roundShift mode neg m sh).2 = decide (m % 2 ^ sh ≠ 0))
      ∧ (roundShift 1 neg m sh).1 = m / 2 ^ sh
      ∧ (roundShift 2 neg m sh).1 = (if neg then (m + 2 ^ sh - 1) / 2 ^ sh else m / 2 ^ sh)
      ∧ (roundShift 3 neg m sh).1 = (if neg then m / 2 ^ sh else (m + 2 ^ sh - 1) / 2 ^ sh)
      ∧ let q := (roundShift 0 neg m sh).1
        2 * q * 2 ^ sh ≤ 2 * m + 2 ^ sh ∧ 2 * m ≤ 2 * q * 2 ^ sh + 2 ^ sh
        ∧ (2 * q * 2 ^ sh = 2 * m + 2 ^ sh ∨ 2 * m = 2 * q * 2 ^ sh + 2 ^ sh → q % 2 = 0))
    ∧ (∀ (f : Fmt) (mode m : Nat) (neg : Bool) (e : Int), f ∈ [fp32, bf16, fp16, fa56] → mode < 4 → m ≠ 0 →
      ((f.bias : Int) + 1 ≤ (Nat.log2 m : Int) + e →
        roundFin f mode neg m e = ((if neg then 2 ^ (f.eb + f.fb) else 0) + f.ones * 2 ^ f.fb
          - (if mode = 1 ∨ (mode = 2 ∧ neg = false) ∨ (mode = 3 ∧ neg = true) then 1 else 0), fOF ||| fNX))
      ∧ ((Nat.log2 m : Int) + e + 1 < f.qmin → roundFin f mode neg m e =
          ((if neg then 2 ^ (f.eb + f.fb) else 0) + (if (mode = 2 ∧ neg = true) ∨ (mode = 3 ∧ neg = false) then 1 else 0), fNX ||| fUF)))
    ∧ ∀ (mode : Nat) (q : Bool), roundTo fp32 mode (.nan q) = (0x7FC00000, 0) ∧ roundTo bf16 mode (.nan q) = (0x7FC0, 0)
      ∧ roundTo fp16 mode (.nan q) = (0x7E00, 0) ∧ roundTo fa56 mode (.nan q) = (0x7FF00000000000, 0)

/-- R455, R457, R461 and R408; lane values over the integers, `S` signed but for u8. -/
def Obligations.VectorIntegerAndPredicates : Prop :=
  (∀ (s : State) (p : PReg) (ty : LaneTy) (vd v1 v2 : VReg), ty ∈ [LaneTy.i32, LaneTy.i16, LaneTy.i8, LaneTy.u8] →
      let w := laneBits ty
      let a := fun k => lane (s.me.rv v1) w k
      let b := fun k => lane (s.me.rv v2) w k
      let S := fun (n : Nat) => if ty = .u8 then (n : Int) else (BitVec.ofNat w n).toInt
      let does := fun (i : Instr) (f : Nat → Nat → Nat) => VecDoes i s p w vd fun k => (f (a k) (b k), 0)
      let cmp := fun (i : PReg → Instr) (r : Int → Int → Prop) [∀ x y, Decidable (r x y)] =>
        ∀ pd : PReg, CmpDoes (i pd) s p w pd (fun k => decide (r (S (a k)) (S (b k)))) fun _ => 0
      does (.viadd p ty vd v1 v2) (· + ·) ∧ does (.visub p ty vd v1 v2) (fun x y => x + (2 ^ w - y))
      ∧ does (.vimul p ty vd v1 v2) (· * ·) ∧ does (.vand p ty vd v1 v2) (· &&& ·) ∧ does (.vor p ty vd v1 v2) (· ||| ·)
      ∧ does (.vxor p ty vd v1 v2) (· ^^^ ·) ∧ does (.vshl p ty vd v1 v2) (fun x y => x <<< (y % w))
      ∧ does (.vshr p ty vd v1 v2) (fun x y => x >>> (y % w))
      ∧ does (.vsra p ty vd v1 v2) (fun x y => (BitVec.ofInt w (S x / 2 ^ (y % w))).toNat)
      ∧ does (.vimax p ty vd v1 v2) (fun x y => if S x < S y then y else x)
      ∧ does (.vimin p ty vd v1 v2) (fun x y => if S y < S x then y else x)
      ∧ cmp (fun pd => .vicmpEq p ty pd v1 v2) (· = ·) ∧ cmp (fun pd => .vicmpLt p ty pd v1 v2) (· < ·)
      ∧ cmp (fun pd => .vicmpLe p ty pd v1 v2) (· ≤ ·) ∧ cmp (fun pd => .vicmpNe p ty pd v1 v2) (· ≠ ·))
    ∧ ∀ (s : State) (pd pa pb : PReg) (rd : XReg), let A := s.me.rp pa
      Does (.pand pd pa pb) s (s.me.wp pd (A &&& s.me.rp pb)).retire ∧ Does (.por pd pa pb) s (s.me.wp pd (A ||| s.me.rp pb)).retire
      ∧ Does (.pxor pd pa pb) s (s.me.wp pd (A ^^^ s.me.rp pb)).retire ∧ Does (.pnot pd pa) s (s.me.wp pd (~~~ A)).retire
      ∧ Does (.pcnt rd pa) s (s.me.wx rd (BitVec.ofNat 64 ((List.range 32).countP fun k => A.getLsbD k))).retire
      ∧ ∃ n, Does (.pfirst rd pa) s (s.me.wx rd (BitVec.ofNat 64 n)).retire ∧ n ≤ 32 ∧ (n < 32 → A.getLsbD n = true)
        ∧ ∀ k, k < n → A.getLsbD k = false

/-- R113, R114, R458 to R460. The tree T has the lanes as its leaves; row j + 1 pairs neighbours of row j. The special inputs of R114 and two worked values are stated of the estimates. -/
def Obligations.VectorConversionsEstimatesReductions : Prop :=
  (∀ (s : State) (p : PReg) (ty src : LaneTy) (vd v1 : VReg), ty ≠ .c16 → src ≠ .c16 →
      let m := s.me.rnd.toNat % 4
      let n := fun k => lane (s.me.rv v1) (laneBits src) k
      let I := fun k => if src = .u8 then (n k : Int) else (BitVec.ofNat (laneBits src) (n k)).toInt
      let B := fun (i : Int) => (BitVec.ofInt (laneBits ty) i).toNat
      VecDoes (.vcvt p ty src vd v1) s p (laneBits ty) vd fun k =>
        if 512 / laneBits src ≤ k then (0, 0)
        else match src.isInt, ty.isInt with
          | true, true => if I k < (intBounds ty).1 then (B (intBounds ty).1, fNV)
              else if (intBounds ty).2 < I k then (B (intBounds ty).2, fNV) else (B (I k), 0)
          | true, false => roundTo (laneFmt ty) m (.fin (decide (I k < 0)) (I k).natAbs 0)
          | false, false => let x := decodeF (laneFmt src) (n k)
              ((roundTo (laneFmt ty) m x).1, (if x.isSNaN then fNV else 0) ||| (roundTo (laneFmt ty) m x).2)
          | false, true => match decodeF (laneFmt src) (n k) with
              | .nan _ => (B 0, fNV)
              | .inf neg => (B (if neg then (intBounds ty).1 else (intBounds ty).2), fNV)
              | .fin neg q e =>
                let r := roundAt m neg q e 0
                let v : Int := if neg then -(r.1 : Int) else r.1
                if v < (intBounds ty).1 then (B (intBounds ty).1, fNV)
                else if (intBounds ty).2 < v then (B (intBounds ty).2, fNV) else (B v, if r.2 then fNX else 0))
    ∧ (∀ (s : State) (p : PReg) (ty : LaneTy) (vd v1 : VReg), ty ∈ [LaneTy.f32, LaneTy.bf16, LaneTy.fp16] →
      let w := laneBits ty
      let A := fun k => decodeF (laneFmt ty) (lane (s.me.rv v1) w k)
      let one := fun (r : Machine.Num × BitVec 6) => finishF (laneFmt ty) (s.me.rnd.toNat % 4) r
      VecDoes (.vrcpe p ty vd v1) s p w vd (fun k => one (numRcpe (A k)))
      ∧ VecDoes (.vrsqe p ty vd v1) s p w vd (fun k => one (numRsqe (A k)))
      ∧ VecDoes (.vexp2e p ty vd v1) s p w vd (fun k => one (numExp2e (A k))))
    ∧ (∀ (q n : Bool) (e : Int), numRcpe (.nan q) = (.nan false, if q then fNV else 0)
      ∧ numRsqe (.nan q) = (.nan false, if q then fNV else 0) ∧ numExp2e (.nan q) = (.nan false, if q then fNV else 0)
      ∧ numRcpe (.fin n 0 e) = (.inf n, fDZ) ∧ numRsqe (.fin n 0 e) = (.inf n, fDZ)
      ∧ finishF fp32 0 (numExp2e (.fin n 0 0)) = (0x3F800000, 0)
      ∧ roundTo fp32 0 (numRcpe (.inf n)).1 = (if n then 0x80000000 else 0, 0)
      ∧ numRsqe (.inf true) = (.nan false, fNV) ∧ (∀ k, 0 < k → numRsqe (.fin true k e) = (.nan false, fNV))
      ∧ numExp2e (.inf false) = (.inf false, 0) ∧ roundTo fp32 0 (numExp2e (.inf true)).1 = (0, 0)
      ∧ finishF fp32 0 (numRcpe (decodeF fp32 0x40400000)) = (0x3EAA0000, 0))
    ∧ ∀ (s : State) (p : PReg) (ty : LaneTy) (vd v1 : VReg),
      let m := s.me.rnd.toNat % 4
      let w := laneBits ty
      let reduces := fun (i : Instr) (ident : Nat) (f : Nat → Nat → Nat × BitVec 6) =>
        ∃ (t : State) (T : Nat → Nat → Nat), exec i s = .next t ∧ OnlySlot s t s.sid
          ∧ (∀ k, T 0 k = if laneOn (s.me.gov p) w k then lane (s.me.rv v1) w k else ident)
          ∧ (∀ j k, T (j + 1) k = (f (T j (2 * k)) (T j (2 * k + 1))).1)
          ∧ (t.slot s.sid).rv vd = BitVec.ofNat 512 (T (if w = 32 then 4 else 5) 0)
          ∧ (∀ b, b < 6 → ((t.slot s.sid).fflags.getLsbD b = true ↔ s.me.fflags.getLsbD b = true
              ∨ ∃ j k, k < 512 / w / 2 ^ (j + 1) ∧ (f (T j (2 * k)) (T j (2 * k + 1))).2.getLsbD b = true))
          ∧ (∀ r, r ≠ vd → (t.slot s.sid).rv r = s.me.rv r)
          ∧ { t.slot s.sid with v := s.me.v, fflags := s.me.fflags } = s.me.retire
      let add := fun (g : Fmt) (a b : Nat) => finishF g m (numAdd m (decodeF g a) (decodeF g b))
      (ty ∈ [LaneTy.f32, LaneTy.bf16, LaneTy.fp16] → reduces (.vreds p ty vd v1) (2 ^ (w - 1)) (add (laneFmt ty))
        ∧ reduces (.vredm p ty vd v1) (2 ^ (w - 1) + (laneFmt ty).ones * 2 ^ (laneFmt ty).fb)
            (fun a b => finishF (laneFmt ty) 0 (numMax (decodeF (laneFmt ty) a) (decodeF (laneFmt ty) b))))
      ∧ (ty = .c16 → reduces (.vreds p ty vd v1) 0x80008000 fun a b =>
          ((add bf16 (a % 65536) (b % 65536)).1 + 65536 * (add bf16 (a / 65536) (b / 65536)).1,
            (add bf16 (a % 65536) (b % 65536)).2 ||| (add bf16 (a / 65536) (b / 65536)).2))

/-- R464 to R469. locateAll makes the checks of every element in order; `st` and `ix` are the element addresses. -/
def Obligations.VectorElementsAndMoves : Prop :=
  (∀ (s : State) (h : Bool) (vd vi : VReg) (a b : XReg),
      let z := if h then 2 else 4
      let n := if h then 32 else 16
      let st := (List.range n).map fun k => s.me.rx a + BitVec.ofNat 64 k * s.me.rx b
      let ix := (List.range n).map fun k => s.me.rx a + BitVec.ofNat 64 (z * lane (s.me.rv vi) (8 * z) k)
      let loads := fun (i : Instr) (as : List Word) =>
        (∀ t, s.locateAll s.sid z false as = .error t → Traps i s t)
        ∧ ∀ els s', s.locateAll s.sid z false as = .ok (els, s') →
          ((∀ e, e ∈ els → isOwn s.sid e.1 = true ∧ s'.badAt e.1 z = false ∧ s'.inFlight s'.core e.1 z false = false) → s'.flips = [] →
            ∃ t, exec i s = .next t ∧ OnlySlot s' t s.sid
              ∧ t.slot s.sid = ((s'.slot s.sid).wv vd (ofLanes (8 * z) (els.map fun e => s'.rd e.1 z))).retire)
          ∧ ∀ pa va r, els = (pa, va) :: r → (∃ e, e ∈ els ∧ isOwn s.sid e.1 = false) →
            (∀ e, e ∈ els → isOwn s.sid e.1 = true → s'.inFlight s'.core e.1 z false = false) →
            let q : LoadReq := { sid := s.sid, els := els, size := z, dst := .vector vd, got := 0, n := 0 }
            let p := s'.activePacket s.sid va (.load q)
            match innkeeperOf s.sid pa with
            | none => Sends i s s' (.loadAtOwner q) .reply
            | some c => Sends i s s' (.travellerArrival p c s.sid 0 p.crc) .reply
      let stores := fun (i : Instr) (as : List Word) =>
        (∀ t, s.locateAll s.sid z true as = .error t → Traps i s t)
        ∧ ∀ els s', s.locateAll s.sid z true as = .ok (els, s') →
          ((∀ e, e ∈ els → isOwn s.sid e.1 = true ∧ s'.bad (e.1 / 8) = false ∧ s'.inFlight s'.core e.1 z true = false
              ∧ e.1 / 64 ≠ s'.hostPage / 64 ∧ e.1 % z = 0) →
            ∃ t, exec i s = .next t ∧ t.slot s.sid = (s'.slot s.sid).retire ∧ (∀ k, k ≠ s.sid → t.slot k = s'.slot k)
              ∧ (∀ x, (∀ e, e ∈ els → x < e.1 ∨ e.1 + z ≤ x) → t.byte x = s'.byte x)
              ∧ ∀ k e, els[k]? = some e → (∀ j e', k < j → els[j]? = some e' → e'.1 ≠ e.1) →
                  t.rd e.1 z = lane (s.me.rv vd) (8 * z) k)
          ∧ ((∀ e, e ∈ els → isOwn s.sid e.1 = false) →
            let sent := fun (e : (Nat × Word) × Nat) =>
              let q : StoreReq := { sid := s.sid, pa := e.1.1, size := z, data := BitVec.ofNat 512 (lane (s.me.rv vd) (8 * z) e.2), va := e.1.2 }
              let p := s'.activePacket s.sid e.1.2 (.store q)
              match innkeeperOf s.sid e.1.1 with
              | none => Event.storeAtOwner q
              | some c => Event.travellerArrival p c s.sid 0 p.crc
            exec i s = .next (({ s' with agenda := s'.agenda ++ els.zipIdx.map sent } : State).modSlot s.sid (·.retire)))
      loads (.vlds h vd a b) st ∧ loads (.vgath h vd a vi) ix ∧ stores (.vsts h vd a b) st ∧ stores (.vscat h vd a vi) ix
      ∧ ∀ (w : Word) (r : List Word) (store : Bool),
        (w.toNat % z ≠ 0 → s.locateAll s.sid z store (w :: r) = .error (Trap.sync (if store then 6 else 4) w))
        ∧ (w.toNat % z = 0 → (isRemote w = true ∨ isMalformed w = true) →
          s.locateAll s.sid z store (w :: r) = .error (Trap.sync (if store then 7 else 5) w)))
    ∧ ∀ (s : State) (h : Bool) (rd a b : XReg) (vd v1 v2 : VReg) (pk : PReg),
      let w := if h then 16 else 32
      let n := if h then 32 else 16
      let i := (s.me.rx b).toNat % n
      let lanes := fun (j : Instr) (m u : Nat) (f : Nat → Nat) =>
        ∃ v, Does j s (s.me.wv vd v).retire ∧ ∀ k, k < m → lane v u k = f k % 2 ^ u
      lanes (.vbcst h vd a) n w (fun _ => (s.me.rx a).toNat)
      ∧ lanes (.vins h vd a b) n w (fun k => if k = i then (s.me.rx a).toNat else lane (s.me.rv vd) w k)
      ∧ lanes (.viota h vd a) n w (fun k => (s.me.rx a).toNat + k)
      ∧ lanes (.vsel h vd v1 v2 pk) n w (fun k => lane (s.me.rv (if (s.me.rp pk).getLsbD k then v1 else v2)) w k)
      ∧ lanes (.vshuf vd v1 v2) 64 8 (fun k => let c := lane (s.me.rv v2) 8 k
          if 128 ≤ c then 0 else lane (s.me.rv v1) 8 (c % 64))
      ∧ Does (.vmvx h rd v1 b) s (s.me.wx rd (BitVec.ofInt 64 (BitVec.ofNat w (lane (s.me.rv v1) w i)).toInt)).retire

/-- R340 to R342 with E the end of the positions; the writes are for words that nothing protects, and an access waits for the core's accesses to its words. -/
def Obligations.BitStreams : Prop :=
  ∀ (s : State) (rd a : XReg) (n1 : BitVec 5),
    let E := if isChan s.core then 2 ^ 15 else 2 ^ 20
    let base := if isChan s.core then scratchPa s.sid else lsPa s.core
    let n := n1.toNat + 1
    let p := s.me.bsrd.toNat
    let q := s.me.bswr.toNat
    let clean := fun (p n : Nat) => ∀ k, k < n → s.bad ((base + (p + k) / 8) / 8) = false
    let writes := fun (i : Instr) (n : Nat) (d : Nat → Bool) => q + n ≤ E → clean q n → s.unprotected s.cluster →
      s.inFlight s.core (base + q / 8) ((q % 8 + n + 7) / 8) true = false →
      ∃ t, exec i s = .next t ∧ t.slot s.sid = { s.me with bswr := BitVec.ofNat 20 (q + n) }.retire
        ∧ (∀ k, k ≠ s.sid → t.slot k = s.slot k)
        ∧ ∀ x k, k < 8 → (t.byte x).getLsbD k = if 8 * base + q ≤ 8 * x + k ∧ 8 * x + k < 8 * base + q + n
            then d (8 * x + k - (8 * base + q)) else (s.byte x).getLsbD k
    (E < p + n → Traps (.bsget rd n1) s (Trap.sync 5 (0xF000000000 + BitVec.ofNat 64 (p / 8)))
        ∧ Traps (.bspeek rd n1) s (Trap.sync 5 (0xF000000000 + BitVec.ofNat 64 (p / 8))))
    ∧ (p + n ≤ E → clean p n → s.inFlight s.core (base + p / 8) ((p % 8 + n + 7) / 8) false = false → ∃ w,
        Does (.bsget rd n1) s (Slot.retire { s.me.wx rd w with bsrd := BitVec.ofNat 20 (p + n) })
        ∧ Does (.bspeek rd n1) s (s.me.wx rd w).retire
        ∧ ∀ k, k < 64 → w.getLsbD k = (decide (k < n) && (s.byte (base + (p + k) / 8)).getLsbD ((p + k) % 8)))
    ∧ (E < q + n → Traps (.bsput a n1) s (Trap.sync 7 (0xF000000000 + BitVec.ofNat 64 (q / 8))))
    ∧ writes (.bsput a n1) n (fun k => (s.me.rx a).getLsbD k)
    ∧ (q % 8 = 0 → Does .bsflsh s s.me.retire)
    ∧ (q % 8 ≠ 0 → writes .bsflsh (8 - q % 8) fun _ => false)
    ∧ (E < p + (s.me.rx a).toNat → Traps (.bsskip a) s (Trap.sync 11 (s.me.rx a)))
    ∧ (p + (s.me.rx a).toNat ≤ E →
        Does (.bsskip a) s { s.me with bsrd := BitVec.ofNat 20 (p + (s.me.rx a).toNat) }.retire)
    ∧ Does .bsalgnRd s { s.me with bsrd := BitVec.ofNat 20 (8 * ((p + 7) / 8)) }.retire
    ∧ Does .bsalgnWr s { s.me with bswr := BitVec.ofNat 20 (8 * ((q + 7) / 8)) }.retire

/-- R270 to R276, R343 and R344. -/
def Obligations.ContainmentDomains : Prop :=
  let bad := fun (i : Instr) (s : State) (a n : Word) =>
    let full := s.me.cdlvl = 0 ∨ ∃ d ds, s.me.doms = d :: ds ∧ 16 ≤ d.entries.length
    let len := n.toNat % 64 ≠ 0 ∨ n.toNat < 64 ∨ 2 ^ 20 < n.toNat
    (full → Traps i s (Trap.sync 11 (BitVec.ofNat 64 s.me.cdlvl)))
    ∧ (¬full → s.me.doms ≠ [] → (a.toNat % 64 ≠ 0 → Traps i s (Trap.sync 11 a))
      ∧ (a.toNat % 64 = 0 → (len → Traps i s (Trap.sync 11 n))
        ∧ (¬len → (isRemote a = true ∨ isMalformed a = true) → Traps i s (Trap.sync 5 a))))
  (∀ (s : State) (a b : XReg), isChan s.core = true →
      Traps (.cdopen a) s (Trap.sync 2 (wordOf (.cdopen a))) ∧ Traps .cdclose s (Trap.sync 2 (wordOf .cdclose))
      ∧ Traps (.cdpresCopy a b) s (Trap.sync 2 (wordOf (.cdpresCopy a b)))
      ∧ Traps (.cdpresRef a b) s (Trap.sync 2 (wordOf (.cdpresRef a b))))
    ∧ (∀ (s : State) (a : XReg), isChan s.core = false →
      let v := s.me.rx a
      let used := fun r => s.recUsed s.core r = true
      (v.extractLsb' 16 48 ≠ 0 → Traps (.cdopen a) s (Trap.sync 11 v))
      ∧ (v.extractLsb' 16 48 = 0 → (8 ≤ s.me.cdlvl ∨ ∀ r, r < 8 → used r) →
        Traps (.cdopen a) s (Trap.sync 11 (BitVec.ofNat 64 s.me.cdlvl)))
      ∧ ∀ r, let pa := lsPa s.core + 0x1C000 + r * 0x800
        v.extractLsb' 16 48 = 0 → s.me.cdlvl < 8 → r < 8 → ¬used r → (∀ q, q < r → used q) →
        (s.hostPage + 64 ≤ pa ∨ pa + 0x800 ≤ s.hostPage) →
        ∃ t, exec (.cdopen a) s = .next t ∧ (∀ k, k ≠ s.sid → t.slot k = s.slot k) ∧ t.recUsed s.core r = true
          ∧ t.slot s.sid = Slot.retire { s.me.wx 10 0 with
              cdlvl := s.me.cdlvl + 1, domSerial := s.me.domSerial + 1
              doms := ({ recNo := r, serial := s.me.domSerial + 1, retry := 0, pool := (s.coreSt s.core).poolTop, entries := [], aborting := none, abortAt := 0, opened := s.cycle } : Dom) :: s.me.doms }
          ∧ t.rd (pa + 0x100) 8 = (s.me.pc + 4).toNat
          ∧ (∀ k, 0 < k → k < 32 → t.rd (pa + 8 * k) 8 = (s.me.rx (BitVec.ofNat 5 k)).toNat)
          ∧ (∀ k, k < 8 → t.rd (pa + 0x1E0 + 4 * k) 4 = (s.me.rp (BitVec.ofNat 3 k)).toNat)
          ∧ (∀ k, k < 16 → v.getLsbD k = true → t.rd (pa + 0x200 + 64 * k) 64 = (s.me.rv (BitVec.ofNat 4 k)).toNat)
          ∧ t.rd (pa + 0x600) 8 = 2 ^ 63 + s.sid % 16 * 2 ^ 12 + (s.me.cdlvl + 1) * 2 ^ 8 ∧ SameBut s t pa 0x800)
    ∧ (∀ (s : State) (a b : XReg), isChan s.core = false →
      bad (.cdpresCopy a b) s (s.me.rx a) (s.me.rx b) ∧ bad (.cdpresRef a b) s (s.me.rx a) (s.me.rx b))
    ∧ (∀ (s : State) (a b : XReg) (d : Dom) (ds : List Dom), isChan s.core = false → s.me.cdlvl ≠ 0 → s.me.doms = d :: ds →
      d.entries.length < 16 → (s.me.rx a).toNat % 64 = 0 → (s.me.rx a).extractLsb' 57 7 = 0 →
      (s.me.rx b).toNat % 64 = 0 → 64 ≤ (s.me.rx b).toNat → (s.me.rx b).toNat ≤ 2 ^ 20 →
      let n := (s.me.rx b).toNat
      let lo := (s.me.rx a).toNat
      let top := (s.coreSt s.core).poolTop
      (∃ t, exec (.cdpresRef a b) s = .next t ∧ (∀ k, k ≠ s.sid → t.slot k = s.slot k)
        ∧ t.slot s.sid = { s.me with doms := { d with entries := d.entries ++ [(⟨s.me.rx a, true, n, 0⟩ : Preserve)] } :: ds }.retire
        ∧ (t.clusterSt s.cluster).refs = (s.clusterSt s.cluster).refs ++ [((⟨lo, lo + n⟩ : Machine.Range), s.sid, d.serial)]
        ∧ SameBut s t (recPa s.core d.recNo + 0x610 + 16 * d.entries.length) 16)
      ∧ (2 ^ 20 < top + n → Traps (.cdpresCopy a b) s (Trap.sync 11 (s.me.rx b)))
      ∧ (top + n ≤ 2 ^ 20 → s.unreleased s.core 2 = true → Parks (.cdpresCopy a b) s true)
      ∧ ∀ ps s1 pd s2, top + n ≤ 2 ^ 20 → s.unreleased s.core 2 = false →
        s.span { s.ctx s.sid with thread := false } (s.me.rx a) n .load = .ok (ps, s1) → s1.badPieces ps = false → s1.flips = [] →
        s1.span (s1.domCtx s.sid) (s1.poolVa s.sid top) n .store = .ok (pd, s2) →
        exec (.cdpresCopy a b) s = .next ((((s2.moveWords ((wordsOf pd).zip (wordsOf ps))).markSpan s1.me.team (s1.poolVa s.sid top) pd).addEntry
          { addr := s.me.rx a, ref := false, len := n, pool := top }).upd (·.retire)))
    ∧ (∀ (s : State), isChan s.core = false → s.me.doms = [] → Traps .cdclose s (Trap.sync 11 0))
    ∧ (∀ (s : State) (d : Dom) (ds : List Dom), isChan s.core = false → s.me.doms = d :: ds →
      let waits := s.domWork s.sid [d.serial] = true ∨ s.releaseWaits = true
      (waits → Parks .cdclose s true)
      ∧ (¬waits → ∃ t, exec .cdclose s = .next t ∧ (∀ k, k ≠ s.sid → t.slot k = s.slot k)
        ∧ t.slot s.sid = { s.me with doms := ds, cdlvl := s.me.cdlvl - 1 }.retire ∧ t.recUsed s.core d.recNo = false
        ∧ (∀ e, e ∈ (t.clusterSt s.cluster).refs → e ∈ (s.clusterSt s.cluster).refs ∧ ¬(e.2.1 = s.sid ∧ e.2.2 = d.serial))
        ∧ SameBut s t (recPa s.core d.recNo + 0x600) 8))
    ∧ (∀ s : State, s.me.doms = [] → Traps .cdabort s (Trap.sync 11 0))
    ∧ (∀ (s : State) (d : Dom) (ds : List Dom), s.me.doms = d :: ds →
      (s.me.level = .task → abortDepth (d :: ds) s.cycle = 0 → (∀ e, e ∈ ds → e.serial ≠ d.serial) → exec .cdabort s = .next ((s.upd fun sl =>
        { sl with doms := { d with aborting := some 3, abortAt := s.cycle } :: ds }).post (.domainAbort s.sid (ds.length + 1) 3)))
      ∧ (s.me.level ≠ .task → Does .cdabort s { s.me with heldAbort := s.me.heldAbort ++ [(d.serial, 3)] }.retire))
    ∧ ∀ (s : State) (rd : XReg), s.me.cdEsc < 2 ^ 16 → s.me.cdRetry < 2 ^ 16 → s.me.cdLcause < 16 → s.me.cdLdepth < 16 →
      s.me.cdlvl < 16 → (∀ d ds, s.me.doms = d :: ds → d.retry < 256) →
      ∃ w, Does (.cdstat rd) s (s.me.wx rd w).retire ∧ (w.extractLsb' 48 16).toNat = s.me.cdEsc
        ∧ (w.extractLsb' 32 16).toNat = s.me.cdRetry ∧ (w.extractLsb' 24 4).toNat = s.me.cdLcause
        ∧ (w.extractLsb' 20 4).toNat = s.me.cdLdepth ∧ (w.extractLsb' 16 4).toNat = s.me.cdlvl
        ∧ (w.extractLsb' 0 8).toNat = (match s.me.doms with | d :: _ => d.retry | [] => 0)
        ∧ w.extractLsb' 28 4 = 0 ∧ w.extractLsb' 8 8 = 0

/-- R277 to R279 for the domain at the head of the slot's list, which alone aborts; `depth` is its depth, and `s0` the state with
the array brought to the present cycle. -/
def Obligations.DomainAbortAndRestore : Prop :=
  (∀ (s : State) (k depth r : Nat), depth = 0 ∨ abortDepth (s.slot k).doms s.cycle ≠ depth → exec (.domainAbort k depth r) s = .next s)
    ∧ (∀ (s : State) (k r : Nat) (d : Dom) (ds : List Dom), abortDepth (s.slot k).doms s.cycle = ds.length + 1 →
      let s0 := if isChan (coreOf k) = true then s else s.arrayRun (clusterOf (coreOf k))
      (s0.slot k).doms = d :: ds →
      let s1 := (s0.stopWork k (ds.length + 1) [d.serial]).withdraw k
      let i := Instr.domainAbort k (ds.length + 1) r
      (s1.domWork k [d.serial] = true ∨ (s1.slot k).repliesDue = true →
        exec i s = .next (s1.post (.domainAbort k (ds.length + 1) r)))
      ∧ (s1.domWork k [d.serial] = false → (s1.slot k).repliesDue = false → d.retry ≠ 3 →
        exec i s = .next ((s1.setDoms k ({ d with aborting := some r } :: ds)).post (.domainRestore k)))
      ∧ (s0.domWork k [d.serial] = false → (s0.slot k).repliesDue = false → d.retry = 3 → d.entries = [] → (s0.slot k).saved ≠ 3 →
        ∃ t, exec i s = .next t ∧ (t.slot k).cdEsc = (s0.slot k).cdEsc + 1 ∧ (t.slot k).cdlvl = ds.length
          ∧ (t.slot k).x = (s0.slot k).x ∧ t.recUsed (coreOf k) d.recNo = false
          ∧ (ds = [] → (t.slot k).doms = [] ∧ (t.slot k).status = .ready
              ∧ (t.slot k).due = (s0.slot k).due ++ [Trap.sync 16 (t.slot k).cdstat])
          ∧ ∀ d' ds', ds = d' :: ds' → (t.slot k).doms = { d' with aborting := some r, abortAt := s0.cycle } :: ds'
              ∧ Event.domainAbort k ds.length r ∈ t.agenda))
    ∧ (∀ (s : State) (k : Nat), ((s.slot k).doms = [] ∨ ∃ d ds, (s.slot k).doms = d :: ds ∧ d.aborting = none) →
      exec (.domainRestore k) s = .next s)
    ∧ (∀ (s s' : State) (k r e : Nat) (d : Dom) (ds : List Dom), (s.slot k).doms = d :: ds → d.aborting = some r →
      abortDepth (d :: ds) s.cycle = ds.length + 1 → s.restoreInputs k r d.entries.reverse = (some e, s') →
      exec (.domainRestore k) s = .next ((s'.freeDom k d).escalate k e))
    ∧ ∀ (s s' : State) (k r : Nat) (d : Dom) (ds : List Dom), (s.slot k).doms = d :: ds → d.aborting = some r →
      abortDepth (d :: ds) s.cycle = ds.length + 1 → s.restoreInputs k r d.entries.reverse = (none, s') →
      let pa := recPa (coreOf k) d.recNo
      ∃ t, exec (.domainRestore k) s = .next t ∧ SameBut s' t (pa + 0x600) 8 ∧ (∀ j, j ≠ k → t.slot j = s'.slot j)
        ∧ (t.slot k).status = .ready ∧ (t.slot k).pc = pcOf (BitVec.ofNat 64 (s'.rd (pa + 0x100) 8)) ∧ (t.slot k).cdlvl = ds.length + 1
        ∧ (t.slot k).rx 10 = BitVec.ofNat 64 (d.retry + 1)
        ∧ (∀ j, 0 < j → j < 32 → j ≠ 10 → (BitVec.ofNat 64 (s'.rd pa 8)).getLsbD j = true →
            (t.slot k).rx (BitVec.ofNat 5 j) = BitVec.ofNat 64 (s'.rd (pa + 8 * j) 8))
        ∧ (∀ j, j < 8 → (BitVec.ofNat 64 (s'.rd pa 8)).getLsbD (48 + j) = true →
            (t.slot k).rp (BitVec.ofNat 3 j) = BitVec.ofNat 32 (s'.rd (pa + 0x1E0 + 4 * j) 4))
        ∧ (t.slot k).doms = { d with retry := d.retry + 1, aborting := none } :: ds
        ∧ (t.slot k).cdRetry = (s'.slot k).cdRetry + 1 ∧ (t.slot k).cdLcause = r ∧ (t.slot k).cdLdepth = ds.length + 1
        ∧ (t.clusterSt (clusterOf (coreOf k))).done.reexec = (s'.clusterSt (clusterOf (coreOf k))).done.reexec + 1

/-- R94, R178, R182, R190 to R193, R207, R368 to R370, R395. `w` is the command word with S1 to S3 applied. -/
def Obligations.EngineInstructions : Prop :=
  (∀ (s : State) (q : QReg) (v : VReg) (a b : XReg), isChan s.core = true →
      Traps .mlease s (Trap.sync 2 (wordOf .mlease)) ∧ Traps .mrel s (Trap.sync 2 (wordOf .mrel))
      ∧ Traps (.efence a b) s (Trap.sync 2 (wordOf (.efence a b))) ∧ Traps (.enq q v) s (Trap.sync 2 (wordOf (.enq q v))))
    ∧ (∀ s : State, isChan s.core = false →
      let k := s.clusterSt s.cluster
      (k.holder = some s.sid → Does .mlease s s.me.retire)
      ∧ (k.holder = none → Turns .mlease s s.me.retire fun t =>
          (t.clusterSt s.cluster).holder = some s.sid ∧ (t.clusterSt s.cluster).leaseCount = 0)
      ∧ (∀ h, k.holder = some h → h ≠ s.sid → Turns .mlease s (s.me.parkRetry true) fun t =>
          (t.clusterSt s.cluster).holder = some h ∧ s.sid ∈ (t.clusterSt s.cluster).leaseWaits)
      ∧ (k.holder ≠ some s.sid → Does .mrel s s.me.retire)
      ∧ (k.holder = some s.sid → k.leaseWaits = [] → Turns .mrel s s.me.retire fun t => (t.clusterSt s.cluster).holder = none)
      ∧ (k.holder = some s.sid → k.leaseWaits ≠ [] → ∃ (n w : Nat), k.leaseWaits[n]? = some w
          ∧ (∀ (j v : Nat), k.leaseWaits[j]? = some v → (s.slot v).sprio.toNat ≤ (s.slot w).sprio.toNat
              ∧ (j < n → (s.slot v).sprio.toNat < (s.slot w).sprio.toNat))
          ∧ Turns .mrel s s.me.retire fun t => (t.clusterSt s.cluster).holder = some w
              ∧ w ∉ (t.clusterSt s.cluster).leaseWaits ∧ (t.clusterSt s.cluster).leaseCount = 0))
    ∧ (∀ (sl : Slot) (w : BitVec 256), tileW (sl.substitute w) 0 = tileW w 0
      ∧ ∀ k r, (k, r) ∈ [(1, (tileHdr w).s1), (2, (tileHdr w).s2), (3, (tileHdr w).s3)] →
        tileW (sl.substitute w) k = if r = 0 then tileW w k
          else ((tileW w k >>> 57) <<< 57) ||| (sl.rx r &&& 0x1FFFFFFFFFFFFFF))
    ∧ (∀ (s : State) (q : QReg) (v : VReg), isChan s.core = false →
      let n := BitVec.ofNat 64 q.toNat
      let b := s.me.qb q.toNat
      let w := s.me.substitute ((s.me.rv v).extractLsb' 0 256)
      let w0 := tileW w 0
      let e := qSub b
      let ctx := { s.ctx s.sid with thread := false }
      let i := Instr.enq q v
      let bound := qKind b = 2 ∧ s.breaksRow s.sid b = false
      let head := tileHeadOk w = true ∧ tileEngine (tileOpc w) = some e
      let free := (e = 2 → (s.coreSt s.core).trel = false) ∧ (e = 0 → (s.clusterSt s.cluster).holder = some s.sid)
      (¬bound → Traps i s (Trap.sync 11 n)) ∧ (bound → ¬head → Traps i s (Trap.sync 2 w0))
      ∧ (bound → head → e = 2 → (s.coreSt s.core).trel = true → Traps i s (Trap.sync 11 n))
      ∧ (bound → head → e = 0 → (s.clusterSt s.cluster).holder ≠ some s.sid → Traps i s (Trap.sync 20 w0))
      ∧ (bound → head → free → ∀ k, decodeTile w = .error (.field k) → Traps i s (Trap.sync 2 w0 (BitVec.ofNat 64 k)))
      ∧ (bound → head → free → ∀ j, decodeTile w = .ok j → s.listPoison s.core j = none →
        (∀ t, s.engineChecks ctx (s.sampleCmd s.sid e w j) = .error t → Traps i s t)
        ∧ ∀ c, s.engineChecks ctx (s.sampleCmd s.sid e w j) = .ok c →
          (∀ a, s.footProtected ctx c = some a → Traps i s (Trap.sync 7 a (detail 8 0)))
          ∧ (s.footProtected ctx c = none → s.enqRoom e = false → Parks i s true)
          ∧ (s.footProtected ctx c = none → s.enqRoom e = true → e = 0 →
            exec i s = .next (((s.acceptCmd c).countLease s.cluster s.sid).upd (·.retire)))
          ∧ (s.footProtected ctx c = none → s.enqRoom e = true → e ≠ 0 →
            let f := s.me.fifos.toList.getD e ResFifo.init
            Turns i s { s.me with fifos := s.me.fifos.set! e { f with reserved := f.reserved + 1 } }.retire fun t =>
              (t.clusterSt s.cluster).queues.toList.getD e [] = (s.clusterSt s.cluster).queues.toList.getD e []
                ++ [{ c with ticket := (s.clusterSt s.cluster).nextTicket }]
              ∧ (t.clusterSt s.cluster).tracker = (s.clusterSt s.cluster).tracker
                ++ [{ ticket := (s.clusterSt s.cluster).nextTicket, reads := c.foot.1.map (·.blocks), write := c.foot.2.map (·.blocks), since := s.cycle }]
              ∧ Event.tileCommandStart s.cluster e ∈ t.agenda)))
    ∧ (∀ (s : State) (cl k : Nat), let c := s.clusterSt cl
      (c.leaseCount < 31 → ((s.countLease cl k).clusterSt cl).leaseCount = c.leaseCount + 1
        ∧ ((s.countLease cl k).clusterSt cl).holder = c.holder)
      ∧ (c.leaseCount = 31 → c.leaseWaits = [] → ((s.countLease cl k).clusterSt cl).leaseCount = 0
        ∧ ((s.countLease cl k).clusterSt cl).holder = some k))
    ∧ (∀ (s : State) (a b : XReg), isChan s.core = false →
      let lo := (s.me.rx a).toNat
      let n := (s.me.rx b).toNat
      let meets := ∃ e, e ∈ (s.clusterSt s.cluster).tracker ∧ ∃ r : Machine.Range, (r ∈ e.reads ∨ e.write = some r)
        ∧ lo / 64 < r.hi ∧ r.lo < (lo + n + 63) / 64
      (n = 0 → Does (.efence a b) s s.me.retire)
      ∧ (n ≠ 0 → 2 ^ 57 < lo + n → Traps (.efence a b) s (Trap.sync 11 (s.me.rx a)))
      ∧ (n ≠ 0 → lo + n ≤ 2 ^ 57 → meets → Parks (.efence a b) s true)
      ∧ (n ≠ 0 → lo + n ≤ 2 ^ 57 → ¬meets → Does (.efence a b) s s.me.retire))
    ∧ ∀ (s : State) (a : XReg), s.me.level ≠ .task →
      let v := s.me.rx a
      let s1 := if isChan s.core then s else s.arrayRun s.cluster
      (v.extractLsb' 32 32 ≠ 0 → Traps (.eres a) s (Trap.sync 11 v))
      ∧ (s1.workOf v = none → Traps (.eres a) s (Trap.sync 11 v))
      ∧ (∀ w, s1.workOf v = some w → exec (.eres a) s = .next ((s1.release (v.getLsbD 6) w).upd (·.retire)))
      ∧ ∀ (c : Copy) (l : List Copy) (ch : Nat), v = BitVec.ofNat 64 (c.sid % 16 + 48 + 256 * ch) → ch < 4 →
        c.sid / 16 = s.core → (s.coreSt s.core).chans.toList.getD ch [] = c :: l → c.susp.isSome = true →
        s.workOf v = some (.copy s.core ch c)

/-- R97, R202, R219, R389, R454. tinkLoad and tinkPut are the block-wise reads and writes, tinkOut what the command computes. -/
def Obligations.EngineEvents : Prop :=
  (∀ (s : State) (cl e r : Nat) (c : Cmd), e = 1 ∨ e = 2 → (s.clusterSt cl).queues.toList.getD e [] = [c] → c.ready = some r →
      s.running cl e = [] → c.eng = e → s.canStart cl s.cycle c = true →
      ∃ t, exec (.tileCommandStart cl e) s = .next t ∧ t.mem = s.mem ∧ t.slots = s.slots
        ∧ (t.clusterSt cl).queues.toList.getD e [] = []
        ∧ (t.clusterSt cl).running = (s.clusterSt cl).running ++ [{ c with start := some s.cycle }]
        ∧ Event.tileCommandComplete cl e c.ticket ∈ t.agenda)
    ∧ (∀ (s : State) (cl e n : Nat), e ≠ 0 → s.runCmd cl n = none → exec (.tileCommandComplete cl e n) s = .next s)
    ∧ (∀ (s : State) (cl e n : Nat) (c : Cmd), e ≠ 0 → s.runCmd cl n = some c → c.susp.isSome = true →
      exec (.tileCommandComplete cl e n) s = .next s)
    ∧ ∀ (s s1 s2 : State) (cl : Nat) (c c1 c2 : Cmd), s.runCmd cl c.ticket = some c → c.susp = none → c.eng = 2 →
      c.inner = [] → c.step = 0 → c.rowsW = 0 → c.flags = 0 → c.status = 0 → c.poisonOp = 0 → (s2.slot c.sid).abortedBy c.dom s2.cycle = none →
      s.tinkLoad cl c c.ins 5000000 = (c1, s1, true) →
      let out := tinkOut c.ins c1.buf
      out.bad = 0 → c1.step < 2 ^ 20 → s1.tinkPut cl c1 (out.writes.drop (c1.step - c1.rowsR)) = (c2, s2, true) →
      ∃ t, exec (.tileCommandComplete cl 2 c.ticket) s = .next t ∧ t.mem = s2.mem ∧ t.runCmd cl c.ticket = none
        ∧ let f := (s2.slot c.sid).fifos.toList.getD 2 ResFifo.init
          t.slot c.sid = { s2.slot c.sid with fifos := (s2.slot c.sid).fifos.set! 2 { f with recs := f.recs ++ [recordWord (tileOpc c.w).toNat (if out.flags = 0 then 0 else 1) out.flags.toNat f.seq.toNat 0], seq := f.seq + 1, reserved := f.reserved - 1 } }

/-- R54, R138 to R140, R229, R130, R261, R358 to R361, R447. `m` is the mask word at the start of the frame. -/
def Obligations.KernelContextInstructions : Prop :=
  (∀ (s : State) (a b : XReg), s.me.level = .task →
      Traps .kret s (Trap.sync 2 (wordOf .kret))
      ∧ Traps (.tlbinv a b) s (Trap.sync 2 (wordOf (.tlbinv a b))) ∧ Traps (.ctxst a b) s (Trap.sync 2 (wordOf (.ctxst a b)))
      ∧ Traps (.ctxld a b) s (Trap.sync 2 (wordOf (.ctxld a b))) ∧ Traps (.scrub a b) s (Trap.sync 2 (wordOf (.scrub a b)))
      ∧ Traps (.teamstop a) s (Trap.sync 2 (wordOf (.teamstop a))) ∧ Traps (.teamgo a) s (Trap.sync 2 (wordOf (.teamgo a)))
      ∧ Traps (.ptparm a) s (Trap.sync 2 (wordOf (.ptparm a)))
      ∧ Traps (.ksfload a b) s (Trap.sync 2 (wordOf (.ksfload a b))) ∧ Traps (.eres a) s (Trap.sync 2 (wordOf (.eres a))))
    ∧ (∀ (s : State) (a b : XReg), s.me.level ≠ .task → isChan s.core = true →
      Traps (.tlbinv a b) s (Trap.sync 2 (wordOf (.tlbinv a b))) ∧ Traps (.ctxst a b) s (Trap.sync 2 (wordOf (.ctxst a b)))
      ∧ Traps (.ctxld a b) s (Trap.sync 2 (wordOf (.ctxld a b))))
    ∧ (∀ (s : State) (a b : XReg), s.me.level ≠ .task → isChan s.core = false →
      let v := s.me.rx a
      let va := s.me.rx b
      let gone := fun (e : TlbEnt) => (v.getLsbD 16 = true ∨ e.global = true ∨ e.asid = (v.extractLsb' 0 16).zeroExtend 64)
        ∧ (v.getLsbD 17 = true ∨ e.vpn = pageNo va e.level)
      let waits := s.releaseWaits = true
      (v.extractLsb' 18 46 ≠ 0 → Traps (.tlbinv a b) s (Trap.sync 11 v))
      ∧ (v.extractLsb' 18 46 = 0 → waits → Parks (.tlbinv a b) s false)
      ∧ (v.extractLsb' 18 46 = 0 → ¬waits → Turns (.tlbinv a b) s s.me.retire fun t =>
          (∀ c e, e ∈ (t.coreSt c).tlb ↔ e ∈ (s.coreSt c).tlb ∧ ¬gone e)
          ∧ (∀ c e, e ∈ (t.clusterSt c).tlb ↔ e ∈ (s.clusterSt c).tlb ∧ ¬gone e)
          ∧ ∀ c e, e ∈ (t.chan c).fbuf → e ∈ (s.chan c).fbuf ∧ v.getLsbD 17 = false ∧ e.2.1 / 2 ^ 23 ≠ va.toNat % 2 ^ 57 / 2 ^ 29))
    ∧ (∀ (s : State) (a b : XReg), s.me.level ≠ .task → isChan s.core = false →
      let v := s.me.rx a
      let va := s.me.rx b
      let k := s.core * 16 + v.toNat % 16
      let st := (s.slot k).status
      let field := v.extractLsb' 13 51 = 0 ∧ v.extractLsb' 4 4 = 0 ∧ s.isUserSlot s.core (v.toNat % 16) = true
      let okSt := field ∧ (k = s.sid ∨ st = .idle ∨ st = .exited ∨ st.safePark = true)
      let okLd := field ∧ (k = s.sid ∨ st = .idle ∨ st = .exited)
      (¬okSt → Traps (.ctxst a b) s (Trap.sync 11 v)) ∧ (¬okLd → Traps (.ctxld a b) s (Trap.sync 11 v))
      ∧ (okSt → va.toNat % 2048 ≠ 0 → Traps (.ctxst a b) s (Trap.sync 6 va))
      ∧ (okLd → va.toNat % 2048 ≠ 0 → Traps (.ctxld a b) s (Trap.sync 4 va))
      ∧ (∀ t, okSt → va.toNat % 2048 = 0 → s.locateStore s.sid va 2048 = .error t → Traps (.ctxst a b) s t)
      ∧ (∀ t, okLd → va.toNat % 2048 = 0 → s.locate s.sid va 2048 .load = .error t → Traps (.ctxld a b) s t)
      ∧ (∀ h, okSt → va.toNat % 2048 = 0 → s.locateStore s.sid va 2048 = .ok h → s.inFlight s.core h.pa 2048 true = false →
        h.st.bad (h.pa / 8) = false → h.st.plainWrites s.sid → (h.st.hostPage + 64 ≤ h.pa ∨ h.pa + 2048 ≤ h.st.hostPage) →
        let sl := h.st.slot k
        let m : Word := BitVec.ofNat 64 (h.st.rd h.pa 8)
        ∃ t, exec (.ctxst a b) s = .next t ∧ (∀ j, j ≠ k → j ≠ s.sid → t.slot j = h.st.slot j) ∧ SameBut h.st t h.pa 2048
          ∧ (t.slot k).x = sl.x ∧ (t.slot k).v = sl.v ∧ (t.slot k).p = sl.p
          ∧ (v.getLsbD 12 = true → (t.slot k).frame = some (h.pa, sl.pending.take 8))
          ∧ (v.getLsbD 8 = true → ∀ j, 0 < j → j < 32 → m.getLsbD j = true →
              t.rd (h.pa + 8 * j) 8 = (sl.rx (BitVec.ofNat 5 j)).toNat)
          ∧ (v.getLsbD 9 = true → ∀ j, j < 16 → m.getLsbD (32 + j) = true →
              t.rd (h.pa + 0x200 + 64 * j) 64 = (sl.rv (BitVec.ofNat 4 j)).toNat)
          ∧ (v.getLsbD 10 = true → ∀ j, j < 8 → m.getLsbD (48 + j) = true →
              t.rd (h.pa + 0x1E0 + 4 * j) 4 = (sl.rp (BitVec.ofNat 3 j)).toNat)
          ∧ (v.getLsbD 11 = true → t.rd (h.pa + 0x100) 8 = (if k = s.sid then sl.kepc else sl.pc).toNat
              ∧ t.rd (h.pa + 0x108) 8 = sl.kstatus.toNat))
      ∧ ∀ h, okLd → va.toNat % 2048 = 0 → s.locate s.sid va 2048 .load = .ok h → s.inFlight s.core h.pa 2048 false = false →
        h.st.badAt h.pa 2048 = false → v.getLsbD 12 = false →
        let m : Word := BitVec.ofNat 64 (h.st.rd h.pa 8)
        ∃ t, exec (.ctxld a b) s = .next t ∧ (∀ j, j ≠ k → j ≠ s.sid → t.slot j = h.st.slot j) ∧ t.mem = h.st.mem
          ∧ (∀ j, 0 < j → j < 32 → (t.slot k).rx (BitVec.ofNat 5 j) =
              if v.getLsbD 8 = true ∧ m.getLsbD j = true then BitVec.ofNat 64 (h.st.rd (h.pa + 8 * j) 8)
              else (h.st.slot k).rx (BitVec.ofNat 5 j))
          ∧ (∀ j, j < 16 → (t.slot k).rv (BitVec.ofNat 4 j) =
              if v.getLsbD 9 = true ∧ m.getLsbD (32 + j) = true then BitVec.ofNat 512 (h.st.rd (h.pa + 0x200 + 64 * j) 64)
              else (h.st.slot k).rv (BitVec.ofNat 4 j))
          ∧ (∀ j, j < 8 → (t.slot k).rp (BitVec.ofNat 3 j) =
              if v.getLsbD 10 = true ∧ m.getLsbD (48 + j) = true then BitVec.ofNat 32 (h.st.rd (h.pa + 0x1E0 + 4 * j) 4)
              else (h.st.slot k).rp (BitVec.ofNat 3 j))
          ∧ (v.getLsbD 11 = true → let w : Word := BitVec.ofNat 64 (h.st.rd (h.pa + 0x100) 8)
              if k = s.sid then (t.slot k).kepc = w &&& ~~~3 else (t.slot k).pc = pcOf w))
    ∧ (∀ (s : State) (k : Nat) (va : Word) (d : Dir),
      (∀ e, s.walk (s.ctx k) va d = .error e → exec (.pageTableWalk k va d) s = .next s)
      ∧ ∀ pa e s', (∀ x, x ∈ s.teams → x.2.ckRun = false) → s.walk (s.ctx k) va d = .ok (pa, e, s') → exec (.pageTableWalk k va d) s = .next s'
        ∧ pteA e = true ∧ (d = .store → pteD e = true) ∧ s'.slots = s.slots ∧ s'.agenda = s.agenda
        ∧ ∃ lpa level e0, s.walkFrom va 3 0 (ptRoot (s.ctx k).ptb) = .ok (lpa, e0, level) ∧ pa = leafPa e level va
          ∧ leafRefuses e0 (s.slot k).level d true = none ∧ SameBut s s' lpa 8 ∧ s'.rd lpa 8 = e.toNat
          ∧ ∃ x, x ∈ (s'.coreSt (coreOf k)).tlb ∧ x.leaf = e ∧ x.vpn = pageNo va level ∧ x.asid = (s.slot k).asid)
    ∧ (∀ (s : State) (ch asid line k : Nat) (h : Hit),
      (s.lineUser ch (BitVec.ofNat 64 asid) line = none → exec (.fetchLineArrival ch asid line) s = .next s)
      ∧ (s.lineUser ch (BitVec.ofNat 64 asid) line = some k →
        s.resolve (s.ctx k) (BitVec.ofNat 64 (line * 64)) 64 .fetch = .ok h →
        ∃ t, exec (.fetchLineArrival ch asid line) s = .next t ∧ t.mem = h.st.mem ∧ t.slots = h.st.slots
          ∧ (BitVec.ofNat 64 asid, line, BitVec.ofNat 512 (h.st.rd h.pa 64)) ∈ (t.chan ch).fbuf))
    ∧ ∀ (s : State) (cl line : Nat),
      (line ∉ (s.clusterSt cl).vfills → exec (.vaultCacheFill cl line) s = .next s)
      ∧ (line ∈ (s.clusterSt cl).vfills → ∃ t, exec (.vaultCacheFill cl line) s = .next t ∧ t.mem = s.mem ∧ t.slots = s.slots
        ∧ line ∈ (t.clusterSt cl).vcache ∧ line ∉ (t.clusterSt cl).vfills)

/-- R242, R254, R284, R347, R410 to R413, R434, R441, R443, R445. The row and line steps are stated beside the host port page, while no checkpoint of a team is running, no presence entry waits and memory has its canonical form. -/
def Obligations.PagesTeamsAndCheckpointRequests : Prop :=
  let idle := fun (s : State) => ∀ e, e ∈ s.teams → e.2.ckRun = false
  let calm := fun (s : State) => idle s ∧ (∀ e, e ∈ s.coreTab → e.2.waits = []) ∧ ∀ e, e ∈ s.clusters → e.2.vwaits = []
  let goodPage := fun (s : State) (d : Word) => d.toNat % 0x10000 = 0 ∧ d.extractLsb' 57 7 = 0 ∧ inWindows d = false
    ∧ (inPhysWindow d = true → s.me.level ≠ .task)
  let free := fun (s : State) => s.unreleased s.core 4 = false ∧ s.me.unacquired = false
  (∀ (s : State) (a b : XReg), let d := s.me.rx a
      let src := s.me.rx b
      (d.toNat % 0x10000 ≠ 0 → Traps (.pgzero a) s (Trap.sync 6 d) ∧ Traps (.pgcopy a b) s (Trap.sync 6 d))
      ∧ (d.toNat % 0x10000 = 0 → src.toNat % 0x10000 ≠ 0 → Traps (.pgcopy a b) s (Trap.sync 4 src))
      ∧ (d.toNat % 0x10000 = 0 → d.extractLsb' 57 7 ≠ 0 → Traps (.pgzero a) s (Trap.sync 7 d))
      ∧ (∀ h, goodPage s d → s.pageAt d .store = .ok h → s.pageKept d = false →
        (ownerOf h.pa ≠ .hbm → Traps (.pgzero a) s (Trap.sync 11 d))
        ∧ (ownerOf h.pa = .hbm → ¬free s → Parks (.pgzero a) s false)
        ∧ (ownerOf h.pa = .hbm → free s → Sends (.pgzero a) s (h.st.markCk s.me.team d h.pa)
            (.pageRowStep s.sid h.pa none (pteRL h.leaf) 0) .reply))
      ∧ ∀ h g, goodPage s d → goodPage s src → s.pageAt d .store = .ok h → h.st.pageAt src .load = .ok g →
        s.pageKept d = false → ownerOf h.pa = .hbm → ownerOf g.pa = .hbm → free s →
        Sends (.pgcopy a b) s (g.st.markCk s.me.team d h.pa)
          (.pageRowStep s.sid h.pa (some g.pa) (pteRL h.leaf && pteRL g.leaf) 0) .reply)
    ∧ (∀ (s : State) (k dst i : Nat) (src : Option Nat) (rl : Bool), calm s → Memory.wf s.mem = true → dst % 0x10000 = 0 →
      let n := if rl then 1024 else 64
      let row := dst + i * n
      ¬(row ≤ s.hostPage ∧ s.hostPage + 64 ≤ row + n) →
      (∀ a, src = some a → a % 0x10000 = 0 ∧ a ≠ dst) → i < 0x10000 / n →
      ∃ t, exec (.pageRowStep k dst src rl i) s = .next t ∧ SameBut s t row n
        ∧ (∀ j, j < n → t.byte (row + j) = match src with | some a => s.byte (a + i * n + j) | none => 0)
        ∧ (∀ j, j < n / 8 → t.full (row / 8 + j) = (match src with | some a => s.full ((a + i * n) / 8 + j) | none => true)
          ∧ t.bad (row / 8 + j) = match src with | some a => s.bad ((a + i * n) / 8 + j) | none => false)
        ∧ (0x10000 ≤ (i + 1) * n → (s.slot k).status = .parked .reply → t.slot k = (s.slot k).retire)
        ∧ ((i + 1) * n < 0x10000 → t.slots = s.slots ∧ Event.pageRowStep k dst src rl (i + 1) ∈ t.agenda))
    ∧ (∀ (s : State) (a b : XReg), s.me.level ≠ .task → isChan s.core = false →
      let d := s.me.rx a
      let n := s.me.rx b
      (d.toNat % 64 ≠ 0 → Traps (.scrub a b) s (Trap.sync 6 d))
      ∧ (d.toNat % 64 = 0 → (n.toNat % 64 ≠ 0 ∨ n = 0 ∨ 2 ^ 32 < n.toNat) → Traps (.scrub a b) s (Trap.sync 11 n))
      ∧ (∀ h, d.toNat % 64 = 0 → n.toNat % 64 = 0 → n ≠ 0 → n.toNat ≤ 2 ^ 32 → d.extractLsb' 57 7 = 0 → inWindows d = false →
        s.resolve (s.kctx s.sid) d 64 .store = .ok h →
        (¬free s → Parks (.scrub a b) s false) ∧ (free s → Sends (.scrub a b) s s (.scrubLineStep s.sid d n.toNat) .reply)))
    ∧ (∀ (s : State) (k left : Nat) (va : Word) (h : Hit), (s.slot k).status = .parked .reply → 64 ≤ left →
      s.resolve (s.kctx k) va 64 .store = .ok h → h.pa % 8 = 0 → calm h.st → h.pa ≠ h.st.hostPage →
      ∃ t, exec (.scrubLineStep k va left) s = .next t ∧ SameBut h.st t h.pa 64 ∧ (∀ j, j < 64 → t.byte (h.pa + j) = 0)
        ∧ (∀ j, j < 8 → t.full (h.pa / 8 + j) = true ∧ t.bad (h.pa / 8 + j) = false)
        ∧ (left = 64 → t.slot k = (h.st.slot k).retire)
        ∧ (64 < left → t.slots = h.st.slots ∧ Event.scrubLineStep k (va + 64) (left - 64) ∈ t.agenda))
    ∧ (∀ s : State, (∀ t, s.teamOf s.me = some t → t.boundary = none) → Does .step s { s.me with step := s.me.step + 1 }.retire)
    ∧ (∀ (s : State) (t : Team) (k j : Nat), s.teamOf s.me = some t → t.boundary = some k → s.me.level = .task →
      s.me.running = .user → k ≤ (s.me.step + 1).toNat → j ∈ t.userSlots → j ≠ s.sid → (s.slot j).status ≠ .exited →
      (s.slot j).ckArr = false → Does .step s { s.me.parkOn .step with ckArr := true })
    ∧ (∀ (s : State) (t : Team), s.me.level = .task → s.team? s.me.team = some t → (t.ckWant.isSome = true ∨ t.ckRun = true) →
      Does .ckpt s s.me.retire)
    ∧ (∀ (s : State) (t : Team) (j : Nat), s.me.level = .task → s.team? s.me.team = some t → t.ckWant = none → t.ckRun = false →
      j ∈ t.userSlots → (s.slot j).status ≠ .exited → (s.slot j).ckArr = false →
      ∃ u, exec .ckpt s = .next u ∧ u.slot s.sid = s.me.retire ∧ u.mem = s.mem
        ∧ u.team? s.me.team = some { t with ckWant := some (s.maxStep t + 1) })
    ∧ (∀ (s : State) (a : XReg), s.me.level ≠ .task →
      let r := s.me.rx a
      let id := (r.extractLsb' 0 16).toNat
      let mode := (r.extractLsb' 16 2).toNat
      (r.extractLsb' 18 6 ≠ 0 ∨ mode = 3 ∨ id = 0 ∨ s.team? id = none → Traps (.teamstop a) s (Trap.sync 11 r))
      ∧ (∀ t, r.extractLsb' 18 6 = 0 → mode ≠ 3 → id ≠ 0 → s.team? id = some t →
        (t.state = 3 ∨ t.state = 4 → Traps (.teamstop a) s (Trap.sync 11 r))
        ∧ (t.state = 1 → t.stop.isSome = true → Does (.teamstop a) s s.me.retire)
        ∧ (t.state = 1 → t.stop = none → mode = 0 → t.flags.toNat % 4 ≠ 2 → s.exceptional t = false → calm s → ∃ u u', exec (.teamstop a) s = .next u
          ∧ u.team? id = some u' ∧ u'.stop = some 0
          ∧ (∀ k, k ∈ t.userSlots → (s.slot k).status ≠ .exited → (u.slot k).preqReq = true)
          ∧ (∀ k, (u.slot k).x = (s.slot k).x) ∧ Event.saveComplete id ∈ u.agenda)))
    ∧ (∀ (s : State) (a : XReg), s.me.level ≠ .task →
      let r := s.me.rx a
      (r.toNat % 256 ≠ 0 → Traps (.teamgo a) s (Trap.sync 4 r))
      ∧ (∀ t, r.toNat % 256 = 0 → s.locate s.sid r 256 .load = .error t → Traps (.teamgo a) s t)
      ∧ ∀ h, r.toNat % 256 = 0 → s.locate s.sid r 256 .load = .ok h →
        (∀ t, h.st.submit (s.ctx s.sid) r (s.me.level == .monitor) = .error t → Traps (.teamgo a) s t)
        ∧ ∀ s', h.st.submit (s.ctx s.sid) r (s.me.level == .monitor) = .ok s' →
          exec (.teamgo a) s = .next (s'.upd (·.retire)))
    ∧ (∀ (s : State) (tid r : Nat) (w : Word) (es regs : List Nat), calm s → let t := s.newTeam w r es regs
      (s.acceptRecord tid t).team? tid = some (s.savedGens tid t) ∧ Event.dispatchPlace t.lid [] ∈ (s.acceptRecord tid t).agenda ∧ (s.acceptRecord tid t).slots = s.slots)
    ∧ ∀ (s : State) (a : XReg), s.me.level ≠ .task →
      let w := s.me.rx a
      let at' := w.toNat / 2 * 2
      (at' = 0 → Does (.ptparm a) s (if w.getLsbD 0 then { s.me with timerAt := none } else { s.me with sliceAt := none }).retire)
      ∧ (s.ptp < at' →
        Does (.ptparm a) s (if w.getLsbD 0 then { s.me with timerAt := some at' } else { s.me with sliceAt := some at' }).retire)
      ∧ (at' ≠ 0 → at' ≤ s.ptp → ∃ sl, Does (.ptparm a) s sl ∧ sl.x = s.me.x
          ∧ (if w.getLsbD 0 then (2, BitVec.ofNat 64 at') ∈ sl.instants ∧ sl.timerAt = none
            else (1, BitVec.ofNat 64 at') ∈ sl.instants ∧ sl.sliceAt = none))

/-- R35 to R39, R41, R187, R363, R365, R372, R377. `noSlot` is the sender of packets that the device injects. The order of entries with equal priority is R37's. The saved frame is stated while no checkpoint of a team is running. -/
def Obligations.TravellersArriveRunAndReturn : Prop :=
  let got := fun (s t : State) (p : Packet) (k : Nat) =>
    ((s.slot k).status = .parked .reply → t.slot k = { (s.slot k).retire with delegSeq := if p.kind = 2 ∧ p.reply.getLsbD 4 then (s.slot k).delegSeq + 1 else (s.slot k).delegSeq })
    ∧ ((s.slot k).status = .parked .moving → (s.slot k).running = .user →
        t.slot k = { s.slot k with status := .away, spCount := 0, follow := none })
    ∧ ((s.slot k).status = .parked .moving → (s.slot k).running ≠ .user → (t.slot k).status = .idle
        ∧ Event.runQueueRelease (coreOf k) ∈ t.agenda)
    ∧ ((s.slot k).status = .parked .reply → p.kind = 1 → ∀ c, s.clusterAt p.team p.origin = some c →
        (t.clusterSt c).spawned = (s.clusterSt c).spawned + 1)
    ∧ (∀ j, j ≠ k → t.slot j = s.slot j) ∧ t.mem = s.mem
  let idle := fun (s : State) => ∀ e, e ∈ s.teams → e.2.ckRun = false
  (∀ (s : State) (p : Packet) (o k n due : Nat) (c : BitVec 32), s.wanted p k = false →
      exec (.travellerArrival p o k n c) s = .next s ∧ exec (.travellerRetry p o k n due) s = .next s)
    ∧ (∀ (s : State) (p : Packet) (o k n : Nat) (c : BitVec 32), s.wanted p k = true → c ≠ p.crc → idle s →
      ∃ t, exec (.travellerArrival p o k n c) s = .next t ∧ t.slots = s.slots
        ∧ t.agenda = s.agenda ++ [Event.travellerArrival p o k n p.crc]
        ∧ ∀ T, s.team? p.team = some T → t.team? p.team = some { T with corrupt := T.corrupt + 1 })
    ∧ (∀ (s : State) (p : Packet) (o k n due : Nat), s.wanted p k = true → s.cycle < due →
      exec (.travellerRetry p o k n due) s = .next (s.post (.travellerRetry p o k n due)))
    ∧ (∀ (s : State) (p : Packet) (o k n due : Nat), s.wanted p k = true → due ≤ s.cycle →
      exec (.travellerRetry p o k n due) s = exec (.travellerArrival p o k n p.crc) s)
    ∧ (∀ (s : State) (p : Packet) (o k n : Nat), s.wanted p k = true → p.act = none → p.kind = 4 →
      exec (.travellerArrival p o k n p.crc) s = .next (s.post (.homePacketArrival ⟨p, p.crc⟩)))
    ∧ (∀ (s : State) (p : Packet) (k : Nat), p.act = none → got s (s.accept p k) p k)
    ∧ (∀ (s : State) (p : Packet) (a : Active) (o k n : Nat), s.wanted p k = true → p.act = some a →
      let q := s.queueOf o
      (q.length < queueSize o → ∃ t, exec (.travellerArrival p o k n p.crc) s = .next t ∧ t.slots = s.slots ∧ t.mem = s.mem
        ∧ t.queueOf o = q ++ [({ p := p, arrived := s.cycle } : RunEnt)] ∧ Event.runQueueRelease o ∈ t.agenda)
      ∧ (queueSize o ≤ q.length → n < 63 → ∃ t, exec (.travellerArrival p o k n p.crc) s = .next t ∧ t.slots = s.slots ∧ t.mem = s.mem
        ∧ t.queueOf o = q ∧ t.agenda = s.agenda ++ [Event.travellerRetry p o k (n + 1) (s.cycle + 256)])
      ∧ ∀ r, queueSize o ≤ q.length → 63 ≤ n → k ≠ noSlot → a = .load r →
        ∃ t, exec (.travellerArrival p o k n p.crc) s = .next t ∧ t.mem = s.mem ∧ t.agenda = s.agenda
          ∧ t.slot r.sid = (s.slot r.sid).enter (Trap.sync 18 p.target))
    ∧ (∀ (s : State) (p : Packet) (o k n : Nat) (T : Team), s.wanted p k = true → p.act = none → p.kind < 4 →
      s.team? p.team = some T →
      let q := s.queueOf o
      (p.gen ≠ T.gen → ∃ t, exec (.travellerArrival p o k n p.crc) s = .next t ∧ t.slots = s.slots ∧ t.mem = s.mem
        ∧ t.agenda = s.agenda ∧ t.team? p.team = some { T with stale := T.stale + 1 })
      ∧ (∀ s1, p.gen = T.gen → s.residentAt T p.team o = false → s.logPut p.team (.frame p) = some s1 →
        exec (.travellerArrival p o k n p.crc) s = .next (s1.accept p k))
      ∧ (p.gen = T.gen → s.residentAt T p.team o = true → q.length < queueSize o →
        ∃ t, exec (.travellerArrival p o k n p.crc) s = .next t
          ∧ t.queueOf o = q ++ [({ p := p, arrived := s.cycle } : RunEnt)] ∧ Event.runQueueRelease o ∈ t.agenda ∧ got s t p k)
      ∧ (p.gen = T.gen → (s.residentAt T p.team o = true ∧ queueSize o ≤ q.length
            ∨ s.residentAt T p.team o = false ∧ s.logPut p.team (.frame p) = none) →
        ∃ t, exec (.travellerArrival p o k n p.crc) s = .next t ∧ t.queueOf o = q ∧ t.mem = s.mem
          ∧ (n < 63 ∨ k = noSlot → t.slots = s.slots
              ∧ t.agenda = s.agenda ++ [Event.travellerRetry p o k (n + 1) (s.cycle + 256)])
          ∧ (63 ≤ n → k ≠ noSlot → t.slot k = (s.slot k).enter (Trap.sync 18 p.target) ∧ t.agenda = s.agenda)
          ∧ (k ≠ noSlot → isChan (coreOf k) = false →
              (t.clusterSt (clusterOf (coreOf k))).done.err = (s.clusterSt (clusterOf (coreOf k))).done.err ||| errBit 9)))
    ∧ (∀ (cycle : Nat) (ok : RunEnt → Bool) (l : List RunEnt),
      (pickEnt cycle ok l = none ↔ ∀ e, e ∈ l → ok e = false)
      ∧ ∀ e, pickEnt cycle ok l = some e → ok e = true ∧ ∃ a b, l = a ++ e :: b
          ∧ (∀ x, x ∈ a → ok x = true → x.prio cycle < e.prio cycle) ∧ ∀ x, x ∈ b → ok x = true → x.prio cycle ≤ e.prio cycle)
    ∧ (∀ (e : RunEnt) (cycle : Nat), e.prio cycle = min (e.p.prio + (cycle - e.arrived) / 1024) e.p.cap)
    ∧ (∀ (s : State) (o : Nat), o < vaultOwner0 → let q := s.queueOf o
      let can := fun (e : RunEnt) => (if e.moves then (s.freeTravSlot o).isSome else s.innFree o) && s.mayRun e && s.inOrder q e
      ((∀ e, e ∈ q → can e = false) → exec (.runQueueRelease o) s = .next s)
      ∧ ∀ e, pickEnt s.cycle can q = some e → let s1 := (s.setQueue o (q.erase e)).post (.runQueueRelease o)
        s1.queueOf o = q.erase e ∧ s1.slots = s.slots ∧ s1.mem = s.mem
        ∧ (e.p.act = none → 3 ≤ e.p.kind → exec (.runQueueRelease o) s = .next ((s1.setBusy o (some e.p)).post (.remoteUpdate e.p o)))
        ∧ (2 ≤ e.p.kind → (∀ r, e.p.act = some (.load r) → exec (.runQueueRelease o) s = exec (.loadAtOwner r) s1)
          ∧ ∀ r, e.p.act = some (.store r) → exec (.runQueueRelease o) s = exec (.storeAtOwner r) s1)
        ∧ ∀ j T, (e.p.kind ≤ 1 ∧ s.freeTravSlot o = some j ∨ e.p.kind = 2 ∧ e.p.act = none ∧ j = o * 16 + 14) →
            s.team? e.p.team = some T → ∃ t, exec (.runQueueRelease o) s = .next t ∧ t.queueOf o = q.erase e
              ∧ t.slot j = T.travSlot e.p.team e.p ∧ (∀ i, i ≠ j → t.slot i = s.slot i)
              ∧ (isChan o = false → t.mem = s.mem)
              ∧ (isChan o = true → SameBut s t (scratchPa j) 4096 ∧ ∀ i, i < 4096 → t.byte (scratchPa j + i) = 0))
    ∧ (∀ (T : Team) (tid : Nat) (p : Packet), let sl := T.travSlot tid p
      sl.pc = pcOf p.pc ∧ sl.coord = p.origin ∧ sl.status = .ready ∧ sl.level = .task ∧ sl.rx 5 = p.t0 ∧ sl.rx 6 = p.t1
        ∧ sl.rp 0 = p.p0 ∧ (∀ i, i < 8 → sl.rx (BitVec.ofNat 5 (10 + i)) = p.a.getD i 0)
        ∧ (∀ r : XReg, r.toNat < 5 ∨ 6 < r.toNat → r.toNat < 10 ∨ 17 < r.toNat → sl.rx r = 0) ∧ (∀ r, sl.rv r = 0)
        ∧ (∀ r, r ≠ 0 → sl.rp r = 0) ∧ sl.asid = T.asid ∧ sl.ptbase = T.ptb ∧ sl.kvec = T.kvec ∧ sl.fflags = 0)
    ∧ (∀ (s : State) (p : Packet) (o : Nat), let s1 := s.remoteUpdate p
      (s1.busyOf o = some p → ∃ t, exec (.remoteUpdate p o) s = .next t ∧ t.mem = s1.mem
        ∧ t.slots = s1.slots ∧ t.busyOf o = none ∧ t.agenda = s1.agenda ++ [Event.runQueueRelease o])
      ∧ (s1.busyOf o ≠ some p → exec (.remoteUpdate p o) s = .next s1))
    ∧ (∀ (s : State) (p : Packet) (T : Team), s.team? p.team = some T →
      let k := (s.slotAt p.team p.origin).getD 0
      let c := { T.ctx p.team with core := coreOf k, sid := k }
      (nrAtom p.pc = none → s.remoteUpdate p = s.countCorrupt p.team)
      ∧ ∀ op, nrAtom p.pc = some op →
        (∀ d, s.resolve c p.target (AtomSize op) .store = .error d → s.remoteUpdate p = s.notifyFault p.origin 7)
        ∧ ∀ h, s.resolve c p.target (AtomSize op) .store = .ok h →
          (s.bad (h.pa / 8) = true → (s.slot k).doms ≠ [] → s.remoteUpdate p = s.blame k 2)
          ∧ (s.bad (h.pa / 8) = true → (s.slot k).doms = [] → s.strict p.team = true → s.remoteUpdate p = s.orTflags p.team fPO)
          ∧ ((s.bad (h.pa / 8) = true → (s.slot k).doms = [] ∧ s.strict p.team = false) →
            let r := h.st.atomRmw k p.team op h.pa (p.a.getD 0 0) (p.a.getD 1 0) p.target
            s.remoteUpdate p = r.2.2.orTflags p.team r.2.1))
    ∧ (∀ (s : State) (p : Packet) (T : Team), s.team? p.team = some T →
      (p.gen ≠ T.gen → ∃ t, exec (.homePacketArrival ⟨p, p.crc⟩) s = .next t ∧ t.slots = s.slots ∧ t.mem = s.mem
        ∧ t.team? p.team = some { T with stale := T.stale + 1 })
      ∧ ∀ c, c ≠ p.crc → idle s → ∃ t, exec (.homePacketArrival ⟨p, c⟩) s = .next t ∧ t.slots = s.slots
        ∧ t.agenda = s.agenda ++ [Event.homePacketArrival ⟨p, p.crc⟩] ∧ t.team? p.team = some { T with corrupt := T.corrupt + 1 })
    ∧ (∀ (s : State) (p : Packet) (T : Team) (k : Nat), s.team? p.team = some T → p.gen = T.gen →
      s.slotAt p.team p.origin = some k →
      ((s.slot k).status = .away → p.exitMark = false →
        ∃ t, SlotDoes (.homePacketArrival ⟨p, p.crc⟩) s k t ∧ t.status = .ready ∧ t.pc = pcOf p.pc ∧ t.rx 5 = p.t0 ∧ t.rx 6 = p.t1
          ∧ t.rp 0 = p.p0 ∧ (∀ i, i < 8 → t.rx (BitVec.ofNat 5 (10 + i)) = p.a.getD i 0)
          ∧ (∀ r : XReg, r.toNat < 5 ∨ 6 < r.toNat → r.toNat < 10 ∨ 17 < r.toNat → t.rx r = (s.slot k).rx r)
          ∧ t.v = (s.slot k).v ∧ ∀ r, r ≠ 0 → t.rp r = (s.slot k).rp r)
      ∧ ((s.slot k).status = .away → p.exitMark = true →
        ∃ t, exec (.homePacketArrival ⟨p, p.crc⟩) s = .next t ∧ (t.slot k).status = .exited ∧ t.mem = s.mem)
      ∧ ((s.slot k).status ≠ .away → (s.slot k).savedAway = false → exec (.homePacketArrival ⟨p, p.crc⟩) s = .next s)
      ∧ ((s.slot k).status ≠ .away → (s.slot k).savedAway = true → (s.slot k).frame = none →
        exec (.homePacketArrival ⟨p, p.crc⟩) s = .next (s.post (.homePacketArrival ⟨p, p.crc⟩)))
      ∧ ∀ pa recs, (s.slot k).status ≠ .away → (s.slot k).savedAway = true → (s.slot k).frame = some (pa, recs) →
        p.exitMark = false → pa % 64 = 0 → idle s → (s.hostPage + 64 ≤ pa ∨ pa + 512 ≤ s.hostPage) →
        ∃ t, exec (.homePacketArrival ⟨p, p.crc⟩) s = .next t ∧ t.slot k = { s.slot k with savedAway := false } ∧ SameBut s t pa 512
          ∧ (∀ i, i < 8 → t.rd (pa + 8 * (10 + i)) 8 = (p.a.getD i 0).toNat) ∧ t.rd (pa + 40) 8 = p.t0.toNat
          ∧ t.rd (pa + 48) 8 = p.t1.toNat ∧ t.rd (pa + 0x1E0) 4 = p.p0.toNat ∧ t.rd (pa + 0x100) 8 = p.pc.toNat
          ∧ t.rd pa 8 = s.rd pa 8 % 2 ^ 63)

/-- R22 to R30, R34, R41 to R43, R55, for clusters of this package (log entry 68). Which free clusters are taken is the dispatcher's choice (log entry 1). The team table is stated while no checkpoint is running and no presence entry waits. A record that waits posts its own event again. -/
def Obligations.TeamsArePlacedStartedAndEnded : Prop :=
  let idle := fun (s : State) => ∀ e, e ∈ s.teams → e.2.ckRun = false
  let calm := fun (s : State) => idle s ∧ (∀ e, e ∈ s.coreTab → e.2.waits = []) ∧ ∀ e, e ∈ s.clusters → e.2.vwaits = []
  (∀ (s : State) (lid : Word) (l : List Nat), s.findLaunch lid = none →
      exec (.dispatchPlace lid l) s = .next s ∧ exec (.dependenceReject lid) s = .next s)
    ∧ (∀ (s : State) (lid : Word) (l : List Nat) (tid : Nat) (T : Team), s.findLaunch lid = some (tid, T) → T.state ≠ 0 →
      exec (.dispatchPlace lid l) s = .next s ∧ exec (.dependenceReject lid) s = .next s)
    ∧ (∀ (s : State) (lid : Word) (l : List Nat) (tid : Nat) (T : Team), s.findLaunch lid = some (tid, T) → T.state = 0 →
      let place := s.placeFor T l
      let late := s.depWaits T = false ∧ T.deps.any s.depFailed = true
      let go := s.booted = true ∧ s.holdDispatch = false ∧ s.isNext tid T = true ∧ place.length = T.s * T.c
      (late → exec (.dispatchPlace lid l) s = .next (s.post (.dependenceReject lid)))
      ∧ (¬late → ¬go → exec (.dispatchPlace lid l) s = .next (s.post (.dispatchPlace lid l)))
      ∧ (¬late → go → idle s → s.team? tid = some T →
        ∃ t, exec (.dispatchPlace lid l) s = .next t ∧ Event.teamStart tid ∈ t.agenda
          ∧ t.team? tid = some { T with place := place, state := 1, started := false } ∧ t.slots = (s.claim tid T place).slots
          ∧ ∀ c, c ∈ place → (t.clusterSt c).team = some tid ∧ (t.clusterSt c).running = [] ∧ (t.clusterSt c).holder = none))
    ∧ (∀ (s : State) (tid : Nat) (T : Team), s.isNext tid T = true ↔ s.eligible T = true ∧ ∀ e, e ∈ s.teams → e.1 ≠ tid →
      s.eligible e.2 = true → tid = 0 ∨ (e.1 ≠ 0 ∧ (e.2.prio < T.prio ∨ (e.2.prio = T.prio ∧ T.seq ≤ e.2.seq))))
    ∧ (∀ (s : State) (T : Team) (l : List Nat), let place := s.placeFor T l
      (∀ c, c ∈ place → c ∈ s.working ∧ (s.clusterSt c).team = none ∧ (s.clusterSt c).scrubbing = false)
      ∧ (s.working.Nodup → place.Nodup)
      ∧ ∀ d, d < 9 → T.c ≤ (s.freeClusters.filter fun c => c / 64 == d).length → diesOf (place.take T.c) ≤ 1)
    ∧ (∀ (s : State) (tid : Nat) (T : Team) (place : List Nat), let t := s.claim tid T place
      t.agenda = s.agenda ∧ t.teams = s.teams
      ∧ ∀ c, c ∈ place → atPeer c = false → (∀ b, lsPa (c * 16) ≤ b → b < lsPa (c * 16) + 0x200000 → t.byte b = 0)
        ∧ (∀ b, vaultPa c ≤ b → b < vaultPa c + 0x400000 → t.byte b = 0)
        ∧ (∀ w, lsPa (c * 16) ≤ 8 * w → 8 * w < lsPa (c * 16) + 0x200000 → t.full w = true ∧ t.bad w = false)
        ∧ (∀ k, k / 256 = c → isChan (coreOf k) = false → t.slot k = Slot.init)
        ∧ (∀ i, i < 16 → (t.coreSt (c * 16 + i)).tlb = [] ∧ (t.coreSt (c * 16 + i)).trel = T.flags.getLsbD 6)
        ∧ (t.clusterSt c).tlb = [] ∧ (t.clusterSt c).vcs = T.vcsh
        ∧ (place.Nodup → ∀ i, place[i]? = some c → (t.clusterSt c).logical = i))
    ∧ (∀ (s : State) (tid : Nat), (∀ T, s.team? tid = some T → T.state ≠ 1 ∨ T.started = true) →
      exec (.teamStart tid) s = .next s)
    ∧ (∀ (s : State) (tid : Nat) (T : Team), s.team? tid = some T → T.state = 1 → T.started = false → T.saved = none →
      T.place.Nodup → ∃ t, exec (.teamStart tid) s = .next t ∧ t.agenda.take s.agenda.length = s.agenda
        ∧ (∀ l c k, T.place[l]? = some c → atPeer c = false → k / 256 = c → T.smask.getLsbD (k % 16) = true →
            t.slot k = T.startSlot tid l (coreOf k % 16) (k % 16))
        ∧ (∀ k, (∀ c, c ∈ T.place → k / 256 ≠ c) ∨ T.smask.getLsbD (k % 16) = false → t.slot k = s.slot k)
        ∧ (idle s → t.team? tid = some (if T.gen = 0
            then { T with started := true, tflags := 0, tstart := s.ptp, late := if T.deadline ≠ 0 ∧ T.deadline < s.ptp then T.late ||| 1 else T.late }
            else { T with started := true, tflags := 0 })))
    ∧ (∀ (T : Team) (tid l core k : Nat), let sl := T.startSlot tid l core k
      sl.status = .ready ∧ sl.pc = pcOf (T.entries.getD (l / T.c) 0) ∧ sl.rx 10 = T.arg ∧ (∀ r, r ≠ 10 → sl.rx r = 0)
        ∧ (∀ r, sl.rv r = 0) ∧ (∀ r, sl.rp r = 0) ∧ (sl.level = .task ↔ tid ≠ 0) ∧ sl.fmt = 0x049 ∧ sl.fflags = 0
        ∧ sl.loopc = 0 ∧ sl.cdlvl = 0 ∧ sl.kvec = T.kvec ∧ sl.asid = T.asid ∧ sl.ptbase = T.ptb ∧ sl.teamctx = T.save
        ∧ sl.safeb = (if T.safeb = 0 then 4096 else T.safeb &&& 0xFFFFFFFF) ∧ sl.shape = BitVec.ofNat 64 (T.s * 65536 + T.c)
        ∧ (l / T.c < 2 ^ 16 → l % T.c < 2 ^ 16 → core < 2 ^ 16 → k < 2 ^ 16 →
            sl.coord.toNat = l / T.c * 2 ^ 48 + l % T.c * 2 ^ 32 + core * 2 ^ 16 + k))
    ∧ (∀ (s : State) (lid : Word) (tid : Nat) (T : Team), s.findLaunch lid = some (tid, T) → T.state = 0 →
      s.depWaits T = false → T.deps.any s.depFailed = true → calm s → s.team? tid = some T →
      ∃ t, exec (.dependenceReject lid) s = .next t ∧ t.slots = s.slots ∧ (T.lid, 5) ∈ t.ended ∧ t.team? tid = some { T with state := 4 })
    ∧ (∀ (s : State) (T : Team) (tid off n v : Nat) (h : Hit), idle s → s.saveAt T tid off n .store = some h →
      h.pa / 64 ≠ s.hostPage / 64 →
      (s.recPut T tid off n v).rd h.pa n = v % 2 ^ (8 * n) ∧ SameBut h.st (s.recPut T tid off n v) h.pa n)
    ∧ (∀ (s : State) (tid l : Nat) (w : Word), (∀ T, s.team? tid = some T → T.state ≠ 1 ∨ tid = 0 ∨ T.place[l]? = none) →
      exec (.doneMessage tid l w) s = .next s)
    ∧ (∀ (s : State) (tid l c : Nat) (T : Team), s.team? tid = some T → T.state = 1 → tid ≠ 0 → T.place[l]? = some c →
      let k := s.clusterSt c
      (k.doneSent = true ∨ s.allExited T c = false → exec (.doneMessage tid l 0) s = .next s)
      ∧ (k.doneSent = false → s.allExited T c = true → s.clusterDone T c = false →
        exec (.doneMessage tid l 0) s = .next (s.post (.doneMessage tid l 0)))
      ∧ (k.doneSent = false → s.allExited T c = true → s.clusterDone T c = true →
        ∃ t, exec (.doneMessage tid l 0) s = .next t ∧ (t.clusterSt c).doneSent = true ∧ t.slots = s.slots ∧ t.mem = s.mem
          ∧ t.agenda = s.agenda ++ [Event.doneMessage tid l (BitVec.ofNat 64 (Done.word k.done))])
      ∧ ∀ w, w ≠ 0 → let d := Done.join T.done (Done.ofWord w)
        (l ∈ T.reports → exec (.doneMessage tid l w) s = .next s)
        ∧ (l ∉ T.reports → (mark T.reports l true).length ≠ T.s * T.c →
          ∃ t, exec (.doneMessage tid l w) s = .next t ∧ t.slots = s.slots ∧ t.mem = s.mem ∧ t.agenda = s.agenda
            ∧ t.team? tid = some { T with done := d, reports := mark T.reports l true })
        ∧ (l ∉ T.reports → (mark T.reports l true).length = T.s * T.c → calm s → (∀ j, j ∈ T.place → atPeer j = false) →
          let cls := max d.cls (if T.tflags.getLsbD 5 then 3 else 0)
          ∃ t T', exec (.doneMessage tid l w) s = .next t ∧ t.team? tid = some T' ∧ T'.state = 3 ∧ T'.stop = none
            ∧ (T.lid, cls) ∈ t.ended ∧ ∀ j, j ∈ T.place → (t.clusterSt j).scrubbing = true ∧ (t.clusterSt j).team = none
              ∧ Event.clusterScrubComplete j ∈ t.agenda ∧ ∀ q, q / 256 = j → isChan (coreOf q) = false → (t.slot q).status = .idle))
    ∧ (∀ d : Done, d.exits < 2 ^ 32 → d.cls < 16 → d.reexec < 2 ^ 16 → Done.ofWord (BitVec.ofNat 64 d.word) = d)
    ∧ (∀ a b : Done, Done.join a b = { reexec := min (a.reexec + b.reexec) 0xFFFF, cls := max a.cls b.cls, err := a.err ||| b.err, exits := a.exits + b.exits })
    ∧ (∀ (s : State) (T : Team) (c : Nat), (s.allExited T c = true ↔ ∀ k, k / 256 = c → T.smask.getLsbD (k % 16) = true → (s.slot k).status = .exited)
      ∧ (s.clusterDone T c = true → s.allExited T c = true ∧ (s.clusterSt c).spawned = 0 ∧ (s.clusterSt c).running = []
        ∧ ∀ e, e < 3 → (s.clusterSt c).queues.toList.getD e [] = []))
    ∧ (∀ (s : State) (c : Nat), (s.clusterSt c).scrubbing = false → exec (.clusterScrubComplete c) s = .next s)
    ∧ ∀ (s : State) (c : Nat), (s.clusterSt c).scrubbing = true →
      ∃ t, exec (.clusterScrubComplete c) s = .next t ∧ (t.clusterSt c).scrubbing = false ∧ t.slots = s.slots ∧ t.agenda = s.agenda
        ∧ (∀ b, lsPa (c * 16) ≤ b → b < lsPa (c * 16) + 0x200000 → t.byte b = 0)
        ∧ (∀ b, vaultPa c ≤ b → b < vaultPa c + 0x400000 → t.byte b = 0)
        ∧ (∀ w, lsPa (c * 16) ≤ 8 * w → 8 * w < lsPa (c * 16) + 0x200000 → t.full w = true ∧ t.bad w = false)
        ∧ (∀ b, b < 0xC000000000 → t.byte b = s.byte b)

/-- R254, R258, R260 to R266, R277, R282, R445. Stated while no checkpoint is running and no presence entry waits. Registers that the handler has yet to load are free values (log entry 5). -/
def Obligations.StoppingSavingAndResuming : Prop :=
  let idle := fun (s : State) => ∀ e, e ∈ s.teams → e.2.ckRun = false
  let calm := fun (s : State) => idle s ∧ (∀ e, e ∈ s.coreTab → e.2.waits = []) ∧ ∀ e, e ∈ s.clusters → e.2.vwaits = []
  let saves := fun (s : State) (tid : Nat) (T : Team) => s.team? tid = some T ∧ T.state = 1 ∧ T.stop = some 0
  (∀ (s : State) (tid k c : Nat), (∀ T, ¬saves s tid T) → exec (.travellerSave tid k) s = .next s
      ∧ exec (.porterQuiesce tid c) s = .next s ∧ exec (.arrayQuiesce tid c) s = .next s)
    ∧ (∀ (s : State) (tid k : Nat) (T : Team), saves s tid T →
      let sl := s.slot k
      let stands := sl.atSafePoint = true ∧ (sl.status = .ready ∨ sl.status.safePark = true) ∧ sl.status ≠ .parked .atom ∧ sl.pending = []
      ((∀ v, sl.trav = some v → v.team ≠ tid ∨ sl.status = .idle) → exec (.travellerSave tid k) s = .next s)
      ∧ ∀ v, sl.trav = some v → v.team = tid → sl.status ≠ .idle →
        (¬stands → exec (.travellerSave tid k) s = .next (s.post (.travellerSave tid k)))
        ∧ (stands → let f := LogEnt.frame { s.packetOf k v.kind v.target sl.pc with reply := v.reply }
          ((s.withdraw k).logPut tid f = none → exec (.travellerSave tid k) s = .next (s.post (.travellerSave tid k)))
          ∧ ∀ s1, (s.withdraw k).logPut tid f = some s1 → ∃ t, exec (.travellerSave tid k) s = .next t ∧ (t.slot k).status = .idle
            ∧ (t.slot k).trav = none ∧ (∀ j, j ≠ k → t.slot j = s.slot j) ∧ t.mem = s1.mem
            ∧ Event.runQueueRelease (coreOf k) ∈ t.agenda))
    ∧ (∀ (s : State) (tid core : Nat) (T : Team), saves s tid T →
      let mine := fun (k : Nat) => k / 16 = core ∧ T.smask.getLsbD (k % 16) = true
      let busy := (∃ k, mine k ∧ s.settled k = false) ∨ ∃ k q, k / 16 = core ∧ Event.streamElementWrite k q ∈ s.agenda
      (busy → exec (.porterQuiesce tid core) s = .next (s.post (.porterQuiesce tid core)))
      ∧ (¬busy → (∀ k, mine k → (s.slot k).streams = []) → (s.coreSt core).chans = Vector.replicate 4 [] →
        let n := T.place.findIdx (· == clusterOf core)
        ∃ u : State, exec (.porterQuiesce tid core) s
            = .next (u.saveItems (T.ctx tid) (T.coreBlock n (core % 16) + 0x28000) (u.porterItems core))
          ∧ u.mem = s.mem ∧ u.slots = s.slots ∧ u.agenda = s.agenda
          ∧ u.coreSt core = { s.coreSt core with porterStop := true }))
    ∧ (∀ (s : State) (core : Nat), (s.coreSt core).chans = Vector.replicate 4 [] → s.porterItems core =
      (0, 8, 0) :: ((List.range 8).map (fun b => (8 + 8 * b, 8, ((s.coreSt core).bcnt.toList.getD b 0).toNat))
        ++ (List.range 4).map (fun ch => (0x48 + 8 * ch, 8, ((s.coreSt core).wptr.toList.getD ch 0).toNat))))
    ∧ (∀ (s : State) (ch : Nat) (c : Copy), let r := s.copyRecord ch c
      recField r 0 8 = c.dst.toNat ∧ recField r 8 8 = c.src.toNat ∧ recField r 0x10 4 = (c.len - c.done) % 2 ^ 32
        ∧ recField r 0x14 4 = c.done * c.num / c.den % 2 ^ 32)
    ∧ (∀ (s : State) (k q : Nat) (x : Stream), x.bad = false →
      let pa := lsPa (coreOf k) + qDesc ((s.slot k).qb q) + 12
      (s.writePos k q x).rd pa 4 = x.pos % 2 ^ 32 ∧ SameBut s (s.writePos k q x) pa 4)
    ∧ (∀ (s : State) (tid cl : Nat) (T : Team), saves s tid T →
      ((∃ k, k / 256 = cl ∧ T.smask.getLsbD (k % 16) = true ∧ s.settled k = false) →
        exec (.arrayQuiesce tid cl) s = .next (s.post (.arrayQuiesce tid cl)))
      ∧ ((∀ k, k / 256 = cl → T.smask.getLsbD (k % 16) = true → s.settled k = true) →
        (s.clusterSt cl).queues.toList.getD 0 [] = [] → s.running cl 0 = [] →
        ∃ t, exec (.arrayQuiesce tid cl) s = .next t ∧ t.mem = s.mem ∧ t.slots = s.slots ∧ (t.clusterSt cl).quiesced = true
          ∧ (t.clusterSt cl).holder = none ∧ (t.clusterSt cl).leaseWaits = [] ∧ (t.clusterSt cl).running = (s.clusterSt cl).running
          ∧ t.agenda = s.agenda ++ (if (s.clusterSt cl).running.any fun c => c.susp.isNone then [Event.arrayQuiesce tid cl] else [])))
    ∧ (∀ (s : State) (tid : Nat), (∀ T, s.team? tid = some T → T.state ≠ 1 ∨ T.stop = none) → exec (.saveComplete tid) s = .next s)
    ∧ (∀ (s : State) (tid m : Nat) (T : Team), s.team? tid = some T → T.state = 1 → T.stop = some m →
      let arrays := ∀ c, c ∈ T.place → (s.clusterSt c).quiesced = true ∧ ∀ k, k ∈ (s.clusterSt c).running → k.susp.isSome = true
      let porters := ∀ c i, c ∈ T.place → i < 16 → (s.coreSt (c * 16 + i)).porterStop = true
      let ready := arrays ∧ s.still tid T = true ∧ (m = 0 → porters ∧ ∀ k, k ∈ T.userSlots → s.settled k = true)
      let inDoms := ∀ k, k ∈ T.userSlots → (s.slot k).doms ≠ []
      let ends := fun (t : State) => ∀ c, c ∈ T.place → (t.clusterSt c).scrubbing = true ∧ (t.clusterSt c).team = none
        ∧ Event.clusterScrubComplete c ∈ t.agenda
      let keeps := fun (T' : Team) => s.flips = [] → s.badPar = [] → ∃ sv, T'.saved = some sv ∧ sv.place = T.place
        ∧ ∀ l c k sl, T.place[l]? = some c → k / 256 = c → isChan (coreOf k) = false → (k, sl) ∈ s.slots → (l, k % 256, sl) ∈ sv.slots
      (¬ready → m ≠ 0 → exec (.saveComplete tid) s = .next (s.post (.saveComplete tid)))
      ∧ (¬ready → m = 0 → ∃ l, exec (.saveComplete tid) s = .next { s with agenda := s.agenda ++ l ++ [Event.saveComplete tid] }
          ∧ ∀ e, e ∈ l → ∃ k, k ∈ s.travSlots tid ∧ e = Event.travellerSave tid k)
      ∧ (ready → m = 0 → calm s → (∀ c, c ∈ T.place → atPeer c = false) → ∃ t T', exec (.saveComplete tid) s = .next t ∧ t.team? tid = some T' ∧ T'.state = 2
          ∧ T'.stop = none ∧ T'.gen = T.gen ∧ keeps T' ∧ ends t)
      ∧ (ready → m ≠ 0 → inDoms → calm s → (∀ c, c ∈ T.place → atPeer c = false) → ∃ t T', exec (.saveComplete tid) s = .next t ∧ t.team? tid = some T'
          ∧ T'.state = 0 ∧ T'.gen = (T.gen + 1) % 65536 ∧ Event.dispatchPlace T.lid [] ∈ t.agenda ∧ keeps T' ∧ ends t)
      ∧ (ready → m ≠ 0 → ¬inDoms → exec (.saveComplete tid) s = .next (s.stateLoss tid T)))
    ∧ (∀ (s : State) (lid : Word) (l : List Nat),
      (s.findLaunch lid = none → exec (.teamResume lid l) s = .next s)
      ∧ ∀ tid T, s.findLaunch lid = some (tid, T) →
        let place := s.placeFor T l
        let go := s.booted = true ∧ s.isNext tid T = true ∧ place.length = T.s * T.c
        (T.state ≠ 2 ∨ T.resume = false → exec (.teamResume lid l) s = .next s)
        ∧ (T.state = 2 → T.resume = true → ¬go → exec (.teamResume lid l) s = .next (s.post (.teamResume lid l)))
        ∧ ∀ sv, T.state = 2 → T.resume = true → go → s.team? tid = some T → T.saved = some sv → calm s → place.Nodup → (∀ c, c ∈ place → atPeer c = false) →
          (sv.slots.map fun e => (e.1, e.2.1)).Nodup → (∀ e, e ∈ sv.slots → e.1 < place.length ∧ e.2.1 < 256) →
          ∃ t T', exec (.teamResume lid l) s = .next t ∧ t.team? tid = some T' ∧ T'.state = 1 ∧ T'.started = true
            ∧ T'.saved = none ∧ T'.resume = false ∧ T'.place = place
            ∧ (∀ c, c ∈ place → (t.clusterSt c).vcs = T.vcsh ∧ (t.clusterSt c).holder = none)
            ∧ ∀ n k sl, (n, k, sl) ∈ sv.slots → let x := t.slot (place.getD n 0 * 256 + k)
              (sl.status = .exited ∨ sl.status = .idle → sl.heldAbort = [] → x = sl)
              ∧ (sl.status ≠ .exited → sl.status ≠ .idle → sl.heldAbort = [] →
                x.status = .ready ∧ x.level = .kernel ∧ x.pc = pcOf (T.kvec &&& ~~~0xFFF ||| 0x800) ∧ x.kcause = 1 <<< 63
                ∧ x.ktval.getLsbD 63 = true ∧ x.ktval2 = 0 ∧ x.due = [] ∧ x.instants = []
                ∧ x.coord = sl.coord ∧ x.fmt = sl.fmt ∧ x.fflags = sl.fflags ∧ x.loopc = sl.loopc ∧ x.loops = sl.loops
                ∧ x.loope = sl.loope ∧ x.cdlvl = sl.cdlvl ∧ x.doms = sl.doms ∧ x.step = sl.step ∧ x.kepc = sl.kepc ∧ x.kscratch = sl.kscratch
                ∧ x.asid = T.asid ∧ x.ptbase = T.ptb ∧ x.teamctx = T.save ∧ x.winbase = T.winb ∧ x.winlen = T.winl ∧ x.kvec = T.kvec))
    ∧ (∀ (s : State) (tid : Nat) (T : Team) (sv : Saved), s.team? tid = some T → T.state = 1 → T.started = false →
      T.saved = some sv → T.place.Nodup → (sv.slots.map fun e => (e.1, e.2.1)).Nodup →
      (∀ e, e ∈ sv.slots → e.1 < T.place.length ∧ e.2.1 < 256) →
      ∃ t T', exec (.teamStart tid) s = .next t ∧ t.team? tid = some T' ∧ T'.started = true ∧ T'.saved = none ∧ T'.place = T.place
        ∧ ∀ n k sl, (n, k, sl) ∈ sv.slots → t.slot (T.place.getD n 0 * 256 + k) = T.againSlot tid sl)
    ∧ (∀ (s : State) (tid : Nat), (∀ T, s.team? tid = some T → (T.state ≠ 1 ∧ T.state ≠ 2) ∨ tid = 0) →
      exec (.stateLossSequence tid) s = .next s)
    ∧ (∀ (s : State) (tid : Nat) (T : Team), s.team? tid = some T → T.state = 1 ∨ T.state = 2 → tid ≠ 0 → calm s →
      ∃ t T', exec (.stateLossSequence tid) s = .next t ∧ t.team? tid = some T' ∧ T'.state = 0
        ∧ T'.gen = (T.gen + 1) % 65536 ∧ T'.place = [] ∧ T'.saved = none
        ∧ T'.done = { reexec := 0, cls := 4, err := T.done.err &&& errBit 11, exits := 0 } ∧ T'.ckMap = T.ckMap
        ∧ Event.dispatchPlace T.lid [] ∈ t.agenda
        ∧ (∀ k v, (s.slot k).trav = some v → v.team = tid → (t.slot k).status = .idle)
        ∧ (T.state = 1 → ∀ c, c ∈ T.place → atPeer c = false → (t.clusterSt c).scrubbing = true
            ∧ ∀ k, k / 256 = c → isChan (coreOf k) = false → (t.slot k).status = .idle))
    ∧ ∀ (s : State) (u k : Nat), let lost := (List.range 10).filter fun i => s.lostPieces.contains (s.piecePa k i)
      (2 < lost.length → s.rebuildUnit u k = s)
      ∧ (lost.length ≤ 2 → idle s → Memory.wf s.mem = true →
        (∀ i, i < 8 → s.piecePa k i % 8 = 0 ∧ (s.piecePa k i + 0x2000 ≤ u * 0x10000 ∨ u * 0x10000 + 0x10000 ≤ s.piecePa k i)) →
        ∀ i j, i < 8 → j < 0x2000 → (s.rebuildUnit u k).byte (u * 0x10000 + i * 0x2000 + j) = s.byte (s.piecePa k i + j))

/-- R10, R17 to R19, R245, R246, R252, R298 to R302, R304 to R307, R309, R310. Memory is stated while no checkpoint is running. Keys, digests, signatures and what packets a flit carries are opaque (log entry 9); temperatures of events are in tenths of a degree. -/
def Obligations.DeviceLinksHostPortAndBoot : Prop :=
  let idle := fun (s : State) => ∀ e, e ∈ s.teams → e.2.ckRun = false
  (∀ (s : State) (k : Nat) (f : Flit), let l := s.link k
      let key := l.rkeys.toList.getD f.kslot ⟨0, 0⟩
      let plain := cryptBytes key f.ctr f.cipher
      (f.lseq ≠ l.expect → exec (.flitArrival k f) s = .next s)
      ∧ (f.lseq = l.expect → f.crcOk = false → ∃ t, exec (.flitArrival k f) s = .next t ∧ t.slots = s.slots ∧ t.mem = s.mem
        ∧ t.link k = { l with crcFails := l.crcFails + 1, discard := true } ∧ t.outbox = s.outbox ++ [Out.retry k l.expect])
      ∧ (f.lseq = l.expect → f.crcOk = true → f.tag ≠ flitTag key f → l.fails < 2 →
        ∃ t, exec (.flitArrival k f) s = .next t ∧ t.slots = s.slots ∧ t.mem = s.mem
          ∧ t.link k = { l with authFails := l.authFails + 1, fails := l.fails + 1, discard := true }
          ∧ t.outbox = s.outbox ++ [Out.retry k l.expect])
      ∧ (f.lseq = l.expect → f.crcOk = true → f.tag ≠ flitTag key f → 2 ≤ l.fails →
        ∃ t, exec (.flitArrival k f) s = .next t ∧ t.slots = s.slots ∧ t.mem = s.mem ∧ t.outbox = s.outbox ++ [Out.ack k f.lseq true]
          ∧ (∃ n, Event.stewardNotice n ∈ t.agenda ∧ n.kind = 10 ∧ n.scope = 7 ∧ n.unit = k)
          ∧ t.link k = { l with authFails := l.authFails + 1, fails := 0, drops := l.drops + 1, discard := false, expect := (l.expect + 1) % 65536 })
      ∧ (f.lseq = l.expect → f.crcOk = true → f.tag = flitTag key f → ∃ t, exec (.flitArrival k f) s = .next t ∧ t.slots = s.slots
        ∧ t.mem = s.mem ∧ t.outbox = s.outbox ++ [Out.ack k f.lseq false]
        ∧ (f.kind = 1 → t.link k = { l with
                expect := (l.expect + 1) % 65536, fails := 0, discard := false
                rlive := (plain.headD 0).toNat % 2, rfreed := l.rfreed ++ [f.kslot] }
            ∧ t.agenda = s.agenda ++ [Event.keyInstall k ⟨2 + f.kslot, Config.exchange k (2 + f.kslot)⟩])
        ∧ (f.kind ≠ 1 → t.link k = { l with expect := (l.expect + 1) % 65536, fails := 0, discard := false }
            ∧ t.agenda = s.agenda ++ if f.kind = 0 then Config.flitItems plain else [])))
    ∧ (∀ (s : State) (k n : Nat) (a b : List Sent) (e : Sent), (s.link k).replay = a ++ e :: b → e.f.lseq = n →
      (∀ x, x ∈ a → x.f.lseq ≠ n) →
      let slots := ((a ++ [e]).filter fun x => x.f.kind == 1).map fun x => x.f.kslot
      let freed := slots.map fun i => Event.keyInstall k ⟨i, Config.exchange k i⟩
      let noTraveller := ∀ x, x ∈ a ++ [e] → ∀ i, i ∈ x.items → ∀ t : State, t.handedOver i = t
      (∃ t, exec (.flitRetryRequest k n) s = .next t ∧ { t with outbox := s.outbox } = s
        ∧ t.outbox = s.outbox ++ (e :: b).map fun x => Out.flit k x.f)
      ∧ (∀ dropped, ∃ t, exec (.flitAcknowledge k ⟨n, dropped⟩) s = .next t
        ∧ t.link k = { s.link k with replay := b, freed := (s.link k).freed ++ slots })
      ∧ (noTraveller → ∃ t, exec (.flitAcknowledge k ⟨n, false⟩) s = .next t ∧ t.slots = s.slots ∧ t.mem = s.mem
        ∧ t.agenda = s.agenda ++ freed)
      ∧ (noTraveller → e.again = false → ∃ t, exec (.flitAcknowledge k ⟨n, true⟩) s = .next t ∧ t.slots = s.slots ∧ t.mem = s.mem
        ∧ t.agenda = s.agenda ++ freed
          ++ e.items.map (Event.packetRoute { reply := e.f.reply, vc := e.f.vc, up := 0 } 2 true)
          ++ [Event.rekeyThreshold ⟨k, none⟩])
      ∧ (noTraveller → e.again = true → ∀ r pa va l, e.items = [.loadAtOwner r] → r.els = (pa, va) :: l →
        (s.slot r.sid).status = .parked .reply →
        ∃ t, exec (.flitAcknowledge k ⟨n, true⟩) s = .next t ∧ t.slot r.sid = (s.slot r.sid).enter (Trap.sync 10 va)))
    ∧ (∀ (s : State) (k n : Nat) (dropped : Bool), (∀ x, x ∈ (s.link k).replay → x.f.lseq ≠ n) →
      exec (.flitAcknowledge k ⟨n, dropped⟩) s = .next s ∧ exec (.flitRetryRequest k n) s = .next s)
    ∧ (∀ (s : State) (k n : Nat), ∃ t, exec (.rekeyThreshold ⟨k, some n⟩) s = .next t ∧ { t with links := s.links } = s
      ∧ t.link k = { s.link k with threshold := n } ∧ ∀ j, j ≠ k → t.link j = s.link j)
    ∧ (∀ (s : State) (k : Nat), let l := s.link k
      (256 ≤ l.replay.length ∨ 1 - l.live ∈ l.freed → exec (.rekeyThreshold ⟨k, none⟩) s = .next (s.post (.rekeyThreshold ⟨k, none⟩)))
      ∧ (l.replay.length < 256 → 1 - l.live ∉ l.freed → let key := l.keys.toList.getD l.live ⟨0, 0⟩
        ∃ t m, exec (.rekeyThreshold ⟨k, none⟩) s = .next t ∧ t.slots = s.slots ∧ t.mem = s.mem
        ∧ t.outbox = s.outbox ++ [Out.flit k m] ∧ m.kind = 1 ∧ m.kslot = l.live ∧ m.ctr = l.ctr ∧ m.lseq = l.seq
        ∧ m.cipher = cryptBytes key l.ctr (fit 224 [BitVec.ofNat 8 (1 - l.live)]) ∧ m.tag = flitTag key m
        ∧ t.link k = { l with
            seq := (l.seq + 1) % 65536, live := 1 - l.live, ctr := 0
            replay := l.replay ++ [{ f := m, items := [], again := false }] }))
    ∧ (∀ (s : State) (k n : Nat) (sig : List Byte), let l := s.link k
      let ok := Config.verifies (Config.peerKey k) (exchangeBytes k n) sig
      ∃ t x, exec (.keyInstall k ⟨n, sig⟩) s = .next t ∧ t.slots = s.slots ∧ t.mem = s.mem
        ∧ t.link k = (if ok = true ∧ n < 2 ∧ n ∈ l.freed then
            { l with freed := l.freed.filter (· != n), keys := l.keys.set! n ⟨Config.freshKey k x, Config.freshSalt k x⟩ }
          else if ok = true ∧ 2 ≤ n ∧ n - 2 ∈ l.rfreed then
            { l with rfreed := l.rfreed.filter (· != n - 2), rkeys := l.rkeys.set! (n - 2) ⟨Config.freshKey k x, Config.freshSalt k x⟩ }
          else l))
    ∧ (∀ f : Flit, f.cipher.length = 224 → f.tag.length = 16 → (flitBytes f).length = 256)
    ∧ (∀ (s : State) (v : BitVec 32) (r : Bool), idle s →
      (∃ t, exec (.doorWrite ⟨v, none⟩) s = .next t ∧ t.hp 0x28 4 = v.toNat ∧ t.h2dHalt = false ∧ SameBut s t (s.hostPage + 0x28) 4
        ∧ t.slots = s.slots ∧ t.agenda = s.agenda)
      ∧ (∀ (a b : Word) (n : BitVec 32), (∃ j, j < 11 ∧ n.toNat = 64 * 2 ^ j) →
        ∃ t, exec (.doorWrite ⟨v, some (a, b, n)⟩) s = .next t ∧ t.hp 0 8 = a.toNat ∧ t.hp 8 8 = b.toNat ∧ t.hp 0x10 4 = n.toNat
          ∧ t.hp 0x28 4 = v.toNat ∧ t.h2dHalt = false ∧ SameBut s t s.hostPage 0x2C ∧ t.hp 0x18 16 = s.hp 0x18 16
          ∧ t.hp 0x14 4 = s.hp 0x14 4 ∧ t.slots = s.slots ∧ t.agenda = s.agenda)
      ∧ (∀ (a b : Word) (n : BitVec 32), (∀ j, j < 11 → n.toNat ≠ 64 * 2 ^ j) →
        exec (.doorWrite ⟨v, some (a, b, n)⟩) s = exec (.doorWrite ⟨v, none⟩) s)
      ∧ (∃ t, exec (.prodWrite v) s = .next t ∧ t.hp 0x34 4 = v.toNat ∧ SameBut s t (s.hostPage + 0x34) 4 ∧ t.slots = s.slots
        ∧ t.agenda = s.agenda ++ [Event.d2hSend])
      ∧ ∃ t, exec (.seenWrite v r) s = .next t ∧ t.hp 0x3C 4 = v.toNat ∧ t.hp 0x38 4 = (if r then v.toNat else s.hp 0x38 4)
        ∧ SameBut s t (s.hostPage + 0x38) 8 ∧ t.slots = s.slots ∧ t.agenda = s.agenda ++ [Event.d2hSend])
    ∧ (∀ (s : State) (m : VWord), let n := (s.hp 0x2C 4 + 1) % 2 ^ 32
      let room := s.h2dHalt = false ∧ seqAtOrAfter (s.hp 0x28 4) n = true ∧ seqDist n (s.hp 0x30 4) ≤ s.hp 0x10 4
      let fits := m.toNat % 2 ^ 32 = n ∧ m.toNat / 2 ^ 32 % 65536 ≠ 0
      let pa := s.hp 0x18 8 % 2 ^ 50 + n % s.hp 0x10 4 * 64
      (¬room → exec (.h2dAccept m) s = .next s)
      ∧ (room → ¬fits → exec (.h2dAccept m) s = .next { s with h2dHalt := true, h2dStops := s.h2dStops + 1 })
      ∧ (room → fits → idle s → pa % 64 = 0 → s.hostPage % 64 = 0 → pa ≠ s.hostPage →
        ∃ t, exec (.h2dAccept m) s = .next t ∧ t.rd pa 64 = m.toNat ∧ t.hp 0x2C 4 = n ∧ t.slots = s.slots
          ∧ (∀ b, (b < pa ∨ pa + 64 ≤ b) → (b < s.hostPage + 0x2C ∨ s.hostPage + 0x30 ≤ b) → t.byte b = s.byte b)
          ∧ t.irqs = tset s.irqs 6 (BitVec.ofNat 64 (s.hp 0x28 4), 0)))
    ∧ (∀ s : State, let n := (s.hp 0x38 4 + 1) % 2 ^ 32
      let room := seqAtOrAfter (s.hp 0x34 4) n = true ∧ seqDist n (s.hp 0x3C 4) ≤ s.hp 0x10 4
      (¬room → exec .d2hSend s = .next s)
      ∧ (room → idle s → ∃ t, exec .d2hSend s = .next t ∧ t.hp 0x38 4 = n ∧ SameBut s t (s.hostPage + 0x38) 4 ∧ t.slots = s.slots
        ∧ t.agenda = s.agenda ++ [Event.d2hSend]
        ∧ t.outbox = s.outbox ++ [Out.d2h (BitVec.ofNat 64 (s.hp 0x08 8 + n % s.hp 0x10 4 * 64))
            (BitVec.ofNat 512 (s.rd (s.hp 0x20 8 % 2 ^ 50 + n % s.hp 0x10 4 * 64) 64)), Out.msix 0]))
    ∧ (∀ s : State, ∃ t, exec .moduleReset s = .next t ∧ t.epoch = s.epoch + 1 ∧ t.bootCount = s.bootCount + 1 ∧ t.slots = []
      ∧ t.teams = [] ∧ t.agenda = [] ∧ t.coreTab = [] ∧ t.clusters = [] ∧ t.booted = false ∧ t.stopped = false ∧ t.ptp = s.ptp
      ∧ t.rd (t.hostPage + 0x14) 4 = (s.epoch + 1).toNat ∧ SameBut State.reset t (t.hostPage + 0x14) 4 ∧ t.empty = [] ∧ t.poison = []
      ∧ t.dieOk = s.dieOk ∧ t.hubA = s.hubA ∧ t.hubB = s.hubB ∧ t.stewardA = s.stewardA ∧ t.stewardB = s.stewardB
      ∧ t.unitLog = s.unitLog ∧ t.outbox = s.outbox ∧ t.tested = false ∧ t.kernelOk = false ∧ t.images = [])
    ∧ (∀ (s : State) (p : BitVec 9), let l := (List.range 9).filter fun d => p.getLsbD d
      (s.booted = true → exec (.stewardDieTest p) s = .next s)
      ∧ (s.booted = false → l.length < 8 →
        exec (.stewardDieTest p) s = .next { s with dieOk := p, tested := true, outbox := s.outbox ++ [Out.bootReport (~~~ p)] })
      ∧ (s.booted = false → 8 ≤ l.length → ∃ t, exec (.stewardDieTest p) s = .next t ∧ t.dieOk = p ∧ t.tested = true ∧ t.mem = s.mem
        ∧ t.slots = s.slots ∧ (∀ c, c ∈ t.working ↔ c < 576 ∧ c / 64 ∈ l.take 8)
        ∧ ∀ i : Fin 16, t.dmap[i].v = decide (i.val < 8) ∧ t.dmap[i].gen = 0 ∧ t.dmap[i].held = false
          ∧ (i.val < 8 → t.dmap[i].pkg = s.ownPkg ∧ t.dmap[i].pdie = BitVec.ofNat 4 (l.getD i.val 0))))
    ∧ (∀ i : Image, imageOk i = true ↔ Config.fusedMin ≤ i.version
      ∧ (Config.verifies Config.rootKey i.bytes i.sig = true ∨ Config.verifies Config.ownerKey i.bytes i.sig = true))
    ∧ (∀ (s : State) (cfg : BootCfg), s.booted = false → let l := cfg.images
      (l.length ≠ 3 → exec (.bootVerify cfg) s = .next (s.send .imageRefused))
      ∧ (l.length = 3 → s.tested = false →
        exec (.bootVerify cfg) s = .next (if l.all imageOk then s else s.send .imageRefused))
      ∧ (l.length = 3 → s.tested = true → (passed s.dieOk).length < 8 →
        exec (.bootVerify cfg) s = .next (s.send (if l.all imageOk then .bootReport (~~~ s.dieOk) else .imageRefused)))
      ∧ (l.length = 3 → s.tested = true → 8 ≤ (passed s.dieOk).length → idle s → ∃ t, exec (.bootVerify cfg) s = .next t ∧ t.slots = s.slots
        ∧ if l.all imageOk then t.booted = true ∧ t.kernelOk = true ∧ t.images = l.map (fun i => (Config.digest i.bytes, i.version))
            ∧ t.reserveSize = cfg.reserve ∧ t.reserveBase = bootReportPa - cfg.reserve ∧ t.group = cfg.group ∧ t.rowLimit = cfg.rowLimit
            ∧ (∀ b, (b < bootReportPa ∨ bootReportPa + 4096 ≤ b) → (b < t.hostPage + 0x14 ∨ t.hostPage + 0x18 ≤ b) → t.byte b = s.byte b)
            ∧ t.rd (t.hostPage + 0x14) 4 = s.epoch.toNat ∧ t.rd bootReportPa 4 = 0x54524F42 ∧ t.rd (bootReportPa + 4) 4 = 1
            ∧ t.rd (bootReportPa + 8) 4 = s.bootCount.toNat ∧ t.rd (bootReportPa + 12) 4 = s.epoch.toNat
            ∧ t.rd (bootReportPa + 16) 8 = t.hostPage % 2 ^ 64 ∧ t.rd (bootReportPa + 24) 8 = t.noticeBase % 2 ^ 64
            ∧ t.outbox = s.outbox ++ [Out.bootPage ((List.range 4096).map fun i => t.byte (bootReportPa + i))]
          else t = s.send .imageRefused))
    ∧ (∀ (s : State) (cfg : BootCfg), s.booted = true →
      (∀ k, cfg.images = [k] → exec (.bootVerify cfg) s = .next (if imageOk k then { s with kernelOk := true, images := s.images.set 2 (Config.digest k.bytes, k.version) }
        else { s with kernelOk := false }.send .imageRefused))
      ∧ (cfg.images.length ≠ 1 → exec (.bootVerify cfg) s = .next s))
    ∧ (∀ (s : State) (n : VWord) (a : Word), idle s → ∃ t, exec (.attestationRequest n a) s = .next t ∧ t.slots = s.slots
      ∧ SameBut s t (a.toNat % 2 ^ 50) 1024 ∧ (s.attest n).length = 1024
      ∧ t.rd (a.toNat % 2 ^ 50 + 16) 64 = n.toNat ∧ ∀ i, i < 1024 → t.byte (a.toNat % 2 ^ 50 + i) = (s.attest n).getD i 0)
    ∧ (∀ (s : State) (a : Word), let c : Ctx := { sid := 0, core := 0, level := .monitor, asid := 0, ptb := 0, team := 0, thread := false }
      let r := s.submit c (BitVec.ofNat 64 (2 ^ 56 + a.toNat % 2 ^ 50)) true
      let w := s.rd (a.toNat % 2 ^ 50) 256
      let may := s.booted = true ∧ s.kernelOk = true ∧ recField w 0 2 = 0 ∧ recField w 0x0F 1 % 4 = 2
        ∧ recField w 0x80 8 = 2 ^ 56 + bootReportPa
      (¬may → exec (.kernelLaunch a) s = .next s)
      ∧ (∀ t, may → r = .ok t → exec (.kernelLaunch a) s = .next t)
      ∧ ∀ e, may → r = .error e → exec (.kernelLaunch a) s = .next s)
    ∧ (∀ (s : State) (scope unit temp : Nat), (temp ≤ 1050 → exec (.thermalAlarm scope unit temp) s = .next s)
      ∧ (1050 < temp → ∃ t, exec (.thermalAlarm scope unit temp) s = .next t ∧ t.slots = s.slots ∧ t.noticeSeq = s.noticeSeq + 1
        ∧ tfind t.alarms (alarmKey scope unit) = some temp
        ∧ (scope = 5 → ∀ i, i < 40 → Event.halfWidthChange (unit * 40 + i) ∈ t.agenda)
        ∧ (1150 < temp → Event.thermalShutdown temp ∈ t.agenda)))
    ∧ (∀ (s : State) (c : Nat), let on := tfind s.alarms (alarmKey 5 (c / 40))
      (on = none → exec (.halfWidthChange c) s = .next s)
      ∧ (on ≠ none → ∃ t, exec (.halfWidthChange c) s = .next t ∧ t.slots = s.slots ∧ t.chan c = { s.chan c with thermal := true, clearAt := none }
        ∧ t.noticeSeq = if (s.chan c).half then s.noticeSeq else s.noticeSeq + 1))
    ∧ (∀ (s : State) (n temp : Nat), let on := tfind s.alarms (alarmKey 5 n)
      (on = none → exec (.thermalClear n temp) s = .next s)
      ∧ (on ≠ none → ∃ t, exec (.thermalClear n temp) s = .next t ∧ t.slots = s.slots ∧ tfind t.alarms (alarmKey 5 n) = none
        ∧ ∀ i, i < 40 → (s.chan (n * 40 + i)).thermal = true →
          (t.chan (n * 40 + i)).clearAt = some (s.cycle + 15000000) ∧ Event.fullWidthReturn (n * 40 + i) ∈ t.agenda))
    ∧ (∀ (s : State) (c : Nat), ((s.chan c).clearAt = none → exec (.fullWidthReturn c) s = .next s)
      ∧ ∀ n, (s.chan c).clearAt = some n → (s.cycle < n → exec (.fullWidthReturn c) s = .next (s.post (.fullWidthReturn c)))
        ∧ (n ≤ s.cycle → ∃ t, exec (.fullWidthReturn c) s = .next t ∧ t.slots = s.slots
          ∧ t.chan c = { s.chan c with thermal := false, clearAt := none }
          ∧ t.noticeSeq = if (s.chan c).lane then s.noticeSeq else s.noticeSeq + 1))
    ∧ (∀ (s : State) (u : Nat),
      (∃ t, exec (.laneFault true u) s = .next t ∧ { t with unitLog := s.unitLog } = s
        ∧ ∀ k, tget [] t.unitLog k = if k = unitKey 7 u then tget [] s.unitLog k ++ [s.ptp] else tget [] s.unitLog k)
      ∧ ((s.chan u).lane = true → exec (.laneFault false u) s = .next (s.post (.unitFailure 8 u)))
      ∧ ((s.chan u).lane = false → ∃ t, exec (.laneFault false u) s = .next t ∧ t.slots = s.slots ∧ t.chan u = { s.chan u with lane := true }
        ∧ tget [] t.unitLog (unitKey 4 u) = tget [] s.unitLog (unitKey 4 u) ++ [s.ptp] ∧ t.noticeSeq = if (s.chan u).half then s.noticeSeq else s.noticeSeq + 1)
      ∧ ((s.chan u).lane = false → exec (.laneFaultCleared u) s = .next s)
      ∧ ((s.chan u).lane = true → ∃ t, exec (.laneFaultCleared u) s = .next t ∧ t.slots = s.slots ∧ t.chan u = { s.chan u with lane := false }
        ∧ t.noticeSeq = if (s.chan u).thermal then s.noticeSeq else s.noticeSeq + 1))
    ∧ (∀ s : State, exec .powerBudgetExceeded s = .next { s with tight := true, holdDispatch := true }
      ∧ exec .powerDrawWithinBudget s = .next { s with tight := false, holdDispatch := false })
    ∧ (∀ (s : State) (h : Nat) (o : Int), (o.natAbs ≤ 1000 → exec (.ptpOffsetExceeded h o) s = .next s)
      ∧ (1000 < o.natAbs → ∃ t, exec (.ptpOffsetExceeded h o) s = .next t ∧ t.slots = s.slots ∧ t.ptp = s.ptp
        ∧ t.noticeSeq = s.noticeSeq + 1 ∧ ∀ i, tfind t.ptpOff i = if i = h then some o else tfind s.ptpOff i)
      ∧ (tfind s.ptpOff h = none → exec (.ptpOffsetRecovered ⟨h, o⟩) s = .next s)
      ∧ ∀ p, tfind s.ptpOff h = some p → ∃ t, exec (.ptpOffsetRecovered ⟨h, o⟩) s = .next t
        ∧ { t with ptpOff := s.ptpOff, ptpBase := s.ptpBase } = s ∧ t.ptpBase = (s.ptpBase + (o - p)).toNat
        ∧ ∀ i, tfind t.ptpOff i = if i = h then (if o.natAbs ≤ 1000 then none else some o) else tfind s.ptpOff i)
    ∧ (∀ (s : State) (i c h peer len : Nat) (g : Option Nat) (b : List Byte) (ok : Bool), let d := dictOf s.dicts peer
      let p := s.netMessage peer g b len ok
      let entered := fun (plain : List Byte) => p.1 = some plain
        ∧ dictOf p.2.dicts peer = (d.1, (d.2 ++ plain).drop ((d.2 ++ plain).length - 4096)) ∧ { p.2 with dicts := s.dicts } = s
      (g = none → len = b.length → ok = true → entered b)
      ∧ (∀ plain, g = some d.1 → inflate d.2 b.length b [] = some plain → len = plain.length → ok = true → entered plain)
      ∧ (ok = false → p.1 = none) ∧ (∀ n, g = some n → n ≠ d.1 → p.1 = none)
      ∧ (g = some d.1 → inflate d.2 b.length b [] = none → p.1 = none)
      ∧ (p.1 = none → dictOf p.2.dicts peer = ((d.1 + 1) % 256, []) ∧ { p.2 with dicts := s.dicts } = s)
      ∧ ∃ t, exec (.messageArrival i c h (.net peer (.message g b len ok))) s = .next t ∧ t.slots = s.slots ∧ t.mem = s.mem
        ∧ t.dicts = p.2.dicts ∧ (∀ plain, p.1 = some plain → t.netIn = s.netIn ++ [(peer, plain)] ∧ t.outbox = s.outbox ++ [Out.net peer .accepted])
        ∧ (p.1 = none → t.netIn = s.netIn ∧ t.outbox = s.outbox ++ [Out.net peer .refused]))
    ∧ (∀ (s : State) (i c h peer : Nat) (b : List Byte), (s.netOut.find? fun e => e.1 == peer) = some (peer, b) → let d := dictOf s.sdicts peer
      (∃ t, exec (.messageArrival i c h (.net peer .refused)) s = .next t ∧ dictOf t.sdicts peer = ((d.1 + 1) % 256, [])
        ∧ t.outbox = s.outbox ++ [Out.net peer (.message none b b.length true)] ∧ t.netOut = s.netOut ∧ t.slots = s.slots ∧ t.mem = s.mem)
      ∧ ∃ t, exec (.messageArrival i c h (.net peer .accepted)) s = .next t ∧ t.netOut = s.netOut.erase (peer, b) ∧ t.slots = s.slots
        ∧ dictOf t.sdicts peer = (d.1, (d.2 ++ b).drop ((d.2 ++ b).length - 4096)) ∧ t.mem = s.mem)
    ∧ (∀ (d : Nat × List Byte) (b : List Byte), ∃ g c, netForm d b = .message g c b.length true ∧ c.length ≤ b.length
      ∧ (b.length < 256 → g = none) ∧ (g = none → c = b) ∧ ∀ k, g = some k → k = d.1 ∧ inflate d.2 c.length c [] = some b)
    ∧ ∀ (s : State) (c r : Nat) (ok : Bool), let n := tget 0 (s.chan c).rows r + 1
      (r % 512 = 511 → exec (.rowPrecharge c r ok) s = .next s)
      ∧ (r % 512 ≠ 511 → ∃ t, exec (.rowPrecharge c r ok) s = .next t ∧ t.slots = s.slots ∧ t.mem = s.mem
        ∧ tget 0 (t.chan c).rows r = n ∧ (∀ q, q ≠ r → tget 0 (t.chan c).rows q = tget 0 (s.chan c).rows q)
        ∧ (t.chan c).corrupt = (if ok then (s.chan c).corrupt else (s.chan c).corrupt + 1)
        ∧ t.agenda = if ok = true ∧ n < s.rowLimit ∧ n < 65535 then s.agenda else s.agenda ++ [Event.neighbourRefresh c r])
      ∧ ∃ t, exec (.neighbourRefresh c r) s = .next t ∧ t.slots = s.slots ∧ t.mem = s.mem ∧ tget 0 (t.chan c).rows r = 0
        ∧ (∀ q, q ≠ r → tget 0 (t.chan c).rows q = tget 0 (s.chan c).rows q) ∧ (t.chan c).neigh = (s.chan c).neigh + 1

/-- R11, R14, R31, R243, R253, R281 to R287. What a steward finds is a free value (log entry 5). Memory is stated while no checkpoint is running, where no copy of a unit is the subject. -/
def Obligations.RecoveryNoticesCheckpointsAndRemaps : Prop :=
  let idle := fun (s : State) => ∀ e, e ∈ s.teams → e.2.ckRun = false
  let calm := fun (s : State) => idle s ∧ (∀ e, e ∈ s.coreTab → e.2.waits = []) ∧ ∀ e, e ∈ s.clusters → e.2.vwaits = []
  (∀ (s : State) (n : Notice), let q := s.noticeSeq + 1
      let pa := s.noticeBase + q % 256 * 64
      let gen := (match s.team? n.team with | some t => t.gen | none => 0)
      ∃ t, exec (.stewardNotice n) s = .next t ∧ t.slots = s.slots ∧ t.noticeSeq = q
        ∧ t.irqs = tset s.irqs 3 (BitVec.ofNat 64 pa, 0)
        ∧ (idle s → pa / 64 ≠ s.hostPage / 64 → SameBut s t pa 64 ∧ t.rd pa 64 = Notice.record n q s.ptp gen % 2 ^ 512)
        ∧ let r := Notice.record n q s.ptp gen
          recField r 0 4 = q % 2 ^ 32 ∧ recField r 4 2 = n.kind % 2 ^ 16 ∧ recField r 6 1 = n.scope % 256
          ∧ recField r 8 8 = s.ptp % 2 ^ 64 ∧ recField r 0x10 8 = n.unit % 2 ^ 64 ∧ recField r 0x18 2 = n.team % 65536
          ∧ recField r 0x1A 2 = gen % 65536 ∧ recField r 0x20 8 = n.arg0.toNat ∧ recField r 0x28 8 = n.arg1.toNat)
    ∧ (∀ (s : State) (pa : Nat) (who : Option Nat), (pa / 8 ∉ s.flips → exec (.backgroundScrub pa who) s = .next s)
      ∧ (pa / 8 ∈ s.flips → ∃ t, exec (.backgroundScrub pa who) s = .next t ∧ t.mem = s.mem ∧ t.poison = s.poison
        ∧ (∀ w, w ∈ t.flips ↔ w ∈ s.flips ∧ w ≠ pa / 8) ∧ (who = none → t.slots = s.slots)
        ∧ (let u := unitKey (s.unitOf pa).1 (s.unitOf pa).2
          ∀ j, tget [] t.unitLog j = if j = u then tget [] s.unitLog j ++ [s.ptp] else tget [] s.unitLog j)
        ∧ ∀ k, who = some k → (t.slot k).errc = (if (s.slot k).errc = BitVec.allOnes 32 then (s.slot k).errc else (s.slot k).errc + 1)
          ∧ ∀ j, j ≠ k → t.slot j = s.slot j))
    ∧ (∀ (s : State) (pa : Nat), ∃ t, exec (.uncorrectableError pa) s = .next t ∧ t.mem = s.mem ∧ t.slots = s.slots
      ∧ (∀ w, t.bad w = (s.bad w || w == pa / 8)) ∧ ∀ w, w ∈ t.flips ↔ w ∈ s.flips ∧ w ≠ pa / 8)
    ∧ (∀ (s : State) (cls unit : Nat), ∃ t a b p, exec (.unitFailure cls unit) s = .next t ∧ t.mem = s.mem ∧ t.slots = s.slots
      ∧ t.agenda = s.agenda ++ [Event.diagnosisVote a b p cls unit] ∧ a.isSome = s.stewardA ∧ b.isSome = s.stewardB
      ∧ let u := unitKey (classScope cls) (classUnit cls unit)
        ∀ j, tget [] t.unitLog j = if j = u then tget [] s.unitLog j ++ [s.ptp] else tget [] s.unitLog j)
    ∧ (∀ (s : State) (a b : Option Bool) (p : Bool) (cls unit : Nat), let x := if s.stewardA then a else none
      let y := if s.stewardB then b else none
      (voteStands x y p = false → exec (.diagnosisVote a b p cls unit) s = .next s)
      ∧ (voteStands x y p = true → exec (.diagnosisVote a b p cls unit) s = .next (s.actOn cls unit)))
    ∧ (∀ a b p : Bool, voteStands (some a) (some a) p = a ∧ (a ≠ b → voteStands (some a) (some b) p = p)
      ∧ voteStands (some a) none p = (a && p) ∧ voteStands none (some a) p = (a && p) ∧ voteStands none none p = false)
    ∧ (∀ (s : State) (cls u : Nat), (s.actOn cls u).standing = s.standing ++ [(cls, u)] ∧ (s.actOn cls u).slots = s.slots)
    ∧ (∀ (s : State) (u : Nat), let t := s.actOn 8 u
      (t.chan u).mappedOut = true ∧ Event.remapStart (s.amap + 1) ∈ t.agenda
      ∧ ∀ e, e ∈ s.teams → e.1 ≠ 0 → e.2.state = 1 ∨ e.2.state = 2 → Event.stateLossSequence e.1 ∈ t.agenda)
    ∧ (∀ (s : State) (l : List Nat) (w : Nat), (s.loseChannels l).bad w = true ↔ s.bad w = true ∨ (w < 0xC00000 * 8192 ∧ 8 * w < s.reserveBase ∧ s.chanOf (8 * w) ∈ l))
    ∧ (∀ (s : State) (u tid : Nat), let c := u / 16
      let t := s.actOn 10 u
      (∀ j, j ∈ t.working ↔ j ∈ s.working ∧ j ≠ c) ∧ (t.clusterSt c).broken = true
      ∧ ((s.clusterSt c).team = some tid → (∃ j, j ∈ s.working ∧ j ≠ c ∧ s.freeCluster j = true) → ∃ j r, s.freeCluster j = true ∧ j ≠ c
          ∧ j ∈ s.working ∧ Event.replacement tid (s.clusterSt c).logical j r ∈ t.agenda)
      ∧ ((s.clusterSt c).team = some tid → (∀ j, j ∈ s.working → j ≠ c → s.freeCluster j = false) →
          Event.stateLossSequence tid ∈ t.agenda
          ∧ (idle s → ∀ T, s.team? tid = some T → ∃ T', t.team? tid = some T' ∧ T'.moves = T.moves + 1
              ∧ T'.done.err = T.done.err ||| errBit 11)))
    ∧ (∀ (s : State) (phys : Nat), calm s → let t := s.actOn 11 phys
      t.dieOk = s.dieOk &&& ~~~ (1#9 <<< phys)
      ∧ (s.dieServed phys = none → t.agenda = s.agenda ∧ t.working = s.working)
      ∧ ∀ die, s.dieServed phys = some die → (∀ c, c ∈ t.working ↔ c ∈ s.working ∧ c / 64 ≠ phys)
        ∧ (∀ d, s.spareDie = some d → t.agenda = s.agenda ++ [Event.dieMapChange die 0 s.ownPkg.toNat d])
        ∧ (s.spareDie = none → ∀ tid T, s.team? tid = some T → tid ≠ 0 → T.state = 1 → (∃ c, c ∈ T.place ∧ c / 64 = phys) →
            Event.stateLossSequence tid ∈ t.agenda))
    ∧ (∀ (s : State) (pkg tid c : Nat) (T : Team), s.team? tid = some T → tid ≠ 0 → T.state = 1 ∨ T.state = 2 → c ∈ T.place →
      atPeer c = true → (s.dmapAt (c / 64 - 16)).pkg.toNat = pkg → Event.packageLoss pkg tid ∈ (s.actOn 14 pkg).agenda)
    ∧ (∀ s : State, (s.actOn 12 0).agenda = s.agenda ++ [Event.hubFailover] ∧ (s.actOn 12 1).hubB = false
      ∧ (s.actOn 13 0).stewardA = false ∧ (s.actOn 13 1).stewardB = false)
    ∧ (∀ (s : State) (p tid : Nat), ∃ t, exec (.packageLoss p tid) s = .next t ∧ t.slots = s.slots ∧ t.noticeSeq = s.noticeSeq + 1
      ∧ Event.stateLossSequence tid ∈ t.agenda)
    ∧ (∀ s : State, ∃ t, exec .hubFailover s = .next t ∧ t.hubA = false ∧ t.hostHub = 1 ∧ t.hubB = s.hubB ∧ t.slots = s.slots
      ∧ t.links = s.links ∧ t.noticeSeq = s.noticeSeq + 1)
    ∧ (∀ (s : State) (d : Fin 16) (p q : Nat), let e := s.dmap[d]
      (∃ t, exec (.dieMapChange d 0 p q) s = .next t ∧ t.dmap[d] = { e with held := true }
        ∧ t.agenda = s.agenda ++ [Event.dieMapChange d 1 p q] ∧ t.slots = s.slots ∧ t.mem = s.mem)
      ∧ (let e' : DmapEnt := { e with gen := e.gen + 1, pkg := BitVec.ofNat 16 p, pdie := BitVec.ofNat 4 q }
        let d0 := s.servingDie d e
        let d1 := s.servingDie d e'
        ∃ t, exec (.dieMapChange d 1 p q) s = .next t ∧ t.dmap[d] = e' ∧ (∀ i : Fin 16, i ≠ d → t.dmap[i] = s.dmap[i])
          ∧ Event.dieMapChange d 2 p q ∈ t.agenda
          ∧ (d0 = d1 → t.slots = s.slots ∧ t.mem = s.mem ∧ t.agenda = s.agenda ++ [Event.dieMapChange d 2 p q])
          ∧ (d0 ≠ d1 → ∀ c, c ∈ t.working ↔ (c ∈ s.working ∧ c / 64 ≠ d0 ∧ c / 64 ≠ d1) ∨ (c / 64 = d1 ∧ (s.clusterSt c).broken = false))
          ∧ (d0 ≠ d1 → calm s → (s.teams.map (·.1)).Nodup → ∀ tid T, s.team? tid = some T → T.state = 1 → (∃ c, c ∈ T.place ∧ c / 64 = d0) →
            ∃ T', t.team? tid = some T' ∧ T'.place = T.place.map (fun c => if c / 64 = d0 then d1 * 64 + c % 64 else c)
              ∧ T'.moves = T.moves + 1 ∧ T'.done.err = T.done.err ||| errBit 11 ∧ (tid ≠ 0 → Event.stateLossSequence tid ∈ t.agenda)))
      ∧ exec (.dieMapChange d 2 p q) s = .next (s.post (.dieMapChange d 3 p q))
      ∧ ∃ t, exec (.dieMapChange d 3 p q) s = .next t ∧ t.dmap[d] = { e with held := false } ∧ t.slots = s.slots
        ∧ t.noticeSeq = s.noticeSeq + 1)
    ∧ (∀ (s : State) (tid l phys : Nat) (ok : Bool), (∀ T, s.team? tid = some T → T.place[l]? = none ∨ T.state ≠ 1) →
      exec (.replacement tid l phys ok) s = .next s)
    ∧ (∀ (s : State) (tid l phys old : Nat) (T : Team), s.team? tid = some T → T.place[l]? = some old → T.state = 1 →
      let live := fun (k : Nat) => k / 256 = old ∧ T.smask.getLsbD (k % 16) = true ∧ (s.slot k).status ≠ .exited
      let good := s.freeCluster phys = true ∧ phys ∈ s.working ∧ ∀ k, live k → (s.slot k).doms ≠ []
      let s1 := s.countMove tid
      (good → calm s → Memory.wf s1.mem = true → (s.slots.map (·.1)).Nodup → old ≠ phys → old < 576 → phys < 576 →
        (∀ k, k < 256 → s.slot (phys * 256 + k) = Slot.init) →
        ∃ t T', exec (.replacement tid l phys true) s = .next t ∧ t.team? tid = some T' ∧ T'.moves = T.moves + 1 ∧ T'.done.err = T.done.err ||| errBit 11
          ∧ T'.place = T.place.set l phys ∧ T'.state = 1 ∧ (t.clusterSt old).broken = true
          ∧ (∀ i, i < 0x200000 → t.byte (lsPa (phys * 16) + i) = s1.byte (lsPa (old * 16) + i))
          ∧ (∀ i, i < 0x400000 → t.byte (vaultPa phys + i) = s1.byte (vaultPa old + i))
          ∧ (∀ k, k < 256 → (t.slot (phys * 256 + k)).x = (s.slot (old * 256 + k)).x ∧ (t.slot (phys * 256 + k)).pc = (s.slot (old * 256 + k)).pc
              ∧ t.slot (old * 256 + k) = Slot.init))
      ∧ ((¬good → exec (.replacement tid l phys true) s = exec (.replacement tid l phys false) s))
      ∧ (tid = 0 → exec (.replacement tid l phys false) s = .next s1)
      ∧ (tid ≠ 0 → calm s → ∃ t T', exec (.replacement tid l phys false) s = .next t ∧ t.team? tid = some T' ∧ T'.state = 0
          ∧ T'.gen = (T.gen + 1) % 65536 ∧ T'.done.cls = 4 ∧ T'.done.err = errBit 11 ∧ T'.moves = T.moves + 1 ∧ T'.place = []))
    ∧ (∀ (s : State) (v : Nat), (s.remap ≠ none → exec (.remapStart v) s = .next (s.post (.remapStart v)))
      ∧ (s.remap = none → ∃ t, exec (.remapStart v) s = .next t ∧ t.slots = s.slots ∧ t.noticeSeq = s.noticeSeq + 1
        ∧ Event.remapPageMove none ∈ t.agenda ∧ t.amap = s.amap ∧ ∃ early, t.remap = some (v, 0, early)))
    ∧ (∀ (s : State) (p : Option Nat), s.remap = none → exec (.remapPageMove p) s = .next s ∧ exec .remapEnd s = .next s)
    ∧ (∀ (s : State) (v b : Nat) (early : List Nat), s.remap = some (v, b, early) →
      (0xC00000 ≤ b → exec (.remapPageMove none) s = .next s)
      ∧ (b < 0xC00000 → exec .remapEnd s = .next s ∧ ∃ t, exec (.remapPageMove none) s = .next t ∧ t.mem = s.mem ∧ t.slots = s.slots
        ∧ t.remap = some (v, b + 1, mark early b false) ∧ (∀ j, b < j → t.mapOf j = s.mapOf j) ∧ t.mapOf b = v
        ∧ t.agenda = s.agenda ++ [if b + 1 < 0xC00000 then Event.remapPageMove none else Event.remapEnd])
      ∧ (∀ p, ∃ t, exec (.remapPageMove (some p)) s = .next t ∧ t.mem = s.mem ∧ t.slots = s.slots ∧ t.agenda = s.agenda
        ∧ (s.rowOf p = none → t.mapOf p = v) ∧ (s.rowOf p ≠ none → t = s))
      ∧ (0xC00000 ≤ b → ∃ t, exec .remapEnd s = .next t ∧ t.amap = v ∧ t.slots = s.slots ∧ t.noticeSeq = s.noticeSeq + 1))
    ∧ (∀ (s : State) (tid : Nat) (u : Option Nat) (r : Nat), (∀ T, s.team? tid = some T → T.ckRun = false) →
      exec (.checkpointUnitCopy tid u) s = .next s ∧ exec (.checkpointCommit tid r) s = .next s)
    ∧ (∀ (s : State) (tid : Nat) (T : Team), s.team? tid = some T → T.ckRun = true →
      (T.ckUnits = [] → exec (.checkpointUnitCopy tid none) s = .next (s.post (.checkpointCommit tid 0)))
      ∧ (∀ u, u ∉ T.ckUnits → exec (.checkpointUnitCopy tid (some u)) s = .next s)
      ∧ (∀ u, u ∈ T.ckUnits → exec (.checkpointUnitCopy tid (some u)) s = .next (s.copyUnit tid u))
      ∧ (∀ u l, T.ckUnits = u :: l → exec (.checkpointUnitCopy tid none) s = .next ((s.copyUnit tid u).post (.checkpointUnitCopy tid none)))
      ∧ (∀ u, s.reserveFree = none → ∃ T', (s.copyUnit tid u).team? tid = some T' ∧ (∀ j, j ∈ T'.ckUnits ↔ j ∈ T.ckUnits ∧ j ≠ u)
          ∧ (∀ j, j ∈ T'.ckWritten ↔ j ∈ T.ckWritten ∨ j = u) ∧ (s.copyUnit tid u).mem = s.mem)
      ∧ (∀ u k, s.reserveFree = some k → Memory.wf s.mem = true →
          (∀ i, i < 10 → s.piecePa k i % 8 = 0 ∧ (s.piecePa k i + 0x2000 ≤ u * 0x10000 ∨ (u + 1) * 0x10000 ≤ s.piecePa k i)) →
          (∀ i j, i < 10 → j < 10 → i ≠ j → s.piecePa k i + 0x2000 ≤ s.piecePa k j ∨ s.piecePa k j + 0x2000 ≤ s.piecePa k i) →
          let t := s.copyUnit tid u
          t.team? tid = some { T with ckUnits := T.ckUnits.filter (· != u), ckDone := T.ckDone ++ [(u, k)] } ∧ t.slots = s.slots
          ∧ (∀ i j, i < 8 → j < 0x2000 → t.byte (s.piecePa k i + j) = s.byte (u * 0x10000 + i * 0x2000 + j))
          ∧ (∀ i j, i < 2 → j < 0x2000 →
              t.byte (s.piecePa k (8 + i) + j) = Config.parityByte (s.rdBytes (u * 0x10000) 0x10000) (i * 0x2000 + j))
          ∧ (∀ b, (∀ i, i < 10 → b < s.piecePa k i ∨ s.piecePa k i + 0x2000 ≤ b) → t.byte b = s.byte b)
          ∧ ∀ i, i < 10 → s.piecePa k i ∉ t.lostPieces ∧ (s.piecePkg i ≠ s.ownPkg.toNat → ∃ m, (s.piecePkg i, m) ∈ t.netOut ∧ m.length = 0x2000))
      ∧ (T.ckUnits ≠ [] → ∀ r, r ≠ 2 → exec (.checkpointCommit tid r) s = .next s)
      ∧ (T.ckUnits = [] → s.piecesOut = true → exec (.checkpointCommit tid 0) s = .next (s.post (.checkpointCommit tid 0)))
      ∧ (T.ckUnits = [] → s.piecesOut = false → T.ckDone.length = T.ckCount → ∃ t T', exec (.checkpointCommit tid 0) s = .next t
          ∧ t.slots = s.slots ∧ t.noticeSeq = s.noticeSeq + 1 ∧ (idle { s with teams := tset s.teams tid { T with ckRun := false } } →
            t.team? tid = some T' ∧ T'.ckRun = false ∧ T'.ckWant = none ∧ T'.ckDone = [] ∧ T'.ckAt = s.ptp
            ∧ ∀ e, e ∈ T'.ckMap ↔ e ∈ T.ckDone ∨ (e ∈ T.ckMap ∧ ∀ f, f ∈ T.ckDone → f.1 ≠ e.1)))
      ∧ ∀ r, (r = 2 ∨ (T.ckUnits = [] ∧ (r ≠ 0 ∨ (s.piecesOut = false ∧ T.ckDone.length ≠ T.ckCount)))) →
          ∃ t T', exec (.checkpointCommit tid r) s = .next t
          ∧ t.slots = s.slots ∧ t.noticeSeq = s.noticeSeq + 1 ∧ (idle { s with teams := tset s.teams tid { T with ckRun := false } } →
            t.team? tid = some T' ∧ T'.ckRun = false ∧ T'.ckWant = none ∧ T'.ckMap = T.ckMap ∧ T'.ckUnits = [] ∧ T'.ckDone = []
            ∧ ∀ j, j ∈ T'.ckWritten ↔ j ∈ T.ckWritten ∨ j ∈ T.ckUnits ∨ ∃ f, f ∈ T.ckDone ∧ f.1 = j))
    ∧ (∀ (s : State) (i : Nat), s.piecePkg i = (s.ownPkg.toNat :: s.group).getD (i % (s.group.length + 1)) 0)
    ∧ ∀ (s : State) (k : Nat), s.reserveFree = some k → (∀ T f, T ∈ s.teams → f ∈ T.2.ckDone ++ T.2.ckMap → f.2 ≠ k)
      ∧ ∀ i, i < 10 → s.piecePkg i = s.ownPkg.toNat → s.reserveBase ≤ s.piecePa k i
        ∧ s.piecePa k i + 0x2000 ≤ s.reserveBase + s.reserveSize
        ∧ ∀ j, j < 10 → j ≠ i → s.piecePkg j = s.ownPkg.toNat →
          (s.piecePa k i - s.reserveBase) / s.stackShare ≠ (s.piecePa k j - s.reserveBase) / s.stackShare

/-- R94, R97, R448 to R454. A tile command as a step of its own is log entry 21: it is accepted as ENQ accepts it and its engine runs it; `TileDoes` and `State.ready` say when at once. Operands lie in one range of storage each, translated without a walk; nothing is poisoned. -/
def Obligations.TinkerCommands : Prop :=
  let ctx := fun (s : State) => { s.ctx s.sid with thread := false }
  let f32 := fun (v : Nat) => decodeF fp32 v
  (∀ (s : State) (i : Instr) (w : BitVec 256), encodeTile i = some w → isChan s.core = true → Traps i s (Trap.sync 2 (tileW w 0)))
    ∧ (∀ (s : State) (i : Instr) (w : BitVec 256) (e : Nat), encodeTile i = some w → tileEngine (tileOpc w) = some e → e ≠ 0 →
      isChan s.core = false → s.running s.cluster e ≠ [] → (∀ h n l, i ≠ .tlink h n l) →
      (∀ o, o ∈ (s.clusterSt s.cluster).running → o.ticket ≠ (s.clusterSt s.cluster).nextTicket) →
      let k := s.clusterSt s.cluster
      ∃ t, exec i s = .next t ∧ t.mem = s.mem ∧ (∀ j, j ≠ s.sid → t.slot j = s.slot j)
        ∧ (t.clusterSt s.cluster).queues.toList.getD e [] = (if e < 3 then k.queues.toList.getD e [] ++ [{ s.sampleCmd s.sid e w i with ticket := k.nextTicket }] else [])
        ∧ (t.clusterSt s.cluster).running = k.running)
    ∧ (∀ (s : State) (h : TileHdr) (lb : BitVec 3) (kb : KBlk) (src dst : Word) (pa pb : Nat),
      let n := KBlk.entries kb
      s.mapsBlocks (ctx s) src (8 * n) .load pa → s.mapsBlocks (ctx s) dst (4 * n) .store pb → s.clearOf pb (4 * n) →
      TileDoes (.tpack h lb kb src dst) 2 s fun _ t => SameBut s t pb (4 * n) ∧ ∀ e, e < n →
        t.rd (pb + 4 * e) 4 = s.rd (pa + 8 * e) 4 % blkLen lb + 2 ^ 16 * (cvtBf (f32 (s.rd (pa + 8 * e + 4) 4))).1)
    ∧ (∀ (s : State) (h : TileHdr) (lb : BitVec 3) (kb : KBlk) (src dst : Word) (pa pb : Nat),
      let n := KBlk.entries kb
      s.mapsBlocks (ctx s) src (4 * n) .load pa → s.mapsBlocks (ctx s) dst (8 * n) .store pb → s.clearOf pb (8 * n) →
      TileDoes (.tunpk h lb kb src dst) 2 s fun _ t => SameBut s t pb (8 * n) ∧ ∀ e, e < n →
        t.rd (pb + 8 * e) 8 = e / (kb.k1.toNat + 1) * blkLen lb + s.rd (pa + 4 * e) 2 % blkLen lb
          + 2 ^ 32 * (quiet32 (s.rd (pa + 4 * e + 2) 2 * 2 ^ 16)).1)
    ∧ (∀ (s : State) (h : TileHdr) (kb : KBlk) (pairs vec : Word) (len : BitVec 26) (pa pv : Nat),
      let n := KBlk.entries kb
      s.mapsBlocks (ctx s) pairs (8 * n) .load pa → s.mapsBlocks (ctx s) vec (4 * len.toNat) .load pv →
      s.mapsBlocks (ctx s) vec (4 * len.toNat) .store pv → s.clearOf pv (4 * len.toNat) →
      TileDoes (.tspadd h kb pairs len vec) 2 s fun _ t => SameBut s t pv (4 * len.toNat) ∧ ∀ i, i < len.toNat →
        t.rd (pv + 4 * i) 4 = (List.range n).foldl (fun y e =>
          if s.rd (pa + 8 * e) 4 = i then (finishF fp32 0 (numAdd 0 (f32 y) (f32 (s.rd (pa + 8 * e + 4) 4)))).1 else y) (s.rd (pv + 4 * i) 4))
    ∧ (∀ (s : State) (h : TileHdr) (lb : BitVec 3) (res : Bool) (kb : KBlk) (x r out : Word) (px pr po : Nat),
      let B := blkLen lb
      let k := kb.k1.toNat + 1
      let n := (kb.n1.toNat + 1) * B
      let y := fun (i : Nat) => if res then (finishF fp32 0 (numAdd 0 (f32 (s.rd (px + 4 * i) 4)) (f32 (s.rd (pr + 4 * i) 4)))).1
        else (quiet32 (s.rd (px + 4 * i) 4)).1
      let first := fun (i j : Nat) => magOf (y j) < magOf (y i) ∨ (magOf (y i) = magOf (y j) ∧ i < j)
      let keep := fun (i : Nat) => decide (((List.range B).filter fun j => decide (first (i / B * B + j) i)).length < k)
      k ≤ B → s.mapsBlocks (ctx s) x (4 * n) .load px → s.mapsBlocks (ctx s) out (8 * KBlk.entries kb) .store po →
      s.clearOf po (8 * KBlk.entries kb) →
      (res = true → s.mapsBlocks (ctx s) r (4 * n) .load pr ∧ s.mapsBlocks (ctx s) r (4 * n) .store pr ∧ s.clearOf pr (4 * n)
        ∧ (po + 8 * KBlk.entries kb ≤ pr ∨ pr + 4 * n ≤ po)) →
      TileDoes (.ttopk h lb res kb x r out) 2 s fun _ t =>
        (∀ b, (b < po ∨ po + 8 * KBlk.entries kb ≤ b) → (res = true → b < pr ∨ pr + 4 * n ≤ b) → t.byte b = s.byte b)
        ∧ ((List.range n).filter keep).length = KBlk.entries kb
        ∧ (∀ e i, ((List.range n).filter keep)[e]? = some i → t.rd (po + 8 * e) 8 = i + 2 ^ 32 * y i)
        ∧ (res = true → ∀ i, i < n → t.rd (pr + 4 * i) 4 = if keep i then 0 else y i))
    ∧ ∀ (s : State) (h : TileHdr) (n1 : BitVec 4) (list : BitVec 57) (w : BitVec 256) (l : List Instr),
      encodeTile (.tlink h n1 list) = some w → s.ready →
      s.innerWords (ctx s) s.me.level 0 (s.linkList s.core (va57 list) (n1.toNat + 1)) = .ok l →
      let c : Cmd := { s.sampleCmd s.sid 2 w (.tlink h n1 list) with inner := l }
      let u := (s.acceptCmd c).unitStart s.cluster 2
      let c0 : Cmd := { c with ticket := (s.clusterSt s.cluster).nextTicket, start := some s.cycle }
      let one := fun (x : Option (Cmd × State)) (i : Instr) => x.bind fun y => match y.2.tinkOne s.cluster y.1 i with
        | (c, s, true) => some ({ c with step := (c.step / 2 ^ 20 + 1) * 2 ^ 20, buf := [], rowsR := 0, rowsW := 0 }, s)
        | (_, _, false) => none
      ∀ c' s', l.foldl one (some (c0, u.zero (tinkPa s.cluster) 0x10000)) = some (c', s') → c'.status ≤ 1 →
        ∃ t, exec (.tlink h n1 list) s = .next t ∧ t.mem = (s'.zero (tinkPa s.cluster) 0x10000).mem ∧ t.runCmd s.cluster c0.ticket = none
          ∧ ∀ b, b < 0x10000 → t.byte (tinkPa s.cluster + b) = 0

/-- R211 to R219, R224, R431. The tile command as a step is log entry 21. `transform`, `restage` and `retag` are the computations of R216 to R218 on the data read as one number. Input and output lie in one range of storage each, translated without a walk; nothing is poisoned. -/
def Obligations.TransformCommands : Prop :=
  let ctx := fun (s : State) => { s.ctx s.sid with thread := false }
  let ins := fun (s : State) (d : Shape) (src : BitVec 57) (pa : Nat) =>
    s.maps (ctx s) (va57 src) 64 .load pa ∧ s.mapsBlocks (ctx s) (va57 src + 64) (d.bytes d.nb) .load (pa + 64)
  let outs := fun (s : State) (d : Shape) (dst : BitVec 57) (pb : Nat) =>
    s.maps (ctx s) (va57 dst) 64 .store pb ∧ s.mapsBlocks (ctx s) (va57 dst + 64) (d.bytes d.nb) .store (pb + 64)
      ∧ s.clearOf pb (64 + d.bytes d.nb)
  let good := fun (s : State) (h : TileHdr) (d : Shape) (pa : Nat) =>
    hdrCheck (s.rd pa 64) false h.din.toNat (some (d.lg, d.nb, d.nv)) false = .ok
  let gives := fun (s : State) (d : Shape) (pb : Nat) (o : SpecOut) (c : Cmd) (t : State) =>
    SameBut s t pb (64 + d.bytes d.nb) ∧ t.rd (pb + 64) (d.bytes d.nb) = (packElems 16 o.data).1 % 2 ^ (8 * d.bytes d.nb)
      ∧ t.rd pb 64 = if eOk o.e then hdrOf (tileHdr c.w).dout.toNat d.lg d.nb d.nv o.e else hdrOf 3 d.lg d.nb d.nv 0
  (∀ (s : State) (h : TileHdr) (d : Shape) (src dst : BitVec 57) (pa pb : Nat), ins s d src pa → outs s d dst pb → good s h d pa →
      let hd := s.rd pa 64
      let dat := s.rd (pa + 64) (d.bytes d.nb)
      TileDoes (.sfft h d src dst) 1 s (gives s d pb (transform false d 0 (hdrE hd) dat []))
      ∧ TileDoes (.sifft h d src dst) 1 s (gives s d pb (transform true d (hd % 4) (hdrE hd) dat []))
      ∧ (∀ et, TileDoes (.stagMode0 h et d src dst) 1 s (gives s d pb (restage d (hdrE hd) et.toInt dat [])))
      ∧ TileDoes (.stagMode2 h d src dst) 1 s (gives s d pb (retag d (hd % 4) (hdrE hd) dat []))
      ∧ ∀ ref pr, s.maps (ctx s) (va57 ref) 64 .load pr → hdrCheck (s.rd pr 64) false h.din.toNat none true = .ok →
        TileDoes (.stagMode1 h d src ref dst) 1 s (gives s d pb (restage d (hdrE hd) (hdrE (s.rd pr 64)) dat [])))
    ∧ (∀ (d : Shape) (tag dat : Nat) (e : Int), let o := retag d tag e dat []
      (packElems 16 o.data).1 = dat % 2 ^ (8 * d.bytes d.nb) ∧ o.e = (if tag = 1 then e - d.lg else e + d.lg) ∧ o.flags = 0)
    ∧ (∀ (s : State) (i : Instr) (w : BitVec 256) (p : SpecCmd) (pa x : Nat), specOf i = some p → encodeTile i = some w →
      s.ready → s.maps (ctx s) p.src 64 .load pa → s.me.status = .ready → s.me.saved = 0 →
      hdrCheck (s.rd pa 64) false (tileHdr w).din.toNat (some (p.d.lg, p.d.nb, p.d.nv)) false = .mismatch x →
      ∃ t, exec i s = .next t ∧ t.mem = s.mem ∧ (∀ k, k ≠ s.sid → t.slot k = s.slot k)
        ∧ let r := recordWord (tileOpc w).toNat 5 0 (s.me.fifos.toList.getD 1 ResFifo.init).seq.toNat x
          ((t.slot s.sid).fifos.toList.getD 1 ResFifo.init).recs = (s.me.fifos.toList.getD 1 ResFifo.init).recs ++ [r]
          ∧ (t.slot s.sid).due = s.me.due ++ [Trap.sync 13 r])
    ∧ ∀ (hd tag l a b : Nat) (second : Bool),
      (hd % 4 = 3 → hdrCheck hd false tag (some (l, a, b)) second = .poison)
      ∧ (hd % 4 ≠ 3 → hdrMalformed hd = true → hdrCheck hd false tag (some (l, a, b)) second = .mismatch (3 + 4 * tag + (if second then 16 else 0)))
      ∧ (hd % 4 ≠ 3 → hdrMalformed hd = false → (hd % 4 ≠ tag ∨ hd / 2 ^ 8 % 256 ≠ l ∨ hd / 2 ^ 16 % 256 ≠ a ∨ hd / 2 ^ 24 % 256 ≠ b) →
        hdrCheck hd false tag (some (l, a, b)) second = .mismatch (hd % 4 + 4 * tag + (if second then 16 else 0)))
      ∧ (hd % 4 = tag → tag ≠ 3 → hdrMalformed hd = false → hd / 2 ^ 8 % 256 = l → hd / 2 ^ 16 % 256 = a → hd / 2 ^ 24 % 256 = b →
        hdrCheck hd false tag (some (l, a, b)) second = .ok)

/-- R195 to R202, R206, R220, R221, R394 to R406. The tile command as a step is log entry 21. `mulRow` is the row of R198 to R200, `storeRow` that of R201 and R400, `scmmRow` and `scmmOut` those of R220 and R221. Operands in memory lie in one range of storage each, translated without a walk; nothing is poisoned. -/
def Obligations.ArrayCommands : Prop :=
  let ctx := fun (s : State) => { s.ctx s.sid with thread := false }
  let accOf := fun (s : State) (c : Cmd) (r : Nat) => if c.accs then (s.readAcc s.cluster c.bank r s.cycle).1 else zeroRow
  let bank := fun (s : State) (b : Nat) => accPa s.cluster b 0 0
  let rowIs := fun (s t : State) (b r : Nat) (l : List Nat) => ∀ j, j < 64 → t.rd (accPa s.cluster b r j) 8 = accVal (l.getD j 0)
  let mult := fun (s : State) (c : Cmd) (t : State) => SameBut s t (bank s c.bank) 0x8000
    ∧ ∀ r, r < 64 → rowIs s t c.bank r (s.mulRow s.cluster { c with vec := s.permVec c } r (accOf s c r)).1
  (∀ (s : State) (h : TileHdr) (b : BitVec 2), TileDoes (.mzero h b) 0 s fun _ t => SameBut s t (bank s b.toNat) 0x8000
      ∧ ∀ r, r < 64 → rowIs s t b.toNat r zeroRow)
    ∧ (∀ (s : State) (h : TileHdr) (b : BitVec 2) (acc : Bool) (form : BitVec 2) (x : BitVec 17) (a : BitVec 57) (st : BitVec 7)
      (off idx : BitVec 57) (seg : BitVec 3),
      TileDoes (.mma h b acc form x a st off) 0 s (mult s) ∧ TileDoes (.mtrn h b x a st) 0 s (mult s)
      ∧ TileDoes (.mperm h b acc x a st idx) 0 s (mult s) ∧ TileDoes (.mrsum h b acc seg x a st) 0 s (mult s))
    ∧ (∀ (s : State) (h : TileHdr) (b : BitVec 2) (acc : Bool) (m : BitVec 8) (tile : BitVec 57) (pa : Nat),
      let n := blocks (bStored (fmtB s.me.fmt) 0)
      (∀ k, k < n → s.maps (ctx s) (va57 tile + BitVec.ofNat 64 (64 * k)) 64 .load (pa + 64 * k)) → pa + 64 * n ≤ 2 ^ 50 →
      TileDoes (.mvb h b acc m tile) 0 s fun c t => SameBut s t (bank s b.toNat) 0x8000
        ∧ ∀ r, r < 64 → if r < 8 ∧ m.getLsbD r = true
            then rowIs s t b.toNat r (s.mulRow s.cluster { c with buf := [[s.rd pa (64 * n)]] } r (accOf s c r)).1
            else ∀ j, j < 64 → t.rd (accPa s.cluster b.toNat r j) 8 = s.rd (accPa s.cluster b.toNat r j) 8)
    ∧ (∀ (s : State) (h : TileHdr) (v : BitVec 3) (xd xsel : Bool) (x : BitVec 17) (vec : BitVec 57),
      TileDoes (.mldv h v xd xsel x vec) 0 s fun c t => SameBut s t (resPa s.cluster v.toNat 0) 512
        ∧ let code := fmtA c.fmt
          let ex := fun (q : Nat) =>
            if xd then (s.me.dxe.field (16 * (2 * (if xsel then 1 else 0) + q)) 8, s.me.dxe.field (16 * (2 * (if xsel then 1 else 0) + q) + 8) 8, false)
            else (s.rd (lsPa s.core + x.toNat + 2 * q) 1, s.rd (lsPa s.core + x.toNat + 2 * q + 1) 1, false)
          ∀ k, k < 64 → t.rd (resPa s.cluster v.toNat k) 8
            = exact32 (elemOf code (s.rd (s.localPa c (va57 vec)) (elemBytes code 64)) [] k (ex (k / 32))).1)
    ∧ (∀ (s : State) (h : TileHdr) (form : BitVec 2) (src off : BitVec 57) (pa : Nat),
      let n := blocks (bStored (fmtB s.me.fmt) form.toNat)
      (∀ k, k < n → s.maps (ctx s) (va57 src + BitVec.ofNat 64 (64 * k)) 64 .load (pa + 64 * k)) → pa + 64 * n ≤ 2 ^ 50 →
      TileDoes (.mwld h form src off) 0 s fun _ t => SameBut s t (weightPa s.cluster + off.toNat) (64 * n)
        ∧ ∀ k, k < 64 * n → t.byte (weightPa s.cluster + off.toNat + k) = s.byte (pa + k))
    ∧ (∀ (s : State) (h : TileHdr) (b : BitVec 2) (fold ovr : Bool) (sf : BitVec 3) (fw dst : BitVec 57) (st3 : BitVec 7) (p0 pf : Nat),
      let code := if ovr then sf.toNat else fmtS s.me.fmt
      let rb := rowBytes code
      let st := stride st3 rb
      let n := if isDx code then 64 * st + 256 else 63 * st + rb
      let ls := lsPa s.core
      let apart := fun (a k : Nat) => a + k ≤ p0 ∨ p0 + n ≤ a
      (∀ r, r < 64 → s.maps (ctx s) (va57 dst + BitVec.ofNat 64 (r * st)) rb .store (p0 + r * st)) →
      (isDx code = true → ∀ r, r < 64 → s.maps (ctx s) (va57 dst + BitVec.ofNat 64 (64 * st + 4 * r)) 4 .store (p0 + 64 * st + 4 * r)) →
      s.clearOf p0 n → (fmtScale s.me.fmt = true → apart (ls + s.me.sptra.toNat) 256 ∧ apart (ls + s.me.sptrb.toNat) 256) →
      (fold = true → s.maps (ctx s) (va57 fw) 4 .store pf ∧ s.clearOf pf 4 ∧ apart pf 4) →
      TileDoes (.mstc h b fold ovr sf fw dst st3) 0 s fun c t =>
        let row := fun (r : Nat) => storeRow code (fmtSrnd c.fmt) (s.scaleRow c r (s.readAcc s.cluster b.toNat r s.cycle).1).1
        (∀ a, (a < p0 ∨ p0 + n ≤ a) → (fold = true → a < pf ∨ pf + 4 ≤ a) → t.byte a = s.byte a)
        ∧ (∀ r, r < 64 → t.rd (p0 + r * st) rb = (row r).data % 2 ^ (8 * rb)
            ∧ (isDx code = true → t.rd (p0 + 64 * st + 4 * r) 4 = (row r).exps % 2 ^ 32))
        ∧ (fold = true → t.rd pf 4 = (amFmax (s.rd pf 4) ((List.range 64).foldl (fun m r => foldMag m (row r).vals) 0)).1))
    ∧ ∀ (s : State) (h : TileHdr) (b : BitVec 2) (d : Shape) (src off dst : BitVec 57) (pb : Nat),
      let w := d.np * d.nv * 8
      let n := 64 + d.b / 4 * w
      let c := s.sampleCmd s.sid 0 ((encodeTile (.scmm h b d src off dst)).getD 0) (.scmm h b d src off dst)
      let x := s.scmmIn s.cluster c
      let pa := s.localPa c (va57 src)
      s.maps (ctx s) (va57 dst) 64 .store pb →
      (∀ k, k < d.b / 4 → s.maps (ctx s) (va57 dst + BitVec.ofNat 64 (64 + k * w)) w .store (pb + 64 + k * w)) →
      s.clearOf pb n → (pa + 64 + d.bytes d.nb ≤ pb ∨ pb + n ≤ pa) → scmmCheck h d x = (0, 0) →
      TileDoes (.scmm h b d src off dst) 0 s fun _ t =>
        (∀ a, (a < pb ∨ pb + n ≤ a) → (a < bank s b.toNat ∨ bank s b.toNat + 0x8000 ≤ a) → t.byte a = s.byte a)
        ∧ (∀ k, k < d.b / 4 → t.rd (pb + 64 + k * w) w
            = (packElems 16 (scmmOut d ((List.range 64).map fun r => (scmmRow d x.dat [] x.wdat [] k r).1)).1).1 % 2 ^ (8 * w))
        ∧ t.rd pb 64 = (if eOk (hdrE x.h + hdrE x.wh) then hdrOf h.din.toNat d.lg d.np d.nv (hdrE x.h + hdrE x.wh)
            else hdrOf 3 d.lg d.np d.nv 0)

/-- The invariant of plain data: memory rises strictly and lists no zero byte, each list of marks rises strictly. Nothing else about the state is assumed: any slot, engine, channel or event may act. -/
def Obligations.StepsKeepCanonicalMemory : Prop :=
  ∀ (s t : State), s.canonical = true → step s = .next t → t.canonical = true
end

