-- ==== Sys2Proof/Laws/State.lean ====
section
/-! SUPPORT. One lemma per field and update of State and Slot: what an update of one field leaves in every other. -/

namespace Sys2Proof.Machine

/-! ### setSlot -/
@[simp] theorem State.setSlot_cycle (s : State) (k : Nat) (sl : Slot) : (s.setSlot k sl).cycle = s.cycle := rfl
@[simp] theorem State.setSlot_cores (s : State) (k : Nat) (sl : Slot) : (s.setSlot k sl).cores = s.cores := rfl
@[simp] theorem State.setSlot_phase (s : State) (k : Nat) (sl : Slot) : (s.setSlot k sl).phase = s.phase := rfl
@[simp] theorem State.setSlot_plan (s : State) (k : Nat) (sl : Slot) : (s.setSlot k sl).plan = s.plan := rfl
@[simp] theorem State.setSlot_agenda (s : State) (k : Nat) (sl : Slot) : (s.setSlot k sl).agenda = s.agenda := rfl
@[simp] theorem State.setSlot_beat (s : State) (k : Nat) (sl : Slot) : (s.setSlot k sl).beat = s.beat := rfl
@[simp] theorem State.setSlot_free (s : State) (k : Nat) (sl : Slot) : (s.setSlot k sl).free = s.free := rfl
@[simp] theorem State.setSlot_coreTab (s : State) (k : Nat) (sl : Slot) : (s.setSlot k sl).coreTab = s.coreTab := rfl
@[simp] theorem State.setSlot_clusters (s : State) (k : Nat) (sl : Slot) : (s.setSlot k sl).clusters = s.clusters := rfl
@[simp] theorem State.setSlot_chans (s : State) (k : Nat) (sl : Slot) : (s.setSlot k sl).chans = s.chans := rfl
@[simp] theorem State.setSlot_mem (s : State) (k : Nat) (sl : Slot) : (s.setSlot k sl).mem = s.mem := rfl
@[simp] theorem State.setSlot_empty (s : State) (k : Nat) (sl : Slot) : (s.setSlot k sl).empty = s.empty := rfl
@[simp] theorem State.setSlot_poison (s : State) (k : Nat) (sl : Slot) : (s.setSlot k sl).poison = s.poison := rfl
@[simp] theorem State.setSlot_badPar (s : State) (k : Nat) (sl : Slot) : (s.setSlot k sl).badPar = s.badPar := rfl
@[simp] theorem State.setSlot_flips (s : State) (k : Nat) (sl : Slot) : (s.setSlot k sl).flips = s.flips := rfl
@[simp] theorem State.setSlot_teams (s : State) (k : Nat) (sl : Slot) : (s.setSlot k sl).teams = s.teams := rfl
@[simp] theorem State.setSlot_nextSeq (s : State) (k : Nat) (sl : Slot) : (s.setSlot k sl).nextSeq = s.nextSeq := rfl
@[simp] theorem State.setSlot_ended (s : State) (k : Nat) (sl : Slot) : (s.setSlot k sl).ended = s.ended := rfl
@[simp] theorem State.setSlot_working (s : State) (k : Nat) (sl : Slot) : (s.setSlot k sl).working = s.working := rfl
@[simp] theorem State.setSlot_irqs (s : State) (k : Nat) (sl : Slot) : (s.setSlot k sl).irqs = s.irqs := rfl
@[simp] theorem State.setSlot_dmap (s : State) (k : Nat) (sl : Slot) : (s.setSlot k sl).dmap = s.dmap := rfl
@[simp] theorem State.setSlot_ownPkg (s : State) (k : Nat) (sl : Slot) : (s.setSlot k sl).ownPkg = s.ownPkg := rfl
@[simp] theorem State.setSlot_dieOk (s : State) (k : Nat) (sl : Slot) : (s.setSlot k sl).dieOk = s.dieOk := rfl
@[simp] theorem State.setSlot_booted (s : State) (k : Nat) (sl : Slot) : (s.setSlot k sl).booted = s.booted := rfl
@[simp] theorem State.setSlot_hubA (s : State) (k : Nat) (sl : Slot) : (s.setSlot k sl).hubA = s.hubA := rfl
@[simp] theorem State.setSlot_hubB (s : State) (k : Nat) (sl : Slot) : (s.setSlot k sl).hubB = s.hubB := rfl
@[simp] theorem State.setSlot_hostHub (s : State) (k : Nat) (sl : Slot) : (s.setSlot k sl).hostHub = s.hostHub := rfl
@[simp] theorem State.setSlot_misroute (s : State) (k : Nat) (sl : Slot) : (s.setSlot k sl).misroute = s.misroute := rfl
@[simp] theorem State.setSlot_ptpBase (s : State) (k : Nat) (sl : Slot) : (s.setSlot k sl).ptpBase = s.ptpBase := rfl
@[simp] theorem State.setSlot_tight (s : State) (k : Nat) (sl : Slot) : (s.setSlot k sl).tight = s.tight := rfl
@[simp] theorem State.setSlot_holdDispatch (s : State) (k : Nat) (sl : Slot) : (s.setSlot k sl).holdDispatch = s.holdDispatch := rfl
@[simp] theorem State.setSlot_alarms (s : State) (k : Nat) (sl : Slot) : (s.setSlot k sl).alarms = s.alarms := rfl
@[simp] theorem State.setSlot_stopped (s : State) (k : Nat) (sl : Slot) : (s.setSlot k sl).stopped = s.stopped := rfl
@[simp] theorem State.setSlot_amap (s : State) (k : Nat) (sl : Slot) : (s.setSlot k sl).amap = s.amap := rfl
@[simp] theorem State.setSlot_remap (s : State) (k : Nat) (sl : Slot) : (s.setSlot k sl).remap = s.remap := rfl
@[simp] theorem State.setSlot_noticeSeq (s : State) (k : Nat) (sl : Slot) : (s.setSlot k sl).noticeSeq = s.noticeSeq := rfl
@[simp] theorem State.setSlot_noticeBase (s : State) (k : Nat) (sl : Slot) : (s.setSlot k sl).noticeBase = s.noticeBase := rfl
@[simp] theorem State.setSlot_hostPage (s : State) (k : Nat) (sl : Slot) : (s.setSlot k sl).hostPage = s.hostPage := rfl
@[simp] theorem State.setSlot_traceBase (s : State) (k : Nat) (sl : Slot) : (s.setSlot k sl).traceBase = s.traceBase := rfl
@[simp] theorem State.setSlot_traceIdx (s : State) (k : Nat) (sl : Slot) : (s.setSlot k sl).traceIdx = s.traceIdx := rfl
@[simp] theorem State.setSlot_reserveBase (s : State) (k : Nat) (sl : Slot) : (s.setSlot k sl).reserveBase = s.reserveBase := rfl
@[simp] theorem State.setSlot_reserveSize (s : State) (k : Nat) (sl : Slot) : (s.setSlot k sl).reserveSize = s.reserveSize := rfl
@[simp] theorem State.setSlot_stewardA (s : State) (k : Nat) (sl : Slot) : (s.setSlot k sl).stewardA = s.stewardA := rfl
@[simp] theorem State.setSlot_stewardB (s : State) (k : Nat) (sl : Slot) : (s.setSlot k sl).stewardB = s.stewardB := rfl
@[simp] theorem State.setSlot_standing (s : State) (k : Nat) (sl : Slot) : (s.setSlot k sl).standing = s.standing := rfl
@[simp] theorem State.setSlot_unitLog (s : State) (k : Nat) (sl : Slot) : (s.setSlot k sl).unitLog = s.unitLog := rfl
@[simp] theorem State.setSlot_links (s : State) (k : Nat) (sl : Slot) : (s.setSlot k sl).links = s.links := rfl
@[simp] theorem State.setSlot_h2dStops (s : State) (k : Nat) (sl : Slot) : (s.setSlot k sl).h2dStops = s.h2dStops := rfl
@[simp] theorem State.setSlot_h2dHalt (s : State) (k : Nat) (sl : Slot) : (s.setSlot k sl).h2dHalt = s.h2dHalt := rfl
@[simp] theorem State.setSlot_epoch (s : State) (k : Nat) (sl : Slot) : (s.setSlot k sl).epoch = s.epoch := rfl
@[simp] theorem State.setSlot_bootCount (s : State) (k : Nat) (sl : Slot) : (s.setSlot k sl).bootCount = s.bootCount := rfl
@[simp] theorem State.setSlot_dicts (s : State) (k : Nat) (sl : Slot) : (s.setSlot k sl).dicts = s.dicts := rfl
@[simp] theorem State.setSlot_remStores (s : State) (k : Nat) (sl : Slot) : (s.setSlot k sl).remStores = s.remStores := rfl
@[simp] theorem State.setSlot_outbox (s : State) (k : Nat) (sl : Slot) : (s.setSlot k sl).outbox = s.outbox := rfl
@[simp] theorem State.setSlot_lost (s : State) (k : Nat) (sl : Slot) : (s.setSlot k sl).lost = s.lost := rfl
@[simp] theorem State.setSlot_tested (s : State) (k : Nat) (sl : Slot) : (s.setSlot k sl).tested = s.tested := rfl
@[simp] theorem State.setSlot_kernelOk (s : State) (k : Nat) (sl : Slot) : (s.setSlot k sl).kernelOk = s.kernelOk := rfl
@[simp] theorem State.setSlot_images (s : State) (k : Nat) (sl : Slot) : (s.setSlot k sl).images = s.images := rfl
@[simp] theorem State.setSlot_ptpOff (s : State) (k : Nat) (sl : Slot) : (s.setSlot k sl).ptpOff = s.ptpOff := rfl
@[simp] theorem State.setSlot_group (s : State) (k : Nat) (sl : Slot) : (s.setSlot k sl).group = s.group := rfl
@[simp] theorem State.setSlot_lostPieces (s : State) (k : Nat) (sl : Slot) : (s.setSlot k sl).lostPieces = s.lostPieces := rfl
@[simp] theorem State.setSlot_homes (s : State) (k : Nat) (sl : Slot) : (s.setSlot k sl).homes = s.homes := rfl
@[simp] theorem State.setSlot_rowLimit (s : State) (k : Nat) (sl : Slot) : (s.setSlot k sl).rowLimit = s.rowLimit := rfl
@[simp] theorem State.setSlot_sdicts (s : State) (k : Nat) (sl : Slot) : (s.setSlot k sl).sdicts = s.sdicts := rfl
@[simp] theorem State.setSlot_netOut (s : State) (k : Nat) (sl : Slot) : (s.setSlot k sl).netOut = s.netOut := rfl
@[simp] theorem State.setSlot_netIn (s : State) (k : Nat) (sl : Slot) : (s.setSlot k sl).netIn = s.netIn := rfl

/-! ### modSlot -/
@[simp] theorem State.modSlot_cycle (s : State) (k : Nat) (f : Slot → Slot) : (s.modSlot k f).cycle = s.cycle := rfl
@[simp] theorem State.modSlot_cores (s : State) (k : Nat) (f : Slot → Slot) : (s.modSlot k f).cores = s.cores := rfl
@[simp] theorem State.modSlot_phase (s : State) (k : Nat) (f : Slot → Slot) : (s.modSlot k f).phase = s.phase := rfl
@[simp] theorem State.modSlot_plan (s : State) (k : Nat) (f : Slot → Slot) : (s.modSlot k f).plan = s.plan := rfl
@[simp] theorem State.modSlot_agenda (s : State) (k : Nat) (f : Slot → Slot) : (s.modSlot k f).agenda = s.agenda := rfl
@[simp] theorem State.modSlot_beat (s : State) (k : Nat) (f : Slot → Slot) : (s.modSlot k f).beat = s.beat := rfl
@[simp] theorem State.modSlot_free (s : State) (k : Nat) (f : Slot → Slot) : (s.modSlot k f).free = s.free := rfl
@[simp] theorem State.modSlot_coreTab (s : State) (k : Nat) (f : Slot → Slot) : (s.modSlot k f).coreTab = s.coreTab := rfl
@[simp] theorem State.modSlot_clusters (s : State) (k : Nat) (f : Slot → Slot) : (s.modSlot k f).clusters = s.clusters := rfl
@[simp] theorem State.modSlot_chans (s : State) (k : Nat) (f : Slot → Slot) : (s.modSlot k f).chans = s.chans := rfl
@[simp] theorem State.modSlot_mem (s : State) (k : Nat) (f : Slot → Slot) : (s.modSlot k f).mem = s.mem := rfl
@[simp] theorem State.modSlot_empty (s : State) (k : Nat) (f : Slot → Slot) : (s.modSlot k f).empty = s.empty := rfl
@[simp] theorem State.modSlot_poison (s : State) (k : Nat) (f : Slot → Slot) : (s.modSlot k f).poison = s.poison := rfl
@[simp] theorem State.modSlot_badPar (s : State) (k : Nat) (f : Slot → Slot) : (s.modSlot k f).badPar = s.badPar := rfl
@[simp] theorem State.modSlot_flips (s : State) (k : Nat) (f : Slot → Slot) : (s.modSlot k f).flips = s.flips := rfl
@[simp] theorem State.modSlot_teams (s : State) (k : Nat) (f : Slot → Slot) : (s.modSlot k f).teams = s.teams := rfl
@[simp] theorem State.modSlot_nextSeq (s : State) (k : Nat) (f : Slot → Slot) : (s.modSlot k f).nextSeq = s.nextSeq := rfl
@[simp] theorem State.modSlot_ended (s : State) (k : Nat) (f : Slot → Slot) : (s.modSlot k f).ended = s.ended := rfl
@[simp] theorem State.modSlot_working (s : State) (k : Nat) (f : Slot → Slot) : (s.modSlot k f).working = s.working := rfl
@[simp] theorem State.modSlot_irqs (s : State) (k : Nat) (f : Slot → Slot) : (s.modSlot k f).irqs = s.irqs := rfl
@[simp] theorem State.modSlot_dmap (s : State) (k : Nat) (f : Slot → Slot) : (s.modSlot k f).dmap = s.dmap := rfl
@[simp] theorem State.modSlot_ownPkg (s : State) (k : Nat) (f : Slot → Slot) : (s.modSlot k f).ownPkg = s.ownPkg := rfl
@[simp] theorem State.modSlot_dieOk (s : State) (k : Nat) (f : Slot → Slot) : (s.modSlot k f).dieOk = s.dieOk := rfl
@[simp] theorem State.modSlot_booted (s : State) (k : Nat) (f : Slot → Slot) : (s.modSlot k f).booted = s.booted := rfl
@[simp] theorem State.modSlot_hubA (s : State) (k : Nat) (f : Slot → Slot) : (s.modSlot k f).hubA = s.hubA := rfl
@[simp] theorem State.modSlot_hubB (s : State) (k : Nat) (f : Slot → Slot) : (s.modSlot k f).hubB = s.hubB := rfl
@[simp] theorem State.modSlot_hostHub (s : State) (k : Nat) (f : Slot → Slot) : (s.modSlot k f).hostHub = s.hostHub := rfl
@[simp] theorem State.modSlot_misroute (s : State) (k : Nat) (f : Slot → Slot) : (s.modSlot k f).misroute = s.misroute := rfl
@[simp] theorem State.modSlot_ptpBase (s : State) (k : Nat) (f : Slot → Slot) : (s.modSlot k f).ptpBase = s.ptpBase := rfl
@[simp] theorem State.modSlot_tight (s : State) (k : Nat) (f : Slot → Slot) : (s.modSlot k f).tight = s.tight := rfl
@[simp] theorem State.modSlot_holdDispatch (s : State) (k : Nat) (f : Slot → Slot) : (s.modSlot k f).holdDispatch = s.holdDispatch := rfl
@[simp] theorem State.modSlot_alarms (s : State) (k : Nat) (f : Slot → Slot) : (s.modSlot k f).alarms = s.alarms := rfl
@[simp] theorem State.modSlot_stopped (s : State) (k : Nat) (f : Slot → Slot) : (s.modSlot k f).stopped = s.stopped := rfl
@[simp] theorem State.modSlot_amap (s : State) (k : Nat) (f : Slot → Slot) : (s.modSlot k f).amap = s.amap := rfl
@[simp] theorem State.modSlot_remap (s : State) (k : Nat) (f : Slot → Slot) : (s.modSlot k f).remap = s.remap := rfl
@[simp] theorem State.modSlot_noticeSeq (s : State) (k : Nat) (f : Slot → Slot) : (s.modSlot k f).noticeSeq = s.noticeSeq := rfl
@[simp] theorem State.modSlot_noticeBase (s : State) (k : Nat) (f : Slot → Slot) : (s.modSlot k f).noticeBase = s.noticeBase := rfl
@[simp] theorem State.modSlot_hostPage (s : State) (k : Nat) (f : Slot → Slot) : (s.modSlot k f).hostPage = s.hostPage := rfl
@[simp] theorem State.modSlot_traceBase (s : State) (k : Nat) (f : Slot → Slot) : (s.modSlot k f).traceBase = s.traceBase := rfl
@[simp] theorem State.modSlot_traceIdx (s : State) (k : Nat) (f : Slot → Slot) : (s.modSlot k f).traceIdx = s.traceIdx := rfl
@[simp] theorem State.modSlot_reserveBase (s : State) (k : Nat) (f : Slot → Slot) : (s.modSlot k f).reserveBase = s.reserveBase := rfl
@[simp] theorem State.modSlot_reserveSize (s : State) (k : Nat) (f : Slot → Slot) : (s.modSlot k f).reserveSize = s.reserveSize := rfl
@[simp] theorem State.modSlot_stewardA (s : State) (k : Nat) (f : Slot → Slot) : (s.modSlot k f).stewardA = s.stewardA := rfl
@[simp] theorem State.modSlot_stewardB (s : State) (k : Nat) (f : Slot → Slot) : (s.modSlot k f).stewardB = s.stewardB := rfl
@[simp] theorem State.modSlot_standing (s : State) (k : Nat) (f : Slot → Slot) : (s.modSlot k f).standing = s.standing := rfl
@[simp] theorem State.modSlot_unitLog (s : State) (k : Nat) (f : Slot → Slot) : (s.modSlot k f).unitLog = s.unitLog := rfl
@[simp] theorem State.modSlot_links (s : State) (k : Nat) (f : Slot → Slot) : (s.modSlot k f).links = s.links := rfl
@[simp] theorem State.modSlot_h2dStops (s : State) (k : Nat) (f : Slot → Slot) : (s.modSlot k f).h2dStops = s.h2dStops := rfl
@[simp] theorem State.modSlot_h2dHalt (s : State) (k : Nat) (f : Slot → Slot) : (s.modSlot k f).h2dHalt = s.h2dHalt := rfl
@[simp] theorem State.modSlot_epoch (s : State) (k : Nat) (f : Slot → Slot) : (s.modSlot k f).epoch = s.epoch := rfl
@[simp] theorem State.modSlot_bootCount (s : State) (k : Nat) (f : Slot → Slot) : (s.modSlot k f).bootCount = s.bootCount := rfl
@[simp] theorem State.modSlot_dicts (s : State) (k : Nat) (f : Slot → Slot) : (s.modSlot k f).dicts = s.dicts := rfl
@[simp] theorem State.modSlot_remStores (s : State) (k : Nat) (f : Slot → Slot) : (s.modSlot k f).remStores = s.remStores := rfl
@[simp] theorem State.modSlot_outbox (s : State) (k : Nat) (f : Slot → Slot) : (s.modSlot k f).outbox = s.outbox := rfl
@[simp] theorem State.modSlot_lost (s : State) (k : Nat) (f : Slot → Slot) : (s.modSlot k f).lost = s.lost := rfl
@[simp] theorem State.modSlot_tested (s : State) (k : Nat) (f : Slot → Slot) : (s.modSlot k f).tested = s.tested := rfl
@[simp] theorem State.modSlot_kernelOk (s : State) (k : Nat) (f : Slot → Slot) : (s.modSlot k f).kernelOk = s.kernelOk := rfl
@[simp] theorem State.modSlot_images (s : State) (k : Nat) (f : Slot → Slot) : (s.modSlot k f).images = s.images := rfl
@[simp] theorem State.modSlot_ptpOff (s : State) (k : Nat) (f : Slot → Slot) : (s.modSlot k f).ptpOff = s.ptpOff := rfl
@[simp] theorem State.modSlot_group (s : State) (k : Nat) (f : Slot → Slot) : (s.modSlot k f).group = s.group := rfl
@[simp] theorem State.modSlot_lostPieces (s : State) (k : Nat) (f : Slot → Slot) : (s.modSlot k f).lostPieces = s.lostPieces := rfl
@[simp] theorem State.modSlot_homes (s : State) (k : Nat) (f : Slot → Slot) : (s.modSlot k f).homes = s.homes := rfl
@[simp] theorem State.modSlot_rowLimit (s : State) (k : Nat) (f : Slot → Slot) : (s.modSlot k f).rowLimit = s.rowLimit := rfl
@[simp] theorem State.modSlot_sdicts (s : State) (k : Nat) (f : Slot → Slot) : (s.modSlot k f).sdicts = s.sdicts := rfl
@[simp] theorem State.modSlot_netOut (s : State) (k : Nat) (f : Slot → Slot) : (s.modSlot k f).netOut = s.netOut := rfl
@[simp] theorem State.modSlot_netIn (s : State) (k : Nat) (f : Slot → Slot) : (s.modSlot k f).netIn = s.netIn := rfl

/-! ### upd -/
@[simp] theorem State.upd_cycle (s : State) (f : Slot → Slot) : (s.upd f).cycle = s.cycle := rfl
@[simp] theorem State.upd_cores (s : State) (f : Slot → Slot) : (s.upd f).cores = s.cores := rfl
@[simp] theorem State.upd_phase (s : State) (f : Slot → Slot) : (s.upd f).phase = s.phase := rfl
@[simp] theorem State.upd_plan (s : State) (f : Slot → Slot) : (s.upd f).plan = s.plan := rfl
@[simp] theorem State.upd_agenda (s : State) (f : Slot → Slot) : (s.upd f).agenda = s.agenda := rfl
@[simp] theorem State.upd_beat (s : State) (f : Slot → Slot) : (s.upd f).beat = s.beat := rfl
@[simp] theorem State.upd_free (s : State) (f : Slot → Slot) : (s.upd f).free = s.free := rfl
@[simp] theorem State.upd_coreTab (s : State) (f : Slot → Slot) : (s.upd f).coreTab = s.coreTab := rfl
@[simp] theorem State.upd_clusters (s : State) (f : Slot → Slot) : (s.upd f).clusters = s.clusters := rfl
@[simp] theorem State.upd_chans (s : State) (f : Slot → Slot) : (s.upd f).chans = s.chans := rfl
@[simp] theorem State.upd_mem (s : State) (f : Slot → Slot) : (s.upd f).mem = s.mem := rfl
@[simp] theorem State.upd_empty (s : State) (f : Slot → Slot) : (s.upd f).empty = s.empty := rfl
@[simp] theorem State.upd_poison (s : State) (f : Slot → Slot) : (s.upd f).poison = s.poison := rfl
@[simp] theorem State.upd_badPar (s : State) (f : Slot → Slot) : (s.upd f).badPar = s.badPar := rfl
@[simp] theorem State.upd_flips (s : State) (f : Slot → Slot) : (s.upd f).flips = s.flips := rfl
@[simp] theorem State.upd_teams (s : State) (f : Slot → Slot) : (s.upd f).teams = s.teams := rfl
@[simp] theorem State.upd_nextSeq (s : State) (f : Slot → Slot) : (s.upd f).nextSeq = s.nextSeq := rfl
@[simp] theorem State.upd_ended (s : State) (f : Slot → Slot) : (s.upd f).ended = s.ended := rfl
@[simp] theorem State.upd_working (s : State) (f : Slot → Slot) : (s.upd f).working = s.working := rfl
@[simp] theorem State.upd_irqs (s : State) (f : Slot → Slot) : (s.upd f).irqs = s.irqs := rfl
@[simp] theorem State.upd_dmap (s : State) (f : Slot → Slot) : (s.upd f).dmap = s.dmap := rfl
@[simp] theorem State.upd_ownPkg (s : State) (f : Slot → Slot) : (s.upd f).ownPkg = s.ownPkg := rfl
@[simp] theorem State.upd_dieOk (s : State) (f : Slot → Slot) : (s.upd f).dieOk = s.dieOk := rfl
@[simp] theorem State.upd_booted (s : State) (f : Slot → Slot) : (s.upd f).booted = s.booted := rfl
@[simp] theorem State.upd_hubA (s : State) (f : Slot → Slot) : (s.upd f).hubA = s.hubA := rfl
@[simp] theorem State.upd_hubB (s : State) (f : Slot → Slot) : (s.upd f).hubB = s.hubB := rfl
@[simp] theorem State.upd_hostHub (s : State) (f : Slot → Slot) : (s.upd f).hostHub = s.hostHub := rfl
@[simp] theorem State.upd_misroute (s : State) (f : Slot → Slot) : (s.upd f).misroute = s.misroute := rfl
@[simp] theorem State.upd_ptpBase (s : State) (f : Slot → Slot) : (s.upd f).ptpBase = s.ptpBase := rfl
@[simp] theorem State.upd_tight (s : State) (f : Slot → Slot) : (s.upd f).tight = s.tight := rfl
@[simp] theorem State.upd_holdDispatch (s : State) (f : Slot → Slot) : (s.upd f).holdDispatch = s.holdDispatch := rfl
@[simp] theorem State.upd_alarms (s : State) (f : Slot → Slot) : (s.upd f).alarms = s.alarms := rfl
@[simp] theorem State.upd_stopped (s : State) (f : Slot → Slot) : (s.upd f).stopped = s.stopped := rfl
@[simp] theorem State.upd_amap (s : State) (f : Slot → Slot) : (s.upd f).amap = s.amap := rfl
@[simp] theorem State.upd_remap (s : State) (f : Slot → Slot) : (s.upd f).remap = s.remap := rfl
@[simp] theorem State.upd_noticeSeq (s : State) (f : Slot → Slot) : (s.upd f).noticeSeq = s.noticeSeq := rfl
@[simp] theorem State.upd_noticeBase (s : State) (f : Slot → Slot) : (s.upd f).noticeBase = s.noticeBase := rfl
@[simp] theorem State.upd_hostPage (s : State) (f : Slot → Slot) : (s.upd f).hostPage = s.hostPage := rfl
@[simp] theorem State.upd_traceBase (s : State) (f : Slot → Slot) : (s.upd f).traceBase = s.traceBase := rfl
@[simp] theorem State.upd_traceIdx (s : State) (f : Slot → Slot) : (s.upd f).traceIdx = s.traceIdx := rfl
@[simp] theorem State.upd_reserveBase (s : State) (f : Slot → Slot) : (s.upd f).reserveBase = s.reserveBase := rfl
@[simp] theorem State.upd_reserveSize (s : State) (f : Slot → Slot) : (s.upd f).reserveSize = s.reserveSize := rfl
@[simp] theorem State.upd_stewardA (s : State) (f : Slot → Slot) : (s.upd f).stewardA = s.stewardA := rfl
@[simp] theorem State.upd_stewardB (s : State) (f : Slot → Slot) : (s.upd f).stewardB = s.stewardB := rfl
@[simp] theorem State.upd_standing (s : State) (f : Slot → Slot) : (s.upd f).standing = s.standing := rfl
@[simp] theorem State.upd_unitLog (s : State) (f : Slot → Slot) : (s.upd f).unitLog = s.unitLog := rfl
@[simp] theorem State.upd_links (s : State) (f : Slot → Slot) : (s.upd f).links = s.links := rfl
@[simp] theorem State.upd_h2dStops (s : State) (f : Slot → Slot) : (s.upd f).h2dStops = s.h2dStops := rfl
@[simp] theorem State.upd_h2dHalt (s : State) (f : Slot → Slot) : (s.upd f).h2dHalt = s.h2dHalt := rfl
@[simp] theorem State.upd_epoch (s : State) (f : Slot → Slot) : (s.upd f).epoch = s.epoch := rfl
@[simp] theorem State.upd_bootCount (s : State) (f : Slot → Slot) : (s.upd f).bootCount = s.bootCount := rfl
@[simp] theorem State.upd_dicts (s : State) (f : Slot → Slot) : (s.upd f).dicts = s.dicts := rfl
@[simp] theorem State.upd_remStores (s : State) (f : Slot → Slot) : (s.upd f).remStores = s.remStores := rfl
@[simp] theorem State.upd_outbox (s : State) (f : Slot → Slot) : (s.upd f).outbox = s.outbox := rfl
@[simp] theorem State.upd_lost (s : State) (f : Slot → Slot) : (s.upd f).lost = s.lost := rfl
@[simp] theorem State.upd_tested (s : State) (f : Slot → Slot) : (s.upd f).tested = s.tested := rfl
@[simp] theorem State.upd_kernelOk (s : State) (f : Slot → Slot) : (s.upd f).kernelOk = s.kernelOk := rfl
@[simp] theorem State.upd_images (s : State) (f : Slot → Slot) : (s.upd f).images = s.images := rfl
@[simp] theorem State.upd_ptpOff (s : State) (f : Slot → Slot) : (s.upd f).ptpOff = s.ptpOff := rfl
@[simp] theorem State.upd_group (s : State) (f : Slot → Slot) : (s.upd f).group = s.group := rfl
@[simp] theorem State.upd_lostPieces (s : State) (f : Slot → Slot) : (s.upd f).lostPieces = s.lostPieces := rfl
@[simp] theorem State.upd_homes (s : State) (f : Slot → Slot) : (s.upd f).homes = s.homes := rfl
@[simp] theorem State.upd_rowLimit (s : State) (f : Slot → Slot) : (s.upd f).rowLimit = s.rowLimit := rfl
@[simp] theorem State.upd_sdicts (s : State) (f : Slot → Slot) : (s.upd f).sdicts = s.sdicts := rfl
@[simp] theorem State.upd_netOut (s : State) (f : Slot → Slot) : (s.upd f).netOut = s.netOut := rfl
@[simp] theorem State.upd_netIn (s : State) (f : Slot → Slot) : (s.upd f).netIn = s.netIn := rfl

/-! ### modCore -/
@[simp] theorem State.modCore_cycle (s : State) (k : Nat) (f : CoreSt → CoreSt) : (s.modCore k f).cycle = s.cycle := rfl
@[simp] theorem State.modCore_cores (s : State) (k : Nat) (f : CoreSt → CoreSt) : (s.modCore k f).cores = s.cores := rfl
@[simp] theorem State.modCore_phase (s : State) (k : Nat) (f : CoreSt → CoreSt) : (s.modCore k f).phase = s.phase := rfl
@[simp] theorem State.modCore_plan (s : State) (k : Nat) (f : CoreSt → CoreSt) : (s.modCore k f).plan = s.plan := rfl
@[simp] theorem State.modCore_agenda (s : State) (k : Nat) (f : CoreSt → CoreSt) : (s.modCore k f).agenda = s.agenda := rfl
@[simp] theorem State.modCore_beat (s : State) (k : Nat) (f : CoreSt → CoreSt) : (s.modCore k f).beat = s.beat := rfl
@[simp] theorem State.modCore_free (s : State) (k : Nat) (f : CoreSt → CoreSt) : (s.modCore k f).free = s.free := rfl
@[simp] theorem State.modCore_slots (s : State) (k : Nat) (f : CoreSt → CoreSt) : (s.modCore k f).slots = s.slots := rfl
@[simp] theorem State.modCore_clusters (s : State) (k : Nat) (f : CoreSt → CoreSt) : (s.modCore k f).clusters = s.clusters := rfl
@[simp] theorem State.modCore_chans (s : State) (k : Nat) (f : CoreSt → CoreSt) : (s.modCore k f).chans = s.chans := rfl
@[simp] theorem State.modCore_mem (s : State) (k : Nat) (f : CoreSt → CoreSt) : (s.modCore k f).mem = s.mem := rfl
@[simp] theorem State.modCore_empty (s : State) (k : Nat) (f : CoreSt → CoreSt) : (s.modCore k f).empty = s.empty := rfl
@[simp] theorem State.modCore_poison (s : State) (k : Nat) (f : CoreSt → CoreSt) : (s.modCore k f).poison = s.poison := rfl
@[simp] theorem State.modCore_badPar (s : State) (k : Nat) (f : CoreSt → CoreSt) : (s.modCore k f).badPar = s.badPar := rfl
@[simp] theorem State.modCore_flips (s : State) (k : Nat) (f : CoreSt → CoreSt) : (s.modCore k f).flips = s.flips := rfl
@[simp] theorem State.modCore_teams (s : State) (k : Nat) (f : CoreSt → CoreSt) : (s.modCore k f).teams = s.teams := rfl
@[simp] theorem State.modCore_nextSeq (s : State) (k : Nat) (f : CoreSt → CoreSt) : (s.modCore k f).nextSeq = s.nextSeq := rfl
@[simp] theorem State.modCore_ended (s : State) (k : Nat) (f : CoreSt → CoreSt) : (s.modCore k f).ended = s.ended := rfl
@[simp] theorem State.modCore_working (s : State) (k : Nat) (f : CoreSt → CoreSt) : (s.modCore k f).working = s.working := rfl
@[simp] theorem State.modCore_irqs (s : State) (k : Nat) (f : CoreSt → CoreSt) : (s.modCore k f).irqs = s.irqs := rfl
@[simp] theorem State.modCore_dmap (s : State) (k : Nat) (f : CoreSt → CoreSt) : (s.modCore k f).dmap = s.dmap := rfl
@[simp] theorem State.modCore_ownPkg (s : State) (k : Nat) (f : CoreSt → CoreSt) : (s.modCore k f).ownPkg = s.ownPkg := rfl
@[simp] theorem State.modCore_dieOk (s : State) (k : Nat) (f : CoreSt → CoreSt) : (s.modCore k f).dieOk = s.dieOk := rfl
@[simp] theorem State.modCore_booted (s : State) (k : Nat) (f : CoreSt → CoreSt) : (s.modCore k f).booted = s.booted := rfl
@[simp] theorem State.modCore_hubA (s : State) (k : Nat) (f : CoreSt → CoreSt) : (s.modCore k f).hubA = s.hubA := rfl
@[simp] theorem State.modCore_hubB (s : State) (k : Nat) (f : CoreSt → CoreSt) : (s.modCore k f).hubB = s.hubB := rfl
@[simp] theorem State.modCore_hostHub (s : State) (k : Nat) (f : CoreSt → CoreSt) : (s.modCore k f).hostHub = s.hostHub := rfl
@[simp] theorem State.modCore_misroute (s : State) (k : Nat) (f : CoreSt → CoreSt) : (s.modCore k f).misroute = s.misroute := rfl
@[simp] theorem State.modCore_ptpBase (s : State) (k : Nat) (f : CoreSt → CoreSt) : (s.modCore k f).ptpBase = s.ptpBase := rfl
@[simp] theorem State.modCore_tight (s : State) (k : Nat) (f : CoreSt → CoreSt) : (s.modCore k f).tight = s.tight := rfl
@[simp] theorem State.modCore_holdDispatch (s : State) (k : Nat) (f : CoreSt → CoreSt) : (s.modCore k f).holdDispatch = s.holdDispatch := rfl
@[simp] theorem State.modCore_alarms (s : State) (k : Nat) (f : CoreSt → CoreSt) : (s.modCore k f).alarms = s.alarms := rfl
@[simp] theorem State.modCore_stopped (s : State) (k : Nat) (f : CoreSt → CoreSt) : (s.modCore k f).stopped = s.stopped := rfl
@[simp] theorem State.modCore_amap (s : State) (k : Nat) (f : CoreSt → CoreSt) : (s.modCore k f).amap = s.amap := rfl
@[simp] theorem State.modCore_remap (s : State) (k : Nat) (f : CoreSt → CoreSt) : (s.modCore k f).remap = s.remap := rfl
@[simp] theorem State.modCore_noticeSeq (s : State) (k : Nat) (f : CoreSt → CoreSt) : (s.modCore k f).noticeSeq = s.noticeSeq := rfl
@[simp] theorem State.modCore_noticeBase (s : State) (k : Nat) (f : CoreSt → CoreSt) : (s.modCore k f).noticeBase = s.noticeBase := rfl
@[simp] theorem State.modCore_hostPage (s : State) (k : Nat) (f : CoreSt → CoreSt) : (s.modCore k f).hostPage = s.hostPage := rfl
@[simp] theorem State.modCore_traceBase (s : State) (k : Nat) (f : CoreSt → CoreSt) : (s.modCore k f).traceBase = s.traceBase := rfl
@[simp] theorem State.modCore_traceIdx (s : State) (k : Nat) (f : CoreSt → CoreSt) : (s.modCore k f).traceIdx = s.traceIdx := rfl
@[simp] theorem State.modCore_reserveBase (s : State) (k : Nat) (f : CoreSt → CoreSt) : (s.modCore k f).reserveBase = s.reserveBase := rfl
@[simp] theorem State.modCore_reserveSize (s : State) (k : Nat) (f : CoreSt → CoreSt) : (s.modCore k f).reserveSize = s.reserveSize := rfl
@[simp] theorem State.modCore_stewardA (s : State) (k : Nat) (f : CoreSt → CoreSt) : (s.modCore k f).stewardA = s.stewardA := rfl
@[simp] theorem State.modCore_stewardB (s : State) (k : Nat) (f : CoreSt → CoreSt) : (s.modCore k f).stewardB = s.stewardB := rfl
@[simp] theorem State.modCore_standing (s : State) (k : Nat) (f : CoreSt → CoreSt) : (s.modCore k f).standing = s.standing := rfl
@[simp] theorem State.modCore_unitLog (s : State) (k : Nat) (f : CoreSt → CoreSt) : (s.modCore k f).unitLog = s.unitLog := rfl
@[simp] theorem State.modCore_links (s : State) (k : Nat) (f : CoreSt → CoreSt) : (s.modCore k f).links = s.links := rfl
@[simp] theorem State.modCore_h2dStops (s : State) (k : Nat) (f : CoreSt → CoreSt) : (s.modCore k f).h2dStops = s.h2dStops := rfl
@[simp] theorem State.modCore_h2dHalt (s : State) (k : Nat) (f : CoreSt → CoreSt) : (s.modCore k f).h2dHalt = s.h2dHalt := rfl
@[simp] theorem State.modCore_epoch (s : State) (k : Nat) (f : CoreSt → CoreSt) : (s.modCore k f).epoch = s.epoch := rfl
@[simp] theorem State.modCore_bootCount (s : State) (k : Nat) (f : CoreSt → CoreSt) : (s.modCore k f).bootCount = s.bootCount := rfl
@[simp] theorem State.modCore_dicts (s : State) (k : Nat) (f : CoreSt → CoreSt) : (s.modCore k f).dicts = s.dicts := rfl
@[simp] theorem State.modCore_remStores (s : State) (k : Nat) (f : CoreSt → CoreSt) : (s.modCore k f).remStores = s.remStores := rfl
@[simp] theorem State.modCore_outbox (s : State) (k : Nat) (f : CoreSt → CoreSt) : (s.modCore k f).outbox = s.outbox := rfl
@[simp] theorem State.modCore_lost (s : State) (k : Nat) (f : CoreSt → CoreSt) : (s.modCore k f).lost = s.lost := rfl
@[simp] theorem State.modCore_tested (s : State) (k : Nat) (f : CoreSt → CoreSt) : (s.modCore k f).tested = s.tested := rfl
@[simp] theorem State.modCore_kernelOk (s : State) (k : Nat) (f : CoreSt → CoreSt) : (s.modCore k f).kernelOk = s.kernelOk := rfl
@[simp] theorem State.modCore_images (s : State) (k : Nat) (f : CoreSt → CoreSt) : (s.modCore k f).images = s.images := rfl
@[simp] theorem State.modCore_ptpOff (s : State) (k : Nat) (f : CoreSt → CoreSt) : (s.modCore k f).ptpOff = s.ptpOff := rfl
@[simp] theorem State.modCore_group (s : State) (k : Nat) (f : CoreSt → CoreSt) : (s.modCore k f).group = s.group := rfl
@[simp] theorem State.modCore_lostPieces (s : State) (k : Nat) (f : CoreSt → CoreSt) : (s.modCore k f).lostPieces = s.lostPieces := rfl
@[simp] theorem State.modCore_homes (s : State) (k : Nat) (f : CoreSt → CoreSt) : (s.modCore k f).homes = s.homes := rfl
@[simp] theorem State.modCore_rowLimit (s : State) (k : Nat) (f : CoreSt → CoreSt) : (s.modCore k f).rowLimit = s.rowLimit := rfl
@[simp] theorem State.modCore_sdicts (s : State) (k : Nat) (f : CoreSt → CoreSt) : (s.modCore k f).sdicts = s.sdicts := rfl
@[simp] theorem State.modCore_netOut (s : State) (k : Nat) (f : CoreSt → CoreSt) : (s.modCore k f).netOut = s.netOut := rfl
@[simp] theorem State.modCore_netIn (s : State) (k : Nat) (f : CoreSt → CoreSt) : (s.modCore k f).netIn = s.netIn := rfl

/-! ### modCluster -/
@[simp] theorem State.modCluster_cycle (s : State) (k : Nat) (f : ClusterSt → ClusterSt) : (s.modCluster k f).cycle = s.cycle := rfl
@[simp] theorem State.modCluster_cores (s : State) (k : Nat) (f : ClusterSt → ClusterSt) : (s.modCluster k f).cores = s.cores := rfl
@[simp] theorem State.modCluster_phase (s : State) (k : Nat) (f : ClusterSt → ClusterSt) : (s.modCluster k f).phase = s.phase := rfl
@[simp] theorem State.modCluster_plan (s : State) (k : Nat) (f : ClusterSt → ClusterSt) : (s.modCluster k f).plan = s.plan := rfl
@[simp] theorem State.modCluster_agenda (s : State) (k : Nat) (f : ClusterSt → ClusterSt) : (s.modCluster k f).agenda = s.agenda := rfl
@[simp] theorem State.modCluster_beat (s : State) (k : Nat) (f : ClusterSt → ClusterSt) : (s.modCluster k f).beat = s.beat := rfl
@[simp] theorem State.modCluster_free (s : State) (k : Nat) (f : ClusterSt → ClusterSt) : (s.modCluster k f).free = s.free := rfl
@[simp] theorem State.modCluster_slots (s : State) (k : Nat) (f : ClusterSt → ClusterSt) : (s.modCluster k f).slots = s.slots := rfl
@[simp] theorem State.modCluster_coreTab (s : State) (k : Nat) (f : ClusterSt → ClusterSt) : (s.modCluster k f).coreTab = s.coreTab := rfl
@[simp] theorem State.modCluster_chans (s : State) (k : Nat) (f : ClusterSt → ClusterSt) : (s.modCluster k f).chans = s.chans := rfl
@[simp] theorem State.modCluster_mem (s : State) (k : Nat) (f : ClusterSt → ClusterSt) : (s.modCluster k f).mem = s.mem := rfl
@[simp] theorem State.modCluster_empty (s : State) (k : Nat) (f : ClusterSt → ClusterSt) : (s.modCluster k f).empty = s.empty := rfl
@[simp] theorem State.modCluster_poison (s : State) (k : Nat) (f : ClusterSt → ClusterSt) : (s.modCluster k f).poison = s.poison := rfl
@[simp] theorem State.modCluster_badPar (s : State) (k : Nat) (f : ClusterSt → ClusterSt) : (s.modCluster k f).badPar = s.badPar := rfl
@[simp] theorem State.modCluster_flips (s : State) (k : Nat) (f : ClusterSt → ClusterSt) : (s.modCluster k f).flips = s.flips := rfl
@[simp] theorem State.modCluster_teams (s : State) (k : Nat) (f : ClusterSt → ClusterSt) : (s.modCluster k f).teams = s.teams := rfl
@[simp] theorem State.modCluster_nextSeq (s : State) (k : Nat) (f : ClusterSt → ClusterSt) : (s.modCluster k f).nextSeq = s.nextSeq := rfl
@[simp] theorem State.modCluster_ended (s : State) (k : Nat) (f : ClusterSt → ClusterSt) : (s.modCluster k f).ended = s.ended := rfl
@[simp] theorem State.modCluster_working (s : State) (k : Nat) (f : ClusterSt → ClusterSt) : (s.modCluster k f).working = s.working := rfl
@[simp] theorem State.modCluster_irqs (s : State) (k : Nat) (f : ClusterSt → ClusterSt) : (s.modCluster k f).irqs = s.irqs := rfl
@[simp] theorem State.modCluster_dmap (s : State) (k : Nat) (f : ClusterSt → ClusterSt) : (s.modCluster k f).dmap = s.dmap := rfl
@[simp] theorem State.modCluster_ownPkg (s : State) (k : Nat) (f : ClusterSt → ClusterSt) : (s.modCluster k f).ownPkg = s.ownPkg := rfl
@[simp] theorem State.modCluster_dieOk (s : State) (k : Nat) (f : ClusterSt → ClusterSt) : (s.modCluster k f).dieOk = s.dieOk := rfl
@[simp] theorem State.modCluster_booted (s : State) (k : Nat) (f : ClusterSt → ClusterSt) : (s.modCluster k f).booted = s.booted := rfl
@[simp] theorem State.modCluster_hubA (s : State) (k : Nat) (f : ClusterSt → ClusterSt) : (s.modCluster k f).hubA = s.hubA := rfl
@[simp] theorem State.modCluster_hubB (s : State) (k : Nat) (f : ClusterSt → ClusterSt) : (s.modCluster k f).hubB = s.hubB := rfl
@[simp] theorem State.modCluster_hostHub (s : State) (k : Nat) (f : ClusterSt → ClusterSt) : (s.modCluster k f).hostHub = s.hostHub := rfl
@[simp] theorem State.modCluster_misroute (s : State) (k : Nat) (f : ClusterSt → ClusterSt) : (s.modCluster k f).misroute = s.misroute := rfl
@[simp] theorem State.modCluster_ptpBase (s : State) (k : Nat) (f : ClusterSt → ClusterSt) : (s.modCluster k f).ptpBase = s.ptpBase := rfl
@[simp] theorem State.modCluster_tight (s : State) (k : Nat) (f : ClusterSt → ClusterSt) : (s.modCluster k f).tight = s.tight := rfl
@[simp] theorem State.modCluster_holdDispatch (s : State) (k : Nat) (f : ClusterSt → ClusterSt) : (s.modCluster k f).holdDispatch = s.holdDispatch := rfl
@[simp] theorem State.modCluster_alarms (s : State) (k : Nat) (f : ClusterSt → ClusterSt) : (s.modCluster k f).alarms = s.alarms := rfl
@[simp] theorem State.modCluster_stopped (s : State) (k : Nat) (f : ClusterSt → ClusterSt) : (s.modCluster k f).stopped = s.stopped := rfl
@[simp] theorem State.modCluster_amap (s : State) (k : Nat) (f : ClusterSt → ClusterSt) : (s.modCluster k f).amap = s.amap := rfl
@[simp] theorem State.modCluster_remap (s : State) (k : Nat) (f : ClusterSt → ClusterSt) : (s.modCluster k f).remap = s.remap := rfl
@[simp] theorem State.modCluster_noticeSeq (s : State) (k : Nat) (f : ClusterSt → ClusterSt) : (s.modCluster k f).noticeSeq = s.noticeSeq := rfl
@[simp] theorem State.modCluster_noticeBase (s : State) (k : Nat) (f : ClusterSt → ClusterSt) : (s.modCluster k f).noticeBase = s.noticeBase := rfl
@[simp] theorem State.modCluster_hostPage (s : State) (k : Nat) (f : ClusterSt → ClusterSt) : (s.modCluster k f).hostPage = s.hostPage := rfl
@[simp] theorem State.modCluster_traceBase (s : State) (k : Nat) (f : ClusterSt → ClusterSt) : (s.modCluster k f).traceBase = s.traceBase := rfl
@[simp] theorem State.modCluster_traceIdx (s : State) (k : Nat) (f : ClusterSt → ClusterSt) : (s.modCluster k f).traceIdx = s.traceIdx := rfl
@[simp] theorem State.modCluster_reserveBase (s : State) (k : Nat) (f : ClusterSt → ClusterSt) : (s.modCluster k f).reserveBase = s.reserveBase := rfl
@[simp] theorem State.modCluster_reserveSize (s : State) (k : Nat) (f : ClusterSt → ClusterSt) : (s.modCluster k f).reserveSize = s.reserveSize := rfl
@[simp] theorem State.modCluster_stewardA (s : State) (k : Nat) (f : ClusterSt → ClusterSt) : (s.modCluster k f).stewardA = s.stewardA := rfl
@[simp] theorem State.modCluster_stewardB (s : State) (k : Nat) (f : ClusterSt → ClusterSt) : (s.modCluster k f).stewardB = s.stewardB := rfl
@[simp] theorem State.modCluster_standing (s : State) (k : Nat) (f : ClusterSt → ClusterSt) : (s.modCluster k f).standing = s.standing := rfl
@[simp] theorem State.modCluster_unitLog (s : State) (k : Nat) (f : ClusterSt → ClusterSt) : (s.modCluster k f).unitLog = s.unitLog := rfl
@[simp] theorem State.modCluster_links (s : State) (k : Nat) (f : ClusterSt → ClusterSt) : (s.modCluster k f).links = s.links := rfl
@[simp] theorem State.modCluster_h2dStops (s : State) (k : Nat) (f : ClusterSt → ClusterSt) : (s.modCluster k f).h2dStops = s.h2dStops := rfl
@[simp] theorem State.modCluster_h2dHalt (s : State) (k : Nat) (f : ClusterSt → ClusterSt) : (s.modCluster k f).h2dHalt = s.h2dHalt := rfl
@[simp] theorem State.modCluster_epoch (s : State) (k : Nat) (f : ClusterSt → ClusterSt) : (s.modCluster k f).epoch = s.epoch := rfl
@[simp] theorem State.modCluster_bootCount (s : State) (k : Nat) (f : ClusterSt → ClusterSt) : (s.modCluster k f).bootCount = s.bootCount := rfl
@[simp] theorem State.modCluster_dicts (s : State) (k : Nat) (f : ClusterSt → ClusterSt) : (s.modCluster k f).dicts = s.dicts := rfl
@[simp] theorem State.modCluster_remStores (s : State) (k : Nat) (f : ClusterSt → ClusterSt) : (s.modCluster k f).remStores = s.remStores := rfl
@[simp] theorem State.modCluster_outbox (s : State) (k : Nat) (f : ClusterSt → ClusterSt) : (s.modCluster k f).outbox = s.outbox := rfl
@[simp] theorem State.modCluster_lost (s : State) (k : Nat) (f : ClusterSt → ClusterSt) : (s.modCluster k f).lost = s.lost := rfl
@[simp] theorem State.modCluster_tested (s : State) (k : Nat) (f : ClusterSt → ClusterSt) : (s.modCluster k f).tested = s.tested := rfl
@[simp] theorem State.modCluster_kernelOk (s : State) (k : Nat) (f : ClusterSt → ClusterSt) : (s.modCluster k f).kernelOk = s.kernelOk := rfl
@[simp] theorem State.modCluster_images (s : State) (k : Nat) (f : ClusterSt → ClusterSt) : (s.modCluster k f).images = s.images := rfl
@[simp] theorem State.modCluster_ptpOff (s : State) (k : Nat) (f : ClusterSt → ClusterSt) : (s.modCluster k f).ptpOff = s.ptpOff := rfl
@[simp] theorem State.modCluster_group (s : State) (k : Nat) (f : ClusterSt → ClusterSt) : (s.modCluster k f).group = s.group := rfl
@[simp] theorem State.modCluster_lostPieces (s : State) (k : Nat) (f : ClusterSt → ClusterSt) : (s.modCluster k f).lostPieces = s.lostPieces := rfl
@[simp] theorem State.modCluster_homes (s : State) (k : Nat) (f : ClusterSt → ClusterSt) : (s.modCluster k f).homes = s.homes := rfl
@[simp] theorem State.modCluster_rowLimit (s : State) (k : Nat) (f : ClusterSt → ClusterSt) : (s.modCluster k f).rowLimit = s.rowLimit := rfl
@[simp] theorem State.modCluster_sdicts (s : State) (k : Nat) (f : ClusterSt → ClusterSt) : (s.modCluster k f).sdicts = s.sdicts := rfl
@[simp] theorem State.modCluster_netOut (s : State) (k : Nat) (f : ClusterSt → ClusterSt) : (s.modCluster k f).netOut = s.netOut := rfl
@[simp] theorem State.modCluster_netIn (s : State) (k : Nat) (f : ClusterSt → ClusterSt) : (s.modCluster k f).netIn = s.netIn := rfl

/-! ### modChan -/
@[simp] theorem State.modChan_cycle (s : State) (k : Nat) (f : ChanSt → ChanSt) : (s.modChan k f).cycle = s.cycle := rfl
@[simp] theorem State.modChan_cores (s : State) (k : Nat) (f : ChanSt → ChanSt) : (s.modChan k f).cores = s.cores := rfl
@[simp] theorem State.modChan_phase (s : State) (k : Nat) (f : ChanSt → ChanSt) : (s.modChan k f).phase = s.phase := rfl
@[simp] theorem State.modChan_plan (s : State) (k : Nat) (f : ChanSt → ChanSt) : (s.modChan k f).plan = s.plan := rfl
@[simp] theorem State.modChan_agenda (s : State) (k : Nat) (f : ChanSt → ChanSt) : (s.modChan k f).agenda = s.agenda := rfl
@[simp] theorem State.modChan_beat (s : State) (k : Nat) (f : ChanSt → ChanSt) : (s.modChan k f).beat = s.beat := rfl
@[simp] theorem State.modChan_free (s : State) (k : Nat) (f : ChanSt → ChanSt) : (s.modChan k f).free = s.free := rfl
@[simp] theorem State.modChan_slots (s : State) (k : Nat) (f : ChanSt → ChanSt) : (s.modChan k f).slots = s.slots := rfl
@[simp] theorem State.modChan_coreTab (s : State) (k : Nat) (f : ChanSt → ChanSt) : (s.modChan k f).coreTab = s.coreTab := rfl
@[simp] theorem State.modChan_clusters (s : State) (k : Nat) (f : ChanSt → ChanSt) : (s.modChan k f).clusters = s.clusters := rfl
@[simp] theorem State.modChan_mem (s : State) (k : Nat) (f : ChanSt → ChanSt) : (s.modChan k f).mem = s.mem := rfl
@[simp] theorem State.modChan_empty (s : State) (k : Nat) (f : ChanSt → ChanSt) : (s.modChan k f).empty = s.empty := rfl
@[simp] theorem State.modChan_poison (s : State) (k : Nat) (f : ChanSt → ChanSt) : (s.modChan k f).poison = s.poison := rfl
@[simp] theorem State.modChan_badPar (s : State) (k : Nat) (f : ChanSt → ChanSt) : (s.modChan k f).badPar = s.badPar := rfl
@[simp] theorem State.modChan_flips (s : State) (k : Nat) (f : ChanSt → ChanSt) : (s.modChan k f).flips = s.flips := rfl
@[simp] theorem State.modChan_teams (s : State) (k : Nat) (f : ChanSt → ChanSt) : (s.modChan k f).teams = s.teams := rfl
@[simp] theorem State.modChan_nextSeq (s : State) (k : Nat) (f : ChanSt → ChanSt) : (s.modChan k f).nextSeq = s.nextSeq := rfl
@[simp] theorem State.modChan_ended (s : State) (k : Nat) (f : ChanSt → ChanSt) : (s.modChan k f).ended = s.ended := rfl
@[simp] theorem State.modChan_working (s : State) (k : Nat) (f : ChanSt → ChanSt) : (s.modChan k f).working = s.working := rfl
@[simp] theorem State.modChan_irqs (s : State) (k : Nat) (f : ChanSt → ChanSt) : (s.modChan k f).irqs = s.irqs := rfl
@[simp] theorem State.modChan_dmap (s : State) (k : Nat) (f : ChanSt → ChanSt) : (s.modChan k f).dmap = s.dmap := rfl
@[simp] theorem State.modChan_ownPkg (s : State) (k : Nat) (f : ChanSt → ChanSt) : (s.modChan k f).ownPkg = s.ownPkg := rfl
@[simp] theorem State.modChan_dieOk (s : State) (k : Nat) (f : ChanSt → ChanSt) : (s.modChan k f).dieOk = s.dieOk := rfl
@[simp] theorem State.modChan_booted (s : State) (k : Nat) (f : ChanSt → ChanSt) : (s.modChan k f).booted = s.booted := rfl
@[simp] theorem State.modChan_hubA (s : State) (k : Nat) (f : ChanSt → ChanSt) : (s.modChan k f).hubA = s.hubA := rfl
@[simp] theorem State.modChan_hubB (s : State) (k : Nat) (f : ChanSt → ChanSt) : (s.modChan k f).hubB = s.hubB := rfl
@[simp] theorem State.modChan_hostHub (s : State) (k : Nat) (f : ChanSt → ChanSt) : (s.modChan k f).hostHub = s.hostHub := rfl
@[simp] theorem State.modChan_misroute (s : State) (k : Nat) (f : ChanSt → ChanSt) : (s.modChan k f).misroute = s.misroute := rfl
@[simp] theorem State.modChan_ptpBase (s : State) (k : Nat) (f : ChanSt → ChanSt) : (s.modChan k f).ptpBase = s.ptpBase := rfl
@[simp] theorem State.modChan_tight (s : State) (k : Nat) (f : ChanSt → ChanSt) : (s.modChan k f).tight = s.tight := rfl
@[simp] theorem State.modChan_holdDispatch (s : State) (k : Nat) (f : ChanSt → ChanSt) : (s.modChan k f).holdDispatch = s.holdDispatch := rfl
@[simp] theorem State.modChan_alarms (s : State) (k : Nat) (f : ChanSt → ChanSt) : (s.modChan k f).alarms = s.alarms := rfl
@[simp] theorem State.modChan_stopped (s : State) (k : Nat) (f : ChanSt → ChanSt) : (s.modChan k f).stopped = s.stopped := rfl
@[simp] theorem State.modChan_amap (s : State) (k : Nat) (f : ChanSt → ChanSt) : (s.modChan k f).amap = s.amap := rfl
@[simp] theorem State.modChan_remap (s : State) (k : Nat) (f : ChanSt → ChanSt) : (s.modChan k f).remap = s.remap := rfl
@[simp] theorem State.modChan_noticeSeq (s : State) (k : Nat) (f : ChanSt → ChanSt) : (s.modChan k f).noticeSeq = s.noticeSeq := rfl
@[simp] theorem State.modChan_noticeBase (s : State) (k : Nat) (f : ChanSt → ChanSt) : (s.modChan k f).noticeBase = s.noticeBase := rfl
@[simp] theorem State.modChan_hostPage (s : State) (k : Nat) (f : ChanSt → ChanSt) : (s.modChan k f).hostPage = s.hostPage := rfl
@[simp] theorem State.modChan_traceBase (s : State) (k : Nat) (f : ChanSt → ChanSt) : (s.modChan k f).traceBase = s.traceBase := rfl
@[simp] theorem State.modChan_traceIdx (s : State) (k : Nat) (f : ChanSt → ChanSt) : (s.modChan k f).traceIdx = s.traceIdx := rfl
@[simp] theorem State.modChan_reserveBase (s : State) (k : Nat) (f : ChanSt → ChanSt) : (s.modChan k f).reserveBase = s.reserveBase := rfl
@[simp] theorem State.modChan_reserveSize (s : State) (k : Nat) (f : ChanSt → ChanSt) : (s.modChan k f).reserveSize = s.reserveSize := rfl
@[simp] theorem State.modChan_stewardA (s : State) (k : Nat) (f : ChanSt → ChanSt) : (s.modChan k f).stewardA = s.stewardA := rfl
@[simp] theorem State.modChan_stewardB (s : State) (k : Nat) (f : ChanSt → ChanSt) : (s.modChan k f).stewardB = s.stewardB := rfl
@[simp] theorem State.modChan_standing (s : State) (k : Nat) (f : ChanSt → ChanSt) : (s.modChan k f).standing = s.standing := rfl
@[simp] theorem State.modChan_unitLog (s : State) (k : Nat) (f : ChanSt → ChanSt) : (s.modChan k f).unitLog = s.unitLog := rfl
@[simp] theorem State.modChan_links (s : State) (k : Nat) (f : ChanSt → ChanSt) : (s.modChan k f).links = s.links := rfl
@[simp] theorem State.modChan_h2dStops (s : State) (k : Nat) (f : ChanSt → ChanSt) : (s.modChan k f).h2dStops = s.h2dStops := rfl
@[simp] theorem State.modChan_h2dHalt (s : State) (k : Nat) (f : ChanSt → ChanSt) : (s.modChan k f).h2dHalt = s.h2dHalt := rfl
@[simp] theorem State.modChan_epoch (s : State) (k : Nat) (f : ChanSt → ChanSt) : (s.modChan k f).epoch = s.epoch := rfl
@[simp] theorem State.modChan_bootCount (s : State) (k : Nat) (f : ChanSt → ChanSt) : (s.modChan k f).bootCount = s.bootCount := rfl
@[simp] theorem State.modChan_dicts (s : State) (k : Nat) (f : ChanSt → ChanSt) : (s.modChan k f).dicts = s.dicts := rfl
@[simp] theorem State.modChan_remStores (s : State) (k : Nat) (f : ChanSt → ChanSt) : (s.modChan k f).remStores = s.remStores := rfl
@[simp] theorem State.modChan_outbox (s : State) (k : Nat) (f : ChanSt → ChanSt) : (s.modChan k f).outbox = s.outbox := rfl
@[simp] theorem State.modChan_lost (s : State) (k : Nat) (f : ChanSt → ChanSt) : (s.modChan k f).lost = s.lost := rfl
@[simp] theorem State.modChan_tested (s : State) (k : Nat) (f : ChanSt → ChanSt) : (s.modChan k f).tested = s.tested := rfl
@[simp] theorem State.modChan_kernelOk (s : State) (k : Nat) (f : ChanSt → ChanSt) : (s.modChan k f).kernelOk = s.kernelOk := rfl
@[simp] theorem State.modChan_images (s : State) (k : Nat) (f : ChanSt → ChanSt) : (s.modChan k f).images = s.images := rfl
@[simp] theorem State.modChan_ptpOff (s : State) (k : Nat) (f : ChanSt → ChanSt) : (s.modChan k f).ptpOff = s.ptpOff := rfl
@[simp] theorem State.modChan_group (s : State) (k : Nat) (f : ChanSt → ChanSt) : (s.modChan k f).group = s.group := rfl
@[simp] theorem State.modChan_lostPieces (s : State) (k : Nat) (f : ChanSt → ChanSt) : (s.modChan k f).lostPieces = s.lostPieces := rfl
@[simp] theorem State.modChan_homes (s : State) (k : Nat) (f : ChanSt → ChanSt) : (s.modChan k f).homes = s.homes := rfl
@[simp] theorem State.modChan_rowLimit (s : State) (k : Nat) (f : ChanSt → ChanSt) : (s.modChan k f).rowLimit = s.rowLimit := rfl
@[simp] theorem State.modChan_sdicts (s : State) (k : Nat) (f : ChanSt → ChanSt) : (s.modChan k f).sdicts = s.sdicts := rfl
@[simp] theorem State.modChan_netOut (s : State) (k : Nat) (f : ChanSt → ChanSt) : (s.modChan k f).netOut = s.netOut := rfl
@[simp] theorem State.modChan_netIn (s : State) (k : Nat) (f : ChanSt → ChanSt) : (s.modChan k f).netIn = s.netIn := rfl

/-! ### post -/
@[simp] theorem State.post_cycle (s : State) (e : Event) : (s.post e).cycle = s.cycle := rfl
@[simp] theorem State.post_cores (s : State) (e : Event) : (s.post e).cores = s.cores := rfl
@[simp] theorem State.post_phase (s : State) (e : Event) : (s.post e).phase = s.phase := rfl
@[simp] theorem State.post_plan (s : State) (e : Event) : (s.post e).plan = s.plan := rfl
@[simp] theorem State.post_beat (s : State) (e : Event) : (s.post e).beat = s.beat := rfl
@[simp] theorem State.post_free (s : State) (e : Event) : (s.post e).free = s.free := rfl
@[simp] theorem State.post_slots (s : State) (e : Event) : (s.post e).slots = s.slots := rfl
@[simp] theorem State.post_coreTab (s : State) (e : Event) : (s.post e).coreTab = s.coreTab := rfl
@[simp] theorem State.post_clusters (s : State) (e : Event) : (s.post e).clusters = s.clusters := rfl
@[simp] theorem State.post_chans (s : State) (e : Event) : (s.post e).chans = s.chans := rfl
@[simp] theorem State.post_mem (s : State) (e : Event) : (s.post e).mem = s.mem := rfl
@[simp] theorem State.post_empty (s : State) (e : Event) : (s.post e).empty = s.empty := rfl
@[simp] theorem State.post_poison (s : State) (e : Event) : (s.post e).poison = s.poison := rfl
@[simp] theorem State.post_badPar (s : State) (e : Event) : (s.post e).badPar = s.badPar := rfl
@[simp] theorem State.post_flips (s : State) (e : Event) : (s.post e).flips = s.flips := rfl
@[simp] theorem State.post_teams (s : State) (e : Event) : (s.post e).teams = s.teams := rfl
@[simp] theorem State.post_nextSeq (s : State) (e : Event) : (s.post e).nextSeq = s.nextSeq := rfl
@[simp] theorem State.post_ended (s : State) (e : Event) : (s.post e).ended = s.ended := rfl
@[simp] theorem State.post_working (s : State) (e : Event) : (s.post e).working = s.working := rfl
@[simp] theorem State.post_irqs (s : State) (e : Event) : (s.post e).irqs = s.irqs := rfl
@[simp] theorem State.post_dmap (s : State) (e : Event) : (s.post e).dmap = s.dmap := rfl
@[simp] theorem State.post_ownPkg (s : State) (e : Event) : (s.post e).ownPkg = s.ownPkg := rfl
@[simp] theorem State.post_dieOk (s : State) (e : Event) : (s.post e).dieOk = s.dieOk := rfl
@[simp] theorem State.post_booted (s : State) (e : Event) : (s.post e).booted = s.booted := rfl
@[simp] theorem State.post_hubA (s : State) (e : Event) : (s.post e).hubA = s.hubA := rfl
@[simp] theorem State.post_hubB (s : State) (e : Event) : (s.post e).hubB = s.hubB := rfl
@[simp] theorem State.post_hostHub (s : State) (e : Event) : (s.post e).hostHub = s.hostHub := rfl
@[simp] theorem State.post_misroute (s : State) (e : Event) : (s.post e).misroute = s.misroute := rfl
@[simp] theorem State.post_ptpBase (s : State) (e : Event) : (s.post e).ptpBase = s.ptpBase := rfl
@[simp] theorem State.post_tight (s : State) (e : Event) : (s.post e).tight = s.tight := rfl
@[simp] theorem State.post_holdDispatch (s : State) (e : Event) : (s.post e).holdDispatch = s.holdDispatch := rfl
@[simp] theorem State.post_alarms (s : State) (e : Event) : (s.post e).alarms = s.alarms := rfl
@[simp] theorem State.post_stopped (s : State) (e : Event) : (s.post e).stopped = s.stopped := rfl
@[simp] theorem State.post_amap (s : State) (e : Event) : (s.post e).amap = s.amap := rfl
@[simp] theorem State.post_remap (s : State) (e : Event) : (s.post e).remap = s.remap := rfl
@[simp] theorem State.post_noticeSeq (s : State) (e : Event) : (s.post e).noticeSeq = s.noticeSeq := rfl
@[simp] theorem State.post_noticeBase (s : State) (e : Event) : (s.post e).noticeBase = s.noticeBase := rfl
@[simp] theorem State.post_hostPage (s : State) (e : Event) : (s.post e).hostPage = s.hostPage := rfl
@[simp] theorem State.post_traceBase (s : State) (e : Event) : (s.post e).traceBase = s.traceBase := rfl
@[simp] theorem State.post_traceIdx (s : State) (e : Event) : (s.post e).traceIdx = s.traceIdx := rfl
@[simp] theorem State.post_reserveBase (s : State) (e : Event) : (s.post e).reserveBase = s.reserveBase := rfl
@[simp] theorem State.post_reserveSize (s : State) (e : Event) : (s.post e).reserveSize = s.reserveSize := rfl
@[simp] theorem State.post_stewardA (s : State) (e : Event) : (s.post e).stewardA = s.stewardA := rfl
@[simp] theorem State.post_stewardB (s : State) (e : Event) : (s.post e).stewardB = s.stewardB := rfl
@[simp] theorem State.post_standing (s : State) (e : Event) : (s.post e).standing = s.standing := rfl
@[simp] theorem State.post_unitLog (s : State) (e : Event) : (s.post e).unitLog = s.unitLog := rfl
@[simp] theorem State.post_links (s : State) (e : Event) : (s.post e).links = s.links := rfl
@[simp] theorem State.post_h2dStops (s : State) (e : Event) : (s.post e).h2dStops = s.h2dStops := rfl
@[simp] theorem State.post_h2dHalt (s : State) (e : Event) : (s.post e).h2dHalt = s.h2dHalt := rfl
@[simp] theorem State.post_epoch (s : State) (e : Event) : (s.post e).epoch = s.epoch := rfl
@[simp] theorem State.post_bootCount (s : State) (e : Event) : (s.post e).bootCount = s.bootCount := rfl
@[simp] theorem State.post_dicts (s : State) (e : Event) : (s.post e).dicts = s.dicts := rfl
@[simp] theorem State.post_remStores (s : State) (e : Event) : (s.post e).remStores = s.remStores := rfl
@[simp] theorem State.post_outbox (s : State) (e : Event) : (s.post e).outbox = s.outbox := rfl
@[simp] theorem State.post_lost (s : State) (e : Event) : (s.post e).lost = s.lost := rfl
@[simp] theorem State.post_tested (s : State) (e : Event) : (s.post e).tested = s.tested := rfl
@[simp] theorem State.post_kernelOk (s : State) (e : Event) : (s.post e).kernelOk = s.kernelOk := rfl
@[simp] theorem State.post_images (s : State) (e : Event) : (s.post e).images = s.images := rfl
@[simp] theorem State.post_ptpOff (s : State) (e : Event) : (s.post e).ptpOff = s.ptpOff := rfl
@[simp] theorem State.post_group (s : State) (e : Event) : (s.post e).group = s.group := rfl
@[simp] theorem State.post_lostPieces (s : State) (e : Event) : (s.post e).lostPieces = s.lostPieces := rfl
@[simp] theorem State.post_homes (s : State) (e : Event) : (s.post e).homes = s.homes := rfl
@[simp] theorem State.post_rowLimit (s : State) (e : Event) : (s.post e).rowLimit = s.rowLimit := rfl
@[simp] theorem State.post_sdicts (s : State) (e : Event) : (s.post e).sdicts = s.sdicts := rfl
@[simp] theorem State.post_netOut (s : State) (e : Event) : (s.post e).netOut = s.netOut := rfl
@[simp] theorem State.post_netIn (s : State) (e : Event) : (s.post e).netIn = s.netIn := rfl

/-! ### send -/
@[simp] theorem State.send_cycle (s : State) (o : Out) : (s.send o).cycle = s.cycle := rfl
@[simp] theorem State.send_cores (s : State) (o : Out) : (s.send o).cores = s.cores := rfl
@[simp] theorem State.send_phase (s : State) (o : Out) : (s.send o).phase = s.phase := rfl
@[simp] theorem State.send_plan (s : State) (o : Out) : (s.send o).plan = s.plan := rfl
@[simp] theorem State.send_agenda (s : State) (o : Out) : (s.send o).agenda = s.agenda := rfl
@[simp] theorem State.send_beat (s : State) (o : Out) : (s.send o).beat = s.beat := rfl
@[simp] theorem State.send_free (s : State) (o : Out) : (s.send o).free = s.free := rfl
@[simp] theorem State.send_slots (s : State) (o : Out) : (s.send o).slots = s.slots := rfl
@[simp] theorem State.send_coreTab (s : State) (o : Out) : (s.send o).coreTab = s.coreTab := rfl
@[simp] theorem State.send_clusters (s : State) (o : Out) : (s.send o).clusters = s.clusters := rfl
@[simp] theorem State.send_chans (s : State) (o : Out) : (s.send o).chans = s.chans := rfl
@[simp] theorem State.send_mem (s : State) (o : Out) : (s.send o).mem = s.mem := rfl
@[simp] theorem State.send_empty (s : State) (o : Out) : (s.send o).empty = s.empty := rfl
@[simp] theorem State.send_poison (s : State) (o : Out) : (s.send o).poison = s.poison := rfl
@[simp] theorem State.send_badPar (s : State) (o : Out) : (s.send o).badPar = s.badPar := rfl
@[simp] theorem State.send_flips (s : State) (o : Out) : (s.send o).flips = s.flips := rfl
@[simp] theorem State.send_teams (s : State) (o : Out) : (s.send o).teams = s.teams := rfl
@[simp] theorem State.send_nextSeq (s : State) (o : Out) : (s.send o).nextSeq = s.nextSeq := rfl
@[simp] theorem State.send_ended (s : State) (o : Out) : (s.send o).ended = s.ended := rfl
@[simp] theorem State.send_working (s : State) (o : Out) : (s.send o).working = s.working := rfl
@[simp] theorem State.send_irqs (s : State) (o : Out) : (s.send o).irqs = s.irqs := rfl
@[simp] theorem State.send_dmap (s : State) (o : Out) : (s.send o).dmap = s.dmap := rfl
@[simp] theorem State.send_ownPkg (s : State) (o : Out) : (s.send o).ownPkg = s.ownPkg := rfl
@[simp] theorem State.send_dieOk (s : State) (o : Out) : (s.send o).dieOk = s.dieOk := rfl
@[simp] theorem State.send_booted (s : State) (o : Out) : (s.send o).booted = s.booted := rfl
@[simp] theorem State.send_hubA (s : State) (o : Out) : (s.send o).hubA = s.hubA := rfl
@[simp] theorem State.send_hubB (s : State) (o : Out) : (s.send o).hubB = s.hubB := rfl
@[simp] theorem State.send_hostHub (s : State) (o : Out) : (s.send o).hostHub = s.hostHub := rfl
@[simp] theorem State.send_misroute (s : State) (o : Out) : (s.send o).misroute = s.misroute := rfl
@[simp] theorem State.send_ptpBase (s : State) (o : Out) : (s.send o).ptpBase = s.ptpBase := rfl
@[simp] theorem State.send_tight (s : State) (o : Out) : (s.send o).tight = s.tight := rfl
@[simp] theorem State.send_holdDispatch (s : State) (o : Out) : (s.send o).holdDispatch = s.holdDispatch := rfl
@[simp] theorem State.send_alarms (s : State) (o : Out) : (s.send o).alarms = s.alarms := rfl
@[simp] theorem State.send_stopped (s : State) (o : Out) : (s.send o).stopped = s.stopped := rfl
@[simp] theorem State.send_amap (s : State) (o : Out) : (s.send o).amap = s.amap := rfl
@[simp] theorem State.send_remap (s : State) (o : Out) : (s.send o).remap = s.remap := rfl
@[simp] theorem State.send_noticeSeq (s : State) (o : Out) : (s.send o).noticeSeq = s.noticeSeq := rfl
@[simp] theorem State.send_noticeBase (s : State) (o : Out) : (s.send o).noticeBase = s.noticeBase := rfl
@[simp] theorem State.send_hostPage (s : State) (o : Out) : (s.send o).hostPage = s.hostPage := rfl
@[simp] theorem State.send_traceBase (s : State) (o : Out) : (s.send o).traceBase = s.traceBase := rfl
@[simp] theorem State.send_traceIdx (s : State) (o : Out) : (s.send o).traceIdx = s.traceIdx := rfl
@[simp] theorem State.send_reserveBase (s : State) (o : Out) : (s.send o).reserveBase = s.reserveBase := rfl
@[simp] theorem State.send_reserveSize (s : State) (o : Out) : (s.send o).reserveSize = s.reserveSize := rfl
@[simp] theorem State.send_stewardA (s : State) (o : Out) : (s.send o).stewardA = s.stewardA := rfl
@[simp] theorem State.send_stewardB (s : State) (o : Out) : (s.send o).stewardB = s.stewardB := rfl
@[simp] theorem State.send_standing (s : State) (o : Out) : (s.send o).standing = s.standing := rfl
@[simp] theorem State.send_unitLog (s : State) (o : Out) : (s.send o).unitLog = s.unitLog := rfl
@[simp] theorem State.send_links (s : State) (o : Out) : (s.send o).links = s.links := rfl
@[simp] theorem State.send_h2dStops (s : State) (o : Out) : (s.send o).h2dStops = s.h2dStops := rfl
@[simp] theorem State.send_h2dHalt (s : State) (o : Out) : (s.send o).h2dHalt = s.h2dHalt := rfl
@[simp] theorem State.send_epoch (s : State) (o : Out) : (s.send o).epoch = s.epoch := rfl
@[simp] theorem State.send_bootCount (s : State) (o : Out) : (s.send o).bootCount = s.bootCount := rfl
@[simp] theorem State.send_dicts (s : State) (o : Out) : (s.send o).dicts = s.dicts := rfl
@[simp] theorem State.send_remStores (s : State) (o : Out) : (s.send o).remStores = s.remStores := rfl
@[simp] theorem State.send_lost (s : State) (o : Out) : (s.send o).lost = s.lost := rfl
@[simp] theorem State.send_tested (s : State) (o : Out) : (s.send o).tested = s.tested := rfl
@[simp] theorem State.send_kernelOk (s : State) (o : Out) : (s.send o).kernelOk = s.kernelOk := rfl
@[simp] theorem State.send_images (s : State) (o : Out) : (s.send o).images = s.images := rfl
@[simp] theorem State.send_ptpOff (s : State) (o : Out) : (s.send o).ptpOff = s.ptpOff := rfl
@[simp] theorem State.send_group (s : State) (o : Out) : (s.send o).group = s.group := rfl
@[simp] theorem State.send_lostPieces (s : State) (o : Out) : (s.send o).lostPieces = s.lostPieces := rfl
@[simp] theorem State.send_homes (s : State) (o : Out) : (s.send o).homes = s.homes := rfl
@[simp] theorem State.send_rowLimit (s : State) (o : Out) : (s.send o).rowLimit = s.rowLimit := rfl
@[simp] theorem State.send_sdicts (s : State) (o : Out) : (s.send o).sdicts = s.sdicts := rfl
@[simp] theorem State.send_netOut (s : State) (o : Out) : (s.send o).netOut = s.netOut := rfl
@[simp] theorem State.send_netIn (s : State) (o : Out) : (s.send o).netIn = s.netIn := rfl

/-! ### wr -/
@[simp] theorem State.wr_cycle (s : State) (a n v : Nat) : (s.wr a n v).cycle = s.cycle := rfl
@[simp] theorem State.wr_cores (s : State) (a n v : Nat) : (s.wr a n v).cores = s.cores := rfl
@[simp] theorem State.wr_phase (s : State) (a n v : Nat) : (s.wr a n v).phase = s.phase := rfl
@[simp] theorem State.wr_plan (s : State) (a n v : Nat) : (s.wr a n v).plan = s.plan := rfl
@[simp] theorem State.wr_agenda (s : State) (a n v : Nat) : (s.wr a n v).agenda = s.agenda := rfl
@[simp] theorem State.wr_beat (s : State) (a n v : Nat) : (s.wr a n v).beat = s.beat := rfl
@[simp] theorem State.wr_free (s : State) (a n v : Nat) : (s.wr a n v).free = s.free := rfl
@[simp] theorem State.wr_slots (s : State) (a n v : Nat) : (s.wr a n v).slots = s.slots := rfl
@[simp] theorem State.wr_coreTab (s : State) (a n v : Nat) : (s.wr a n v).coreTab = s.coreTab := rfl
@[simp] theorem State.wr_clusters (s : State) (a n v : Nat) : (s.wr a n v).clusters = s.clusters := rfl
@[simp] theorem State.wr_chans (s : State) (a n v : Nat) : (s.wr a n v).chans = s.chans := rfl
@[simp] theorem State.wr_empty (s : State) (a n v : Nat) : (s.wr a n v).empty = s.empty := rfl
@[simp] theorem State.wr_poison (s : State) (a n v : Nat) : (s.wr a n v).poison = s.poison := rfl
@[simp] theorem State.wr_badPar (s : State) (a n v : Nat) : (s.wr a n v).badPar = s.badPar := rfl
@[simp] theorem State.wr_flips (s : State) (a n v : Nat) : (s.wr a n v).flips = s.flips := rfl
@[simp] theorem State.wr_teams (s : State) (a n v : Nat) : (s.wr a n v).teams = s.teams := rfl
@[simp] theorem State.wr_nextSeq (s : State) (a n v : Nat) : (s.wr a n v).nextSeq = s.nextSeq := rfl
@[simp] theorem State.wr_ended (s : State) (a n v : Nat) : (s.wr a n v).ended = s.ended := rfl
@[simp] theorem State.wr_working (s : State) (a n v : Nat) : (s.wr a n v).working = s.working := rfl
@[simp] theorem State.wr_irqs (s : State) (a n v : Nat) : (s.wr a n v).irqs = s.irqs := rfl
@[simp] theorem State.wr_dmap (s : State) (a n v : Nat) : (s.wr a n v).dmap = s.dmap := rfl
@[simp] theorem State.wr_ownPkg (s : State) (a n v : Nat) : (s.wr a n v).ownPkg = s.ownPkg := rfl
@[simp] theorem State.wr_dieOk (s : State) (a n v : Nat) : (s.wr a n v).dieOk = s.dieOk := rfl
@[simp] theorem State.wr_booted (s : State) (a n v : Nat) : (s.wr a n v).booted = s.booted := rfl
@[simp] theorem State.wr_hubA (s : State) (a n v : Nat) : (s.wr a n v).hubA = s.hubA := rfl
@[simp] theorem State.wr_hubB (s : State) (a n v : Nat) : (s.wr a n v).hubB = s.hubB := rfl
@[simp] theorem State.wr_hostHub (s : State) (a n v : Nat) : (s.wr a n v).hostHub = s.hostHub := rfl
@[simp] theorem State.wr_misroute (s : State) (a n v : Nat) : (s.wr a n v).misroute = s.misroute := rfl
@[simp] theorem State.wr_ptpBase (s : State) (a n v : Nat) : (s.wr a n v).ptpBase = s.ptpBase := rfl
@[simp] theorem State.wr_tight (s : State) (a n v : Nat) : (s.wr a n v).tight = s.tight := rfl
@[simp] theorem State.wr_holdDispatch (s : State) (a n v : Nat) : (s.wr a n v).holdDispatch = s.holdDispatch := rfl
@[simp] theorem State.wr_alarms (s : State) (a n v : Nat) : (s.wr a n v).alarms = s.alarms := rfl
@[simp] theorem State.wr_stopped (s : State) (a n v : Nat) : (s.wr a n v).stopped = s.stopped := rfl
@[simp] theorem State.wr_amap (s : State) (a n v : Nat) : (s.wr a n v).amap = s.amap := rfl
@[simp] theorem State.wr_remap (s : State) (a n v : Nat) : (s.wr a n v).remap = s.remap := rfl
@[simp] theorem State.wr_noticeSeq (s : State) (a n v : Nat) : (s.wr a n v).noticeSeq = s.noticeSeq := rfl
@[simp] theorem State.wr_noticeBase (s : State) (a n v : Nat) : (s.wr a n v).noticeBase = s.noticeBase := rfl
@[simp] theorem State.wr_hostPage (s : State) (a n v : Nat) : (s.wr a n v).hostPage = s.hostPage := rfl
@[simp] theorem State.wr_traceBase (s : State) (a n v : Nat) : (s.wr a n v).traceBase = s.traceBase := rfl
@[simp] theorem State.wr_traceIdx (s : State) (a n v : Nat) : (s.wr a n v).traceIdx = s.traceIdx := rfl
@[simp] theorem State.wr_reserveBase (s : State) (a n v : Nat) : (s.wr a n v).reserveBase = s.reserveBase := rfl
@[simp] theorem State.wr_reserveSize (s : State) (a n v : Nat) : (s.wr a n v).reserveSize = s.reserveSize := rfl
@[simp] theorem State.wr_stewardA (s : State) (a n v : Nat) : (s.wr a n v).stewardA = s.stewardA := rfl
@[simp] theorem State.wr_stewardB (s : State) (a n v : Nat) : (s.wr a n v).stewardB = s.stewardB := rfl
@[simp] theorem State.wr_standing (s : State) (a n v : Nat) : (s.wr a n v).standing = s.standing := rfl
@[simp] theorem State.wr_unitLog (s : State) (a n v : Nat) : (s.wr a n v).unitLog = s.unitLog := rfl
@[simp] theorem State.wr_links (s : State) (a n v : Nat) : (s.wr a n v).links = s.links := rfl
@[simp] theorem State.wr_h2dStops (s : State) (a n v : Nat) : (s.wr a n v).h2dStops = s.h2dStops := rfl
@[simp] theorem State.wr_h2dHalt (s : State) (a n v : Nat) : (s.wr a n v).h2dHalt = s.h2dHalt := rfl
@[simp] theorem State.wr_epoch (s : State) (a n v : Nat) : (s.wr a n v).epoch = s.epoch := rfl
@[simp] theorem State.wr_bootCount (s : State) (a n v : Nat) : (s.wr a n v).bootCount = s.bootCount := rfl
@[simp] theorem State.wr_dicts (s : State) (a n v : Nat) : (s.wr a n v).dicts = s.dicts := rfl
@[simp] theorem State.wr_remStores (s : State) (a n v : Nat) : (s.wr a n v).remStores = s.remStores := rfl
@[simp] theorem State.wr_outbox (s : State) (a n v : Nat) : (s.wr a n v).outbox = s.outbox := rfl
@[simp] theorem State.wr_lost (s : State) (a n v : Nat) : (s.wr a n v).lost = s.lost := rfl
@[simp] theorem State.wr_tested (s : State) (a n v : Nat) : (s.wr a n v).tested = s.tested := rfl
@[simp] theorem State.wr_kernelOk (s : State) (a n v : Nat) : (s.wr a n v).kernelOk = s.kernelOk := rfl
@[simp] theorem State.wr_images (s : State) (a n v : Nat) : (s.wr a n v).images = s.images := rfl
@[simp] theorem State.wr_ptpOff (s : State) (a n v : Nat) : (s.wr a n v).ptpOff = s.ptpOff := rfl
@[simp] theorem State.wr_group (s : State) (a n v : Nat) : (s.wr a n v).group = s.group := rfl
@[simp] theorem State.wr_lostPieces (s : State) (a n v : Nat) : (s.wr a n v).lostPieces = s.lostPieces := rfl
@[simp] theorem State.wr_homes (s : State) (a n v : Nat) : (s.wr a n v).homes = s.homes := rfl
@[simp] theorem State.wr_rowLimit (s : State) (a n v : Nat) : (s.wr a n v).rowLimit = s.rowLimit := rfl
@[simp] theorem State.wr_sdicts (s : State) (a n v : Nat) : (s.wr a n v).sdicts = s.sdicts := rfl
@[simp] theorem State.wr_netOut (s : State) (a n v : Nat) : (s.wr a n v).netOut = s.netOut := rfl
@[simp] theorem State.wr_netIn (s : State) (a n v : Nat) : (s.wr a n v).netIn = s.netIn := rfl

/-! ### setFull -/
@[simp] theorem State.setFull_cycle (s : State) (w : Nat) (b : Bool) : (s.setFull w b).cycle = s.cycle := rfl
@[simp] theorem State.setFull_cores (s : State) (w : Nat) (b : Bool) : (s.setFull w b).cores = s.cores := rfl
@[simp] theorem State.setFull_phase (s : State) (w : Nat) (b : Bool) : (s.setFull w b).phase = s.phase := rfl
@[simp] theorem State.setFull_plan (s : State) (w : Nat) (b : Bool) : (s.setFull w b).plan = s.plan := rfl
@[simp] theorem State.setFull_agenda (s : State) (w : Nat) (b : Bool) : (s.setFull w b).agenda = s.agenda := rfl
@[simp] theorem State.setFull_beat (s : State) (w : Nat) (b : Bool) : (s.setFull w b).beat = s.beat := rfl
@[simp] theorem State.setFull_free (s : State) (w : Nat) (b : Bool) : (s.setFull w b).free = s.free := rfl
@[simp] theorem State.setFull_slots (s : State) (w : Nat) (b : Bool) : (s.setFull w b).slots = s.slots := rfl
@[simp] theorem State.setFull_coreTab (s : State) (w : Nat) (b : Bool) : (s.setFull w b).coreTab = s.coreTab := rfl
@[simp] theorem State.setFull_clusters (s : State) (w : Nat) (b : Bool) : (s.setFull w b).clusters = s.clusters := rfl
@[simp] theorem State.setFull_chans (s : State) (w : Nat) (b : Bool) : (s.setFull w b).chans = s.chans := rfl
@[simp] theorem State.setFull_mem (s : State) (w : Nat) (b : Bool) : (s.setFull w b).mem = s.mem := rfl
@[simp] theorem State.setFull_poison (s : State) (w : Nat) (b : Bool) : (s.setFull w b).poison = s.poison := rfl
@[simp] theorem State.setFull_badPar (s : State) (w : Nat) (b : Bool) : (s.setFull w b).badPar = s.badPar := rfl
@[simp] theorem State.setFull_flips (s : State) (w : Nat) (b : Bool) : (s.setFull w b).flips = s.flips := rfl
@[simp] theorem State.setFull_teams (s : State) (w : Nat) (b : Bool) : (s.setFull w b).teams = s.teams := rfl
@[simp] theorem State.setFull_nextSeq (s : State) (w : Nat) (b : Bool) : (s.setFull w b).nextSeq = s.nextSeq := rfl
@[simp] theorem State.setFull_ended (s : State) (w : Nat) (b : Bool) : (s.setFull w b).ended = s.ended := rfl
@[simp] theorem State.setFull_working (s : State) (w : Nat) (b : Bool) : (s.setFull w b).working = s.working := rfl
@[simp] theorem State.setFull_irqs (s : State) (w : Nat) (b : Bool) : (s.setFull w b).irqs = s.irqs := rfl
@[simp] theorem State.setFull_dmap (s : State) (w : Nat) (b : Bool) : (s.setFull w b).dmap = s.dmap := rfl
@[simp] theorem State.setFull_ownPkg (s : State) (w : Nat) (b : Bool) : (s.setFull w b).ownPkg = s.ownPkg := rfl
@[simp] theorem State.setFull_dieOk (s : State) (w : Nat) (b : Bool) : (s.setFull w b).dieOk = s.dieOk := rfl
@[simp] theorem State.setFull_booted (s : State) (w : Nat) (b : Bool) : (s.setFull w b).booted = s.booted := rfl
@[simp] theorem State.setFull_hubA (s : State) (w : Nat) (b : Bool) : (s.setFull w b).hubA = s.hubA := rfl
@[simp] theorem State.setFull_hubB (s : State) (w : Nat) (b : Bool) : (s.setFull w b).hubB = s.hubB := rfl
@[simp] theorem State.setFull_hostHub (s : State) (w : Nat) (b : Bool) : (s.setFull w b).hostHub = s.hostHub := rfl
@[simp] theorem State.setFull_misroute (s : State) (w : Nat) (b : Bool) : (s.setFull w b).misroute = s.misroute := rfl
@[simp] theorem State.setFull_ptpBase (s : State) (w : Nat) (b : Bool) : (s.setFull w b).ptpBase = s.ptpBase := rfl
@[simp] theorem State.setFull_tight (s : State) (w : Nat) (b : Bool) : (s.setFull w b).tight = s.tight := rfl
@[simp] theorem State.setFull_holdDispatch (s : State) (w : Nat) (b : Bool) : (s.setFull w b).holdDispatch = s.holdDispatch := rfl
@[simp] theorem State.setFull_alarms (s : State) (w : Nat) (b : Bool) : (s.setFull w b).alarms = s.alarms := rfl
@[simp] theorem State.setFull_stopped (s : State) (w : Nat) (b : Bool) : (s.setFull w b).stopped = s.stopped := rfl
@[simp] theorem State.setFull_amap (s : State) (w : Nat) (b : Bool) : (s.setFull w b).amap = s.amap := rfl
@[simp] theorem State.setFull_remap (s : State) (w : Nat) (b : Bool) : (s.setFull w b).remap = s.remap := rfl
@[simp] theorem State.setFull_noticeSeq (s : State) (w : Nat) (b : Bool) : (s.setFull w b).noticeSeq = s.noticeSeq := rfl
@[simp] theorem State.setFull_noticeBase (s : State) (w : Nat) (b : Bool) : (s.setFull w b).noticeBase = s.noticeBase := rfl
@[simp] theorem State.setFull_hostPage (s : State) (w : Nat) (b : Bool) : (s.setFull w b).hostPage = s.hostPage := rfl
@[simp] theorem State.setFull_traceBase (s : State) (w : Nat) (b : Bool) : (s.setFull w b).traceBase = s.traceBase := rfl
@[simp] theorem State.setFull_traceIdx (s : State) (w : Nat) (b : Bool) : (s.setFull w b).traceIdx = s.traceIdx := rfl
@[simp] theorem State.setFull_reserveBase (s : State) (w : Nat) (b : Bool) : (s.setFull w b).reserveBase = s.reserveBase := rfl
@[simp] theorem State.setFull_reserveSize (s : State) (w : Nat) (b : Bool) : (s.setFull w b).reserveSize = s.reserveSize := rfl
@[simp] theorem State.setFull_stewardA (s : State) (w : Nat) (b : Bool) : (s.setFull w b).stewardA = s.stewardA := rfl
@[simp] theorem State.setFull_stewardB (s : State) (w : Nat) (b : Bool) : (s.setFull w b).stewardB = s.stewardB := rfl
@[simp] theorem State.setFull_standing (s : State) (w : Nat) (b : Bool) : (s.setFull w b).standing = s.standing := rfl
@[simp] theorem State.setFull_unitLog (s : State) (w : Nat) (b : Bool) : (s.setFull w b).unitLog = s.unitLog := rfl
@[simp] theorem State.setFull_links (s : State) (w : Nat) (b : Bool) : (s.setFull w b).links = s.links := rfl
@[simp] theorem State.setFull_h2dStops (s : State) (w : Nat) (b : Bool) : (s.setFull w b).h2dStops = s.h2dStops := rfl
@[simp] theorem State.setFull_h2dHalt (s : State) (w : Nat) (b : Bool) : (s.setFull w b).h2dHalt = s.h2dHalt := rfl
@[simp] theorem State.setFull_epoch (s : State) (w : Nat) (b : Bool) : (s.setFull w b).epoch = s.epoch := rfl
@[simp] theorem State.setFull_bootCount (s : State) (w : Nat) (b : Bool) : (s.setFull w b).bootCount = s.bootCount := rfl
@[simp] theorem State.setFull_dicts (s : State) (w : Nat) (b : Bool) : (s.setFull w b).dicts = s.dicts := rfl
@[simp] theorem State.setFull_remStores (s : State) (w : Nat) (b : Bool) : (s.setFull w b).remStores = s.remStores := rfl
@[simp] theorem State.setFull_outbox (s : State) (w : Nat) (b : Bool) : (s.setFull w b).outbox = s.outbox := rfl
@[simp] theorem State.setFull_lost (s : State) (w : Nat) (b : Bool) : (s.setFull w b).lost = s.lost := rfl
@[simp] theorem State.setFull_tested (s : State) (w : Nat) (b : Bool) : (s.setFull w b).tested = s.tested := rfl
@[simp] theorem State.setFull_kernelOk (s : State) (w : Nat) (b : Bool) : (s.setFull w b).kernelOk = s.kernelOk := rfl
@[simp] theorem State.setFull_images (s : State) (w : Nat) (b : Bool) : (s.setFull w b).images = s.images := rfl
@[simp] theorem State.setFull_ptpOff (s : State) (w : Nat) (b : Bool) : (s.setFull w b).ptpOff = s.ptpOff := rfl
@[simp] theorem State.setFull_group (s : State) (w : Nat) (b : Bool) : (s.setFull w b).group = s.group := rfl
@[simp] theorem State.setFull_lostPieces (s : State) (w : Nat) (b : Bool) : (s.setFull w b).lostPieces = s.lostPieces := rfl
@[simp] theorem State.setFull_homes (s : State) (w : Nat) (b : Bool) : (s.setFull w b).homes = s.homes := rfl
@[simp] theorem State.setFull_rowLimit (s : State) (w : Nat) (b : Bool) : (s.setFull w b).rowLimit = s.rowLimit := rfl
@[simp] theorem State.setFull_sdicts (s : State) (w : Nat) (b : Bool) : (s.setFull w b).sdicts = s.sdicts := rfl
@[simp] theorem State.setFull_netOut (s : State) (w : Nat) (b : Bool) : (s.setFull w b).netOut = s.netOut := rfl
@[simp] theorem State.setFull_netIn (s : State) (w : Nat) (b : Bool) : (s.setFull w b).netIn = s.netIn := rfl

/-! ### setBad -/
@[simp] theorem State.setBad_cycle (s : State) (w : Nat) (b : Bool) : (s.setBad w b).cycle = s.cycle := rfl
@[simp] theorem State.setBad_cores (s : State) (w : Nat) (b : Bool) : (s.setBad w b).cores = s.cores := rfl
@[simp] theorem State.setBad_phase (s : State) (w : Nat) (b : Bool) : (s.setBad w b).phase = s.phase := rfl
@[simp] theorem State.setBad_plan (s : State) (w : Nat) (b : Bool) : (s.setBad w b).plan = s.plan := rfl
@[simp] theorem State.setBad_agenda (s : State) (w : Nat) (b : Bool) : (s.setBad w b).agenda = s.agenda := rfl
@[simp] theorem State.setBad_beat (s : State) (w : Nat) (b : Bool) : (s.setBad w b).beat = s.beat := rfl
@[simp] theorem State.setBad_free (s : State) (w : Nat) (b : Bool) : (s.setBad w b).free = s.free := rfl
@[simp] theorem State.setBad_slots (s : State) (w : Nat) (b : Bool) : (s.setBad w b).slots = s.slots := rfl
@[simp] theorem State.setBad_coreTab (s : State) (w : Nat) (b : Bool) : (s.setBad w b).coreTab = s.coreTab := rfl
@[simp] theorem State.setBad_clusters (s : State) (w : Nat) (b : Bool) : (s.setBad w b).clusters = s.clusters := rfl
@[simp] theorem State.setBad_chans (s : State) (w : Nat) (b : Bool) : (s.setBad w b).chans = s.chans := rfl
@[simp] theorem State.setBad_mem (s : State) (w : Nat) (b : Bool) : (s.setBad w b).mem = s.mem := rfl
@[simp] theorem State.setBad_empty (s : State) (w : Nat) (b : Bool) : (s.setBad w b).empty = s.empty := rfl
@[simp] theorem State.setBad_badPar (s : State) (w : Nat) (b : Bool) : (s.setBad w b).badPar = s.badPar := rfl
@[simp] theorem State.setBad_flips (s : State) (w : Nat) (b : Bool) : (s.setBad w b).flips = s.flips := rfl
@[simp] theorem State.setBad_teams (s : State) (w : Nat) (b : Bool) : (s.setBad w b).teams = s.teams := rfl
@[simp] theorem State.setBad_nextSeq (s : State) (w : Nat) (b : Bool) : (s.setBad w b).nextSeq = s.nextSeq := rfl
@[simp] theorem State.setBad_ended (s : State) (w : Nat) (b : Bool) : (s.setBad w b).ended = s.ended := rfl
@[simp] theorem State.setBad_working (s : State) (w : Nat) (b : Bool) : (s.setBad w b).working = s.working := rfl
@[simp] theorem State.setBad_irqs (s : State) (w : Nat) (b : Bool) : (s.setBad w b).irqs = s.irqs := rfl
@[simp] theorem State.setBad_dmap (s : State) (w : Nat) (b : Bool) : (s.setBad w b).dmap = s.dmap := rfl
@[simp] theorem State.setBad_ownPkg (s : State) (w : Nat) (b : Bool) : (s.setBad w b).ownPkg = s.ownPkg := rfl
@[simp] theorem State.setBad_dieOk (s : State) (w : Nat) (b : Bool) : (s.setBad w b).dieOk = s.dieOk := rfl
@[simp] theorem State.setBad_booted (s : State) (w : Nat) (b : Bool) : (s.setBad w b).booted = s.booted := rfl
@[simp] theorem State.setBad_hubA (s : State) (w : Nat) (b : Bool) : (s.setBad w b).hubA = s.hubA := rfl
@[simp] theorem State.setBad_hubB (s : State) (w : Nat) (b : Bool) : (s.setBad w b).hubB = s.hubB := rfl
@[simp] theorem State.setBad_hostHub (s : State) (w : Nat) (b : Bool) : (s.setBad w b).hostHub = s.hostHub := rfl
@[simp] theorem State.setBad_misroute (s : State) (w : Nat) (b : Bool) : (s.setBad w b).misroute = s.misroute := rfl
@[simp] theorem State.setBad_ptpBase (s : State) (w : Nat) (b : Bool) : (s.setBad w b).ptpBase = s.ptpBase := rfl
@[simp] theorem State.setBad_tight (s : State) (w : Nat) (b : Bool) : (s.setBad w b).tight = s.tight := rfl
@[simp] theorem State.setBad_holdDispatch (s : State) (w : Nat) (b : Bool) : (s.setBad w b).holdDispatch = s.holdDispatch := rfl
@[simp] theorem State.setBad_alarms (s : State) (w : Nat) (b : Bool) : (s.setBad w b).alarms = s.alarms := rfl
@[simp] theorem State.setBad_stopped (s : State) (w : Nat) (b : Bool) : (s.setBad w b).stopped = s.stopped := rfl
@[simp] theorem State.setBad_amap (s : State) (w : Nat) (b : Bool) : (s.setBad w b).amap = s.amap := rfl
@[simp] theorem State.setBad_remap (s : State) (w : Nat) (b : Bool) : (s.setBad w b).remap = s.remap := rfl
@[simp] theorem State.setBad_noticeSeq (s : State) (w : Nat) (b : Bool) : (s.setBad w b).noticeSeq = s.noticeSeq := rfl
@[simp] theorem State.setBad_noticeBase (s : State) (w : Nat) (b : Bool) : (s.setBad w b).noticeBase = s.noticeBase := rfl
@[simp] theorem State.setBad_hostPage (s : State) (w : Nat) (b : Bool) : (s.setBad w b).hostPage = s.hostPage := rfl
@[simp] theorem State.setBad_traceBase (s : State) (w : Nat) (b : Bool) : (s.setBad w b).traceBase = s.traceBase := rfl
@[simp] theorem State.setBad_traceIdx (s : State) (w : Nat) (b : Bool) : (s.setBad w b).traceIdx = s.traceIdx := rfl
@[simp] theorem State.setBad_reserveBase (s : State) (w : Nat) (b : Bool) : (s.setBad w b).reserveBase = s.reserveBase := rfl
@[simp] theorem State.setBad_reserveSize (s : State) (w : Nat) (b : Bool) : (s.setBad w b).reserveSize = s.reserveSize := rfl
@[simp] theorem State.setBad_stewardA (s : State) (w : Nat) (b : Bool) : (s.setBad w b).stewardA = s.stewardA := rfl
@[simp] theorem State.setBad_stewardB (s : State) (w : Nat) (b : Bool) : (s.setBad w b).stewardB = s.stewardB := rfl
@[simp] theorem State.setBad_standing (s : State) (w : Nat) (b : Bool) : (s.setBad w b).standing = s.standing := rfl
@[simp] theorem State.setBad_unitLog (s : State) (w : Nat) (b : Bool) : (s.setBad w b).unitLog = s.unitLog := rfl
@[simp] theorem State.setBad_links (s : State) (w : Nat) (b : Bool) : (s.setBad w b).links = s.links := rfl
@[simp] theorem State.setBad_h2dStops (s : State) (w : Nat) (b : Bool) : (s.setBad w b).h2dStops = s.h2dStops := rfl
@[simp] theorem State.setBad_h2dHalt (s : State) (w : Nat) (b : Bool) : (s.setBad w b).h2dHalt = s.h2dHalt := rfl
@[simp] theorem State.setBad_epoch (s : State) (w : Nat) (b : Bool) : (s.setBad w b).epoch = s.epoch := rfl
@[simp] theorem State.setBad_bootCount (s : State) (w : Nat) (b : Bool) : (s.setBad w b).bootCount = s.bootCount := rfl
@[simp] theorem State.setBad_dicts (s : State) (w : Nat) (b : Bool) : (s.setBad w b).dicts = s.dicts := rfl
@[simp] theorem State.setBad_remStores (s : State) (w : Nat) (b : Bool) : (s.setBad w b).remStores = s.remStores := rfl
@[simp] theorem State.setBad_outbox (s : State) (w : Nat) (b : Bool) : (s.setBad w b).outbox = s.outbox := rfl
@[simp] theorem State.setBad_lost (s : State) (w : Nat) (b : Bool) : (s.setBad w b).lost = s.lost := rfl
@[simp] theorem State.setBad_tested (s : State) (w : Nat) (b : Bool) : (s.setBad w b).tested = s.tested := rfl
@[simp] theorem State.setBad_kernelOk (s : State) (w : Nat) (b : Bool) : (s.setBad w b).kernelOk = s.kernelOk := rfl
@[simp] theorem State.setBad_images (s : State) (w : Nat) (b : Bool) : (s.setBad w b).images = s.images := rfl
@[simp] theorem State.setBad_ptpOff (s : State) (w : Nat) (b : Bool) : (s.setBad w b).ptpOff = s.ptpOff := rfl
@[simp] theorem State.setBad_group (s : State) (w : Nat) (b : Bool) : (s.setBad w b).group = s.group := rfl
@[simp] theorem State.setBad_lostPieces (s : State) (w : Nat) (b : Bool) : (s.setBad w b).lostPieces = s.lostPieces := rfl
@[simp] theorem State.setBad_homes (s : State) (w : Nat) (b : Bool) : (s.setBad w b).homes = s.homes := rfl
@[simp] theorem State.setBad_rowLimit (s : State) (w : Nat) (b : Bool) : (s.setBad w b).rowLimit = s.rowLimit := rfl
@[simp] theorem State.setBad_sdicts (s : State) (w : Nat) (b : Bool) : (s.setBad w b).sdicts = s.sdicts := rfl
@[simp] theorem State.setBad_netOut (s : State) (w : Nat) (b : Bool) : (s.setBad w b).netOut = s.netOut := rfl
@[simp] theorem State.setBad_netIn (s : State) (w : Nat) (b : Bool) : (s.setBad w b).netIn = s.netIn := rfl

/-! ### raise -/
@[simp] theorem State.raise_cycle (s : State) (c : Nat) (v1 v2 : Word) : (s.raise c v1 v2).cycle = s.cycle := rfl
@[simp] theorem State.raise_cores (s : State) (c : Nat) (v1 v2 : Word) : (s.raise c v1 v2).cores = s.cores := rfl
@[simp] theorem State.raise_phase (s : State) (c : Nat) (v1 v2 : Word) : (s.raise c v1 v2).phase = s.phase := rfl
@[simp] theorem State.raise_plan (s : State) (c : Nat) (v1 v2 : Word) : (s.raise c v1 v2).plan = s.plan := rfl
@[simp] theorem State.raise_agenda (s : State) (c : Nat) (v1 v2 : Word) : (s.raise c v1 v2).agenda = s.agenda := rfl
@[simp] theorem State.raise_beat (s : State) (c : Nat) (v1 v2 : Word) : (s.raise c v1 v2).beat = s.beat := rfl
@[simp] theorem State.raise_free (s : State) (c : Nat) (v1 v2 : Word) : (s.raise c v1 v2).free = s.free := rfl
@[simp] theorem State.raise_slots (s : State) (c : Nat) (v1 v2 : Word) : (s.raise c v1 v2).slots = s.slots := rfl
@[simp] theorem State.raise_coreTab (s : State) (c : Nat) (v1 v2 : Word) : (s.raise c v1 v2).coreTab = s.coreTab := rfl
@[simp] theorem State.raise_clusters (s : State) (c : Nat) (v1 v2 : Word) : (s.raise c v1 v2).clusters = s.clusters := rfl
@[simp] theorem State.raise_chans (s : State) (c : Nat) (v1 v2 : Word) : (s.raise c v1 v2).chans = s.chans := rfl
@[simp] theorem State.raise_mem (s : State) (c : Nat) (v1 v2 : Word) : (s.raise c v1 v2).mem = s.mem := rfl
@[simp] theorem State.raise_empty (s : State) (c : Nat) (v1 v2 : Word) : (s.raise c v1 v2).empty = s.empty := rfl
@[simp] theorem State.raise_poison (s : State) (c : Nat) (v1 v2 : Word) : (s.raise c v1 v2).poison = s.poison := rfl
@[simp] theorem State.raise_badPar (s : State) (c : Nat) (v1 v2 : Word) : (s.raise c v1 v2).badPar = s.badPar := rfl
@[simp] theorem State.raise_flips (s : State) (c : Nat) (v1 v2 : Word) : (s.raise c v1 v2).flips = s.flips := rfl
@[simp] theorem State.raise_teams (s : State) (c : Nat) (v1 v2 : Word) : (s.raise c v1 v2).teams = s.teams := rfl
@[simp] theorem State.raise_nextSeq (s : State) (c : Nat) (v1 v2 : Word) : (s.raise c v1 v2).nextSeq = s.nextSeq := rfl
@[simp] theorem State.raise_ended (s : State) (c : Nat) (v1 v2 : Word) : (s.raise c v1 v2).ended = s.ended := rfl
@[simp] theorem State.raise_working (s : State) (c : Nat) (v1 v2 : Word) : (s.raise c v1 v2).working = s.working := rfl
@[simp] theorem State.raise_dmap (s : State) (c : Nat) (v1 v2 : Word) : (s.raise c v1 v2).dmap = s.dmap := rfl
@[simp] theorem State.raise_ownPkg (s : State) (c : Nat) (v1 v2 : Word) : (s.raise c v1 v2).ownPkg = s.ownPkg := rfl
@[simp] theorem State.raise_dieOk (s : State) (c : Nat) (v1 v2 : Word) : (s.raise c v1 v2).dieOk = s.dieOk := rfl
@[simp] theorem State.raise_booted (s : State) (c : Nat) (v1 v2 : Word) : (s.raise c v1 v2).booted = s.booted := rfl
@[simp] theorem State.raise_hubA (s : State) (c : Nat) (v1 v2 : Word) : (s.raise c v1 v2).hubA = s.hubA := rfl
@[simp] theorem State.raise_hubB (s : State) (c : Nat) (v1 v2 : Word) : (s.raise c v1 v2).hubB = s.hubB := rfl
@[simp] theorem State.raise_hostHub (s : State) (c : Nat) (v1 v2 : Word) : (s.raise c v1 v2).hostHub = s.hostHub := rfl
@[simp] theorem State.raise_misroute (s : State) (c : Nat) (v1 v2 : Word) : (s.raise c v1 v2).misroute = s.misroute := rfl
@[simp] theorem State.raise_ptpBase (s : State) (c : Nat) (v1 v2 : Word) : (s.raise c v1 v2).ptpBase = s.ptpBase := rfl
@[simp] theorem State.raise_tight (s : State) (c : Nat) (v1 v2 : Word) : (s.raise c v1 v2).tight = s.tight := rfl
@[simp] theorem State.raise_holdDispatch (s : State) (c : Nat) (v1 v2 : Word) : (s.raise c v1 v2).holdDispatch = s.holdDispatch := rfl
@[simp] theorem State.raise_alarms (s : State) (c : Nat) (v1 v2 : Word) : (s.raise c v1 v2).alarms = s.alarms := rfl
@[simp] theorem State.raise_stopped (s : State) (c : Nat) (v1 v2 : Word) : (s.raise c v1 v2).stopped = s.stopped := rfl
@[simp] theorem State.raise_amap (s : State) (c : Nat) (v1 v2 : Word) : (s.raise c v1 v2).amap = s.amap := rfl
@[simp] theorem State.raise_remap (s : State) (c : Nat) (v1 v2 : Word) : (s.raise c v1 v2).remap = s.remap := rfl
@[simp] theorem State.raise_noticeSeq (s : State) (c : Nat) (v1 v2 : Word) : (s.raise c v1 v2).noticeSeq = s.noticeSeq := rfl
@[simp] theorem State.raise_noticeBase (s : State) (c : Nat) (v1 v2 : Word) : (s.raise c v1 v2).noticeBase = s.noticeBase := rfl
@[simp] theorem State.raise_hostPage (s : State) (c : Nat) (v1 v2 : Word) : (s.raise c v1 v2).hostPage = s.hostPage := rfl
@[simp] theorem State.raise_traceBase (s : State) (c : Nat) (v1 v2 : Word) : (s.raise c v1 v2).traceBase = s.traceBase := rfl
@[simp] theorem State.raise_traceIdx (s : State) (c : Nat) (v1 v2 : Word) : (s.raise c v1 v2).traceIdx = s.traceIdx := rfl
@[simp] theorem State.raise_reserveBase (s : State) (c : Nat) (v1 v2 : Word) : (s.raise c v1 v2).reserveBase = s.reserveBase := rfl
@[simp] theorem State.raise_reserveSize (s : State) (c : Nat) (v1 v2 : Word) : (s.raise c v1 v2).reserveSize = s.reserveSize := rfl
@[simp] theorem State.raise_stewardA (s : State) (c : Nat) (v1 v2 : Word) : (s.raise c v1 v2).stewardA = s.stewardA := rfl
@[simp] theorem State.raise_stewardB (s : State) (c : Nat) (v1 v2 : Word) : (s.raise c v1 v2).stewardB = s.stewardB := rfl
@[simp] theorem State.raise_standing (s : State) (c : Nat) (v1 v2 : Word) : (s.raise c v1 v2).standing = s.standing := rfl
@[simp] theorem State.raise_unitLog (s : State) (c : Nat) (v1 v2 : Word) : (s.raise c v1 v2).unitLog = s.unitLog := rfl
@[simp] theorem State.raise_links (s : State) (c : Nat) (v1 v2 : Word) : (s.raise c v1 v2).links = s.links := rfl
@[simp] theorem State.raise_h2dStops (s : State) (c : Nat) (v1 v2 : Word) : (s.raise c v1 v2).h2dStops = s.h2dStops := rfl
@[simp] theorem State.raise_h2dHalt (s : State) (c : Nat) (v1 v2 : Word) : (s.raise c v1 v2).h2dHalt = s.h2dHalt := rfl
@[simp] theorem State.raise_epoch (s : State) (c : Nat) (v1 v2 : Word) : (s.raise c v1 v2).epoch = s.epoch := rfl
@[simp] theorem State.raise_bootCount (s : State) (c : Nat) (v1 v2 : Word) : (s.raise c v1 v2).bootCount = s.bootCount := rfl
@[simp] theorem State.raise_dicts (s : State) (c : Nat) (v1 v2 : Word) : (s.raise c v1 v2).dicts = s.dicts := rfl
@[simp] theorem State.raise_remStores (s : State) (c : Nat) (v1 v2 : Word) : (s.raise c v1 v2).remStores = s.remStores := rfl
@[simp] theorem State.raise_outbox (s : State) (c : Nat) (v1 v2 : Word) : (s.raise c v1 v2).outbox = s.outbox := rfl
@[simp] theorem State.raise_lost (s : State) (c : Nat) (v1 v2 : Word) : (s.raise c v1 v2).lost = s.lost := rfl
@[simp] theorem State.raise_tested (s : State) (c : Nat) (v1 v2 : Word) : (s.raise c v1 v2).tested = s.tested := rfl
@[simp] theorem State.raise_kernelOk (s : State) (c : Nat) (v1 v2 : Word) : (s.raise c v1 v2).kernelOk = s.kernelOk := rfl
@[simp] theorem State.raise_images (s : State) (c : Nat) (v1 v2 : Word) : (s.raise c v1 v2).images = s.images := rfl
@[simp] theorem State.raise_ptpOff (s : State) (c : Nat) (v1 v2 : Word) : (s.raise c v1 v2).ptpOff = s.ptpOff := rfl
@[simp] theorem State.raise_group (s : State) (c : Nat) (v1 v2 : Word) : (s.raise c v1 v2).group = s.group := rfl
@[simp] theorem State.raise_lostPieces (s : State) (c : Nat) (v1 v2 : Word) : (s.raise c v1 v2).lostPieces = s.lostPieces := rfl
@[simp] theorem State.raise_homes (s : State) (c : Nat) (v1 v2 : Word) : (s.raise c v1 v2).homes = s.homes := rfl
@[simp] theorem State.raise_rowLimit (s : State) (c : Nat) (v1 v2 : Word) : (s.raise c v1 v2).rowLimit = s.rowLimit := rfl
@[simp] theorem State.raise_sdicts (s : State) (c : Nat) (v1 v2 : Word) : (s.raise c v1 v2).sdicts = s.sdicts := rfl
@[simp] theorem State.raise_netOut (s : State) (c : Nat) (v1 v2 : Word) : (s.raise c v1 v2).netOut = s.netOut := rfl
@[simp] theorem State.raise_netIn (s : State) (c : Nat) (v1 v2 : Word) : (s.raise c v1 v2).netIn = s.netIn := rfl

/-! ### logUnit -/
@[simp] theorem State.logUnit_cycle (s : State) (c u : Nat) : (s.logUnit c u).cycle = s.cycle := rfl
@[simp] theorem State.logUnit_cores (s : State) (c u : Nat) : (s.logUnit c u).cores = s.cores := rfl
@[simp] theorem State.logUnit_phase (s : State) (c u : Nat) : (s.logUnit c u).phase = s.phase := rfl
@[simp] theorem State.logUnit_plan (s : State) (c u : Nat) : (s.logUnit c u).plan = s.plan := rfl
@[simp] theorem State.logUnit_agenda (s : State) (c u : Nat) : (s.logUnit c u).agenda = s.agenda := rfl
@[simp] theorem State.logUnit_beat (s : State) (c u : Nat) : (s.logUnit c u).beat = s.beat := rfl
@[simp] theorem State.logUnit_free (s : State) (c u : Nat) : (s.logUnit c u).free = s.free := rfl
@[simp] theorem State.logUnit_slots (s : State) (c u : Nat) : (s.logUnit c u).slots = s.slots := rfl
@[simp] theorem State.logUnit_coreTab (s : State) (c u : Nat) : (s.logUnit c u).coreTab = s.coreTab := rfl
@[simp] theorem State.logUnit_clusters (s : State) (c u : Nat) : (s.logUnit c u).clusters = s.clusters := rfl
@[simp] theorem State.logUnit_chans (s : State) (c u : Nat) : (s.logUnit c u).chans = s.chans := rfl
@[simp] theorem State.logUnit_mem (s : State) (c u : Nat) : (s.logUnit c u).mem = s.mem := rfl
@[simp] theorem State.logUnit_empty (s : State) (c u : Nat) : (s.logUnit c u).empty = s.empty := rfl
@[simp] theorem State.logUnit_poison (s : State) (c u : Nat) : (s.logUnit c u).poison = s.poison := rfl
@[simp] theorem State.logUnit_badPar (s : State) (c u : Nat) : (s.logUnit c u).badPar = s.badPar := rfl
@[simp] theorem State.logUnit_flips (s : State) (c u : Nat) : (s.logUnit c u).flips = s.flips := rfl
@[simp] theorem State.logUnit_teams (s : State) (c u : Nat) : (s.logUnit c u).teams = s.teams := rfl
@[simp] theorem State.logUnit_nextSeq (s : State) (c u : Nat) : (s.logUnit c u).nextSeq = s.nextSeq := rfl
@[simp] theorem State.logUnit_ended (s : State) (c u : Nat) : (s.logUnit c u).ended = s.ended := rfl
@[simp] theorem State.logUnit_working (s : State) (c u : Nat) : (s.logUnit c u).working = s.working := rfl
@[simp] theorem State.logUnit_irqs (s : State) (c u : Nat) : (s.logUnit c u).irqs = s.irqs := rfl
@[simp] theorem State.logUnit_dmap (s : State) (c u : Nat) : (s.logUnit c u).dmap = s.dmap := rfl
@[simp] theorem State.logUnit_ownPkg (s : State) (c u : Nat) : (s.logUnit c u).ownPkg = s.ownPkg := rfl
@[simp] theorem State.logUnit_dieOk (s : State) (c u : Nat) : (s.logUnit c u).dieOk = s.dieOk := rfl
@[simp] theorem State.logUnit_booted (s : State) (c u : Nat) : (s.logUnit c u).booted = s.booted := rfl
@[simp] theorem State.logUnit_hubA (s : State) (c u : Nat) : (s.logUnit c u).hubA = s.hubA := rfl
@[simp] theorem State.logUnit_hubB (s : State) (c u : Nat) : (s.logUnit c u).hubB = s.hubB := rfl
@[simp] theorem State.logUnit_hostHub (s : State) (c u : Nat) : (s.logUnit c u).hostHub = s.hostHub := rfl
@[simp] theorem State.logUnit_misroute (s : State) (c u : Nat) : (s.logUnit c u).misroute = s.misroute := rfl
@[simp] theorem State.logUnit_ptpBase (s : State) (c u : Nat) : (s.logUnit c u).ptpBase = s.ptpBase := rfl
@[simp] theorem State.logUnit_tight (s : State) (c u : Nat) : (s.logUnit c u).tight = s.tight := rfl
@[simp] theorem State.logUnit_holdDispatch (s : State) (c u : Nat) : (s.logUnit c u).holdDispatch = s.holdDispatch := rfl
@[simp] theorem State.logUnit_alarms (s : State) (c u : Nat) : (s.logUnit c u).alarms = s.alarms := rfl
@[simp] theorem State.logUnit_stopped (s : State) (c u : Nat) : (s.logUnit c u).stopped = s.stopped := rfl
@[simp] theorem State.logUnit_amap (s : State) (c u : Nat) : (s.logUnit c u).amap = s.amap := rfl
@[simp] theorem State.logUnit_remap (s : State) (c u : Nat) : (s.logUnit c u).remap = s.remap := rfl
@[simp] theorem State.logUnit_noticeSeq (s : State) (c u : Nat) : (s.logUnit c u).noticeSeq = s.noticeSeq := rfl
@[simp] theorem State.logUnit_noticeBase (s : State) (c u : Nat) : (s.logUnit c u).noticeBase = s.noticeBase := rfl
@[simp] theorem State.logUnit_hostPage (s : State) (c u : Nat) : (s.logUnit c u).hostPage = s.hostPage := rfl
@[simp] theorem State.logUnit_traceBase (s : State) (c u : Nat) : (s.logUnit c u).traceBase = s.traceBase := rfl
@[simp] theorem State.logUnit_traceIdx (s : State) (c u : Nat) : (s.logUnit c u).traceIdx = s.traceIdx := rfl
@[simp] theorem State.logUnit_reserveBase (s : State) (c u : Nat) : (s.logUnit c u).reserveBase = s.reserveBase := rfl
@[simp] theorem State.logUnit_reserveSize (s : State) (c u : Nat) : (s.logUnit c u).reserveSize = s.reserveSize := rfl
@[simp] theorem State.logUnit_stewardA (s : State) (c u : Nat) : (s.logUnit c u).stewardA = s.stewardA := rfl
@[simp] theorem State.logUnit_stewardB (s : State) (c u : Nat) : (s.logUnit c u).stewardB = s.stewardB := rfl
@[simp] theorem State.logUnit_standing (s : State) (c u : Nat) : (s.logUnit c u).standing = s.standing := rfl
@[simp] theorem State.logUnit_links (s : State) (c u : Nat) : (s.logUnit c u).links = s.links := rfl
@[simp] theorem State.logUnit_h2dStops (s : State) (c u : Nat) : (s.logUnit c u).h2dStops = s.h2dStops := rfl
@[simp] theorem State.logUnit_h2dHalt (s : State) (c u : Nat) : (s.logUnit c u).h2dHalt = s.h2dHalt := rfl
@[simp] theorem State.logUnit_epoch (s : State) (c u : Nat) : (s.logUnit c u).epoch = s.epoch := rfl
@[simp] theorem State.logUnit_bootCount (s : State) (c u : Nat) : (s.logUnit c u).bootCount = s.bootCount := rfl
@[simp] theorem State.logUnit_dicts (s : State) (c u : Nat) : (s.logUnit c u).dicts = s.dicts := rfl
@[simp] theorem State.logUnit_remStores (s : State) (c u : Nat) : (s.logUnit c u).remStores = s.remStores := rfl
@[simp] theorem State.logUnit_outbox (s : State) (c u : Nat) : (s.logUnit c u).outbox = s.outbox := rfl
@[simp] theorem State.logUnit_lost (s : State) (c u : Nat) : (s.logUnit c u).lost = s.lost := rfl
@[simp] theorem State.logUnit_tested (s : State) (c u : Nat) : (s.logUnit c u).tested = s.tested := rfl
@[simp] theorem State.logUnit_kernelOk (s : State) (c u : Nat) : (s.logUnit c u).kernelOk = s.kernelOk := rfl
@[simp] theorem State.logUnit_images (s : State) (c u : Nat) : (s.logUnit c u).images = s.images := rfl
@[simp] theorem State.logUnit_ptpOff (s : State) (c u : Nat) : (s.logUnit c u).ptpOff = s.ptpOff := rfl
@[simp] theorem State.logUnit_group (s : State) (c u : Nat) : (s.logUnit c u).group = s.group := rfl
@[simp] theorem State.logUnit_lostPieces (s : State) (c u : Nat) : (s.logUnit c u).lostPieces = s.lostPieces := rfl
@[simp] theorem State.logUnit_homes (s : State) (c u : Nat) : (s.logUnit c u).homes = s.homes := rfl
@[simp] theorem State.logUnit_rowLimit (s : State) (c u : Nat) : (s.logUnit c u).rowLimit = s.rowLimit := rfl
@[simp] theorem State.logUnit_sdicts (s : State) (c u : Nat) : (s.logUnit c u).sdicts = s.sdicts := rfl
@[simp] theorem State.logUnit_netOut (s : State) (c u : Nat) : (s.logUnit c u).netOut = s.netOut := rfl
@[simp] theorem State.logUnit_netIn (s : State) (c u : Nat) : (s.logUnit c u).netIn = s.netIn := rfl

/-! ### Slot.wx -/
@[simp] theorem Slot.wx_v (sl : Slot) (r : XReg) (w : Word) : (sl.wx r w).v = sl.v := by unfold Slot.wx; split <;> rfl
@[simp] theorem Slot.wx_p (sl : Slot) (r : XReg) (w : Word) : (sl.wx r w).p = sl.p := by unfold Slot.wx; split <;> rfl
@[simp] theorem Slot.wx_pc (sl : Slot) (r : XReg) (w : Word) : (sl.wx r w).pc = sl.pc := by unfold Slot.wx; split <;> rfl
@[simp] theorem Slot.wx_level (sl : Slot) (r : XReg) (w : Word) : (sl.wx r w).level = sl.level := by unfold Slot.wx; split <;> rfl
@[simp] theorem Slot.wx_status (sl : Slot) (r : XReg) (w : Word) : (sl.wx r w).status = sl.status := by unfold Slot.wx; split <;> rfl
@[simp] theorem Slot.wx_running (sl : Slot) (r : XReg) (w : Word) : (sl.wx r w).running = sl.running := by unfold Slot.wx; split <;> rfl
@[simp] theorem Slot.wx_trav (sl : Slot) (r : XReg) (w : Word) : (sl.wx r w).trav = sl.trav := by unfold Slot.wx; split <;> rfl
@[simp] theorem Slot.wx_fmt (sl : Slot) (r : XReg) (w : Word) : (sl.wx r w).fmt = sl.fmt := by unfold Slot.wx; split <;> rfl
@[simp] theorem Slot.wx_sptra (sl : Slot) (r : XReg) (w : Word) : (sl.wx r w).sptra = sl.sptra := by unfold Slot.wx; split <;> rfl
@[simp] theorem Slot.wx_sptrb (sl : Slot) (r : XReg) (w : Word) : (sl.wx r w).sptrb = sl.sptrb := by unfold Slot.wx; split <;> rfl
@[simp] theorem Slot.wx_rnd (sl : Slot) (r : XReg) (w : Word) : (sl.wx r w).rnd = sl.rnd := by unfold Slot.wx; split <;> rfl
@[simp] theorem Slot.wx_fflags (sl : Slot) (r : XReg) (w : Word) : (sl.wx r w).fflags = sl.fflags := by unfold Slot.wx; split <;> rfl
@[simp] theorem Slot.wx_loopc (sl : Slot) (r : XReg) (w : Word) : (sl.wx r w).loopc = sl.loopc := by unfold Slot.wx; split <;> rfl
@[simp] theorem Slot.wx_loops (sl : Slot) (r : XReg) (w : Word) : (sl.wx r w).loops = sl.loops := by unfold Slot.wx; split <;> rfl
@[simp] theorem Slot.wx_loope (sl : Slot) (r : XReg) (w : Word) : (sl.wx r w).loope = sl.loope := by unfold Slot.wx; split <;> rfl
@[simp] theorem Slot.wx_qbind (sl : Slot) (r : XReg) (w : Word) : (sl.wx r w).qbind = sl.qbind := by unfold Slot.wx; split <;> rfl
@[simp] theorem Slot.wx_dxe (sl : Slot) (r : XReg) (w : Word) : (sl.wx r w).dxe = sl.dxe := by unfold Slot.wx; split <;> rfl
@[simp] theorem Slot.wx_bsrd (sl : Slot) (r : XReg) (w : Word) : (sl.wx r w).bsrd = sl.bsrd := by unfold Slot.wx; split <;> rfl
@[simp] theorem Slot.wx_bswr (sl : Slot) (r : XReg) (w : Word) : (sl.wx r w).bswr = sl.bswr := by unfold Slot.wx; split <;> rfl
@[simp] theorem Slot.wx_sprio (sl : Slot) (r : XReg) (w : Word) : (sl.wx r w).sprio = sl.sprio := by unfold Slot.wx; split <;> rfl
@[simp] theorem Slot.wx_cbatch (sl : Slot) (r : XReg) (w : Word) : (sl.wx r w).cbatch = sl.cbatch := by unfold Slot.wx; split <;> rfl
@[simp] theorem Slot.wx_ckchk (sl : Slot) (r : XReg) (w : Word) : (sl.wx r w).ckchk = sl.ckchk := by unfold Slot.wx; split <;> rfl
@[simp] theorem Slot.wx_step (sl : Slot) (r : XReg) (w : Word) : (sl.wx r w).step = sl.step := by unfold Slot.wx; split <;> rfl
@[simp] theorem Slot.wx_leaderc (sl : Slot) (r : XReg) (w : Word) : (sl.wx r w).leaderc = sl.leaderc := by unfold Slot.wx; split <;> rfl
@[simp] theorem Slot.wx_coord (sl : Slot) (r : XReg) (w : Word) : (sl.wx r w).coord = sl.coord := by unfold Slot.wx; split <;> rfl
@[simp] theorem Slot.wx_teamid (sl : Slot) (r : XReg) (w : Word) : (sl.wx r w).teamid = sl.teamid := by unfold Slot.wx; split <;> rfl
@[simp] theorem Slot.wx_shape (sl : Slot) (r : XReg) (w : Word) : (sl.wx r w).shape = sl.shape := by unfold Slot.wx; split <;> rfl
@[simp] theorem Slot.wx_cdlvl (sl : Slot) (r : XReg) (w : Word) : (sl.wx r w).cdlvl = sl.cdlvl := by unfold Slot.wx; split <;> rfl
@[simp] theorem Slot.wx_errc (sl : Slot) (r : XReg) (w : Word) : (sl.wx r w).errc = sl.errc := by unfold Slot.wx; split <;> rfl
@[simp] theorem Slot.wx_kstatus (sl : Slot) (r : XReg) (w : Word) : (sl.wx r w).kstatus = sl.kstatus := by unfold Slot.wx; split <;> rfl
@[simp] theorem Slot.wx_kcause (sl : Slot) (r : XReg) (w : Word) : (sl.wx r w).kcause = sl.kcause := by unfold Slot.wx; split <;> rfl
@[simp] theorem Slot.wx_kepc (sl : Slot) (r : XReg) (w : Word) : (sl.wx r w).kepc = sl.kepc := by unfold Slot.wx; split <;> rfl
@[simp] theorem Slot.wx_ktval (sl : Slot) (r : XReg) (w : Word) : (sl.wx r w).ktval = sl.ktval := by unfold Slot.wx; split <;> rfl
@[simp] theorem Slot.wx_ktval2 (sl : Slot) (r : XReg) (w : Word) : (sl.wx r w).ktval2 = sl.ktval2 := by unfold Slot.wx; split <;> rfl
@[simp] theorem Slot.wx_kvec (sl : Slot) (r : XReg) (w : Word) : (sl.wx r w).kvec = sl.kvec := by unfold Slot.wx; split <;> rfl
@[simp] theorem Slot.wx_kscratch (sl : Slot) (r : XReg) (w : Word) : (sl.wx r w).kscratch = sl.kscratch := by unfold Slot.wx; split <;> rfl
@[simp] theorem Slot.wx_asid (sl : Slot) (r : XReg) (w : Word) : (sl.wx r w).asid = sl.asid := by unfold Slot.wx; split <;> rfl
@[simp] theorem Slot.wx_ptbase (sl : Slot) (r : XReg) (w : Word) : (sl.wx r w).ptbase = sl.ptbase := by unfold Slot.wx; split <;> rfl
@[simp] theorem Slot.wx_teamctx (sl : Slot) (r : XReg) (w : Word) : (sl.wx r w).teamctx = sl.teamctx := by unfold Slot.wx; split <;> rfl
@[simp] theorem Slot.wx_safeb (sl : Slot) (r : XReg) (w : Word) : (sl.wx r w).safeb = sl.safeb := by unfold Slot.wx; split <;> rfl
@[simp] theorem Slot.wx_ien (sl : Slot) (r : XReg) (w : Word) : (sl.wx r w).ien = sl.ien := by unfold Slot.wx; split <;> rfl
@[simp] theorem Slot.wx_preqReq (sl : Slot) (r : XReg) (w : Word) : (sl.wx r w).preqReq = sl.preqReq := by unfold Slot.wx; split <;> rfl
@[simp] theorem Slot.wx_instants (sl : Slot) (r : XReg) (w : Word) : (sl.wx r w).instants = sl.instants := by unfold Slot.wx; split <;> rfl
@[simp] theorem Slot.wx_winbase (sl : Slot) (r : XReg) (w : Word) : (sl.wx r w).winbase = sl.winbase := by unfold Slot.wx; split <;> rfl
@[simp] theorem Slot.wx_winlen (sl : Slot) (r : XReg) (w : Word) : (sl.wx r w).winlen = sl.winlen := by unfold Slot.wx; split <;> rfl
@[simp] theorem Slot.wx_mstatus (sl : Slot) (r : XReg) (w : Word) : (sl.wx r w).mstatus = sl.mstatus := by unfold Slot.wx; split <;> rfl
@[simp] theorem Slot.wx_mcause (sl : Slot) (r : XReg) (w : Word) : (sl.wx r w).mcause = sl.mcause := by unfold Slot.wx; split <;> rfl
@[simp] theorem Slot.wx_mepc (sl : Slot) (r : XReg) (w : Word) : (sl.wx r w).mepc = sl.mepc := by unfold Slot.wx; split <;> rfl
@[simp] theorem Slot.wx_mvec (sl : Slot) (r : XReg) (w : Word) : (sl.wx r w).mvec = sl.mvec := by unfold Slot.wx; split <;> rfl
@[simp] theorem Slot.wx_dmapIdx (sl : Slot) (r : XReg) (w : Word) : (sl.wx r w).dmapIdx = sl.dmapIdx := by unfold Slot.wx; split <;> rfl
@[simp] theorem Slot.wx_spCount (sl : Slot) (r : XReg) (w : Word) : (sl.wx r w).spCount = sl.spCount := by unfold Slot.wx; split <;> rfl
@[simp] theorem Slot.wx_safeAt (sl : Slot) (r : XReg) (w : Word) : (sl.wx r w).safeAt = sl.safeAt := by unfold Slot.wx; split <;> rfl
@[simp] theorem Slot.wx_due (sl : Slot) (r : XReg) (w : Word) : (sl.wx r w).due = sl.due := by unfold Slot.wx; split <;> rfl
@[simp] theorem Slot.wx_sliceAt (sl : Slot) (r : XReg) (w : Word) : (sl.wx r w).sliceAt = sl.sliceAt := by unfold Slot.wx; split <;> rfl
@[simp] theorem Slot.wx_timerAt (sl : Slot) (r : XReg) (w : Word) : (sl.wx r w).timerAt = sl.timerAt := by unfold Slot.wx; split <;> rfl
@[simp] theorem Slot.wx_pending (sl : Slot) (r : XReg) (w : Word) : (sl.wx r w).pending = sl.pending := by unfold Slot.wx; split <;> rfl
@[simp] theorem Slot.wx_mcast (sl : Slot) (r : XReg) (w : Word) : (sl.wx r w).mcast = sl.mcast := by unfold Slot.wx; split <;> rfl
@[simp] theorem Slot.wx_openCopies (sl : Slot) (r : XReg) (w : Word) : (sl.wx r w).openCopies = sl.openCopies := by unfold Slot.wx; split <;> rfl
@[simp] theorem Slot.wx_batches (sl : Slot) (r : XReg) (w : Word) : (sl.wx r w).batches = sl.batches := by unfold Slot.wx; split <;> rfl
@[simp] theorem Slot.wx_barRec (sl : Slot) (r : XReg) (w : Word) : (sl.wx r w).barRec = sl.barRec := by unfold Slot.wx; split <;> rfl
@[simp] theorem Slot.wx_streams (sl : Slot) (r : XReg) (w : Word) : (sl.wx r w).streams = sl.streams := by unfold Slot.wx; split <;> rfl
@[simp] theorem Slot.wx_qksf (sl : Slot) (r : XReg) (w : Word) : (sl.wx r w).qksf = sl.qksf := by unfold Slot.wx; split <;> rfl
@[simp] theorem Slot.wx_fifos (sl : Slot) (r : XReg) (w : Word) : (sl.wx r w).fifos = sl.fifos := by unfold Slot.wx; split <;> rfl
@[simp] theorem Slot.wx_brq (sl : Slot) (r : XReg) (w : Word) : (sl.wx r w).brq = sl.brq := by unfold Slot.wx; split <;> rfl
@[simp] theorem Slot.wx_doms (sl : Slot) (r : XReg) (w : Word) : (sl.wx r w).doms = sl.doms := by unfold Slot.wx; split <;> rfl
@[simp] theorem Slot.wx_domSerial (sl : Slot) (r : XReg) (w : Word) : (sl.wx r w).domSerial = sl.domSerial := by unfold Slot.wx; split <;> rfl
@[simp] theorem Slot.wx_cdEsc (sl : Slot) (r : XReg) (w : Word) : (sl.wx r w).cdEsc = sl.cdEsc := by unfold Slot.wx; split <;> rfl
@[simp] theorem Slot.wx_cdRetry (sl : Slot) (r : XReg) (w : Word) : (sl.wx r w).cdRetry = sl.cdRetry := by unfold Slot.wx; split <;> rfl
@[simp] theorem Slot.wx_cdLcause (sl : Slot) (r : XReg) (w : Word) : (sl.wx r w).cdLcause = sl.cdLcause := by unfold Slot.wx; split <;> rfl
@[simp] theorem Slot.wx_cdLdepth (sl : Slot) (r : XReg) (w : Word) : (sl.wx r w).cdLdepth = sl.cdLdepth := by unfold Slot.wx; split <;> rfl
@[simp] theorem Slot.wx_heldAbort (sl : Slot) (r : XReg) (w : Word) : (sl.wx r w).heldAbort = sl.heldAbort := by unfold Slot.wx; split <;> rfl
@[simp] theorem Slot.wx_delegSeq (sl : Slot) (r : XReg) (w : Word) : (sl.wx r w).delegSeq = sl.delegSeq := by unfold Slot.wx; split <;> rfl
@[simp] theorem Slot.wx_barWait (sl : Slot) (r : XReg) (w : Word) : (sl.wx r w).barWait = sl.barWait := by unfold Slot.wx; split <;> rfl
@[simp] theorem Slot.wx_follow (sl : Slot) (r : XReg) (w : Word) : (sl.wx r w).follow = sl.follow := by unfold Slot.wx; split <;> rfl
@[simp] theorem Slot.wx_savedAway (sl : Slot) (r : XReg) (w : Word) : (sl.wx r w).savedAway = sl.savedAway := by unfold Slot.wx; split <;> rfl
@[simp] theorem Slot.wx_refusals (sl : Slot) (r : XReg) (w : Word) : (sl.wx r w).refusals = sl.refusals := by unfold Slot.wx; split <;> rfl
@[simp] theorem Slot.wx_retryAt (sl : Slot) (r : XReg) (w : Word) : (sl.wx r w).retryAt = sl.retryAt := by unfold Slot.wx; split <;> rfl
@[simp] theorem Slot.wx_frame (sl : Slot) (r : XReg) (w : Word) : (sl.wx r w).frame = sl.frame := by unfold Slot.wx; split <;> rfl
@[simp] theorem Slot.wx_saved (sl : Slot) (r : XReg) (w : Word) : (sl.wx r w).saved = sl.saved := by unfold Slot.wx; split <;> rfl
@[simp] theorem Slot.wx_ckArr (sl : Slot) (r : XReg) (w : Word) : (sl.wx r w).ckArr = sl.ckArr := by unfold Slot.wx; split <;> rfl

/-! ### Slot.wv -/
@[simp] theorem Slot.wv_x (sl : Slot) (r : VReg) (w : VWord) : (sl.wv r w).x = sl.x := rfl
@[simp] theorem Slot.wv_p (sl : Slot) (r : VReg) (w : VWord) : (sl.wv r w).p = sl.p := rfl
@[simp] theorem Slot.wv_pc (sl : Slot) (r : VReg) (w : VWord) : (sl.wv r w).pc = sl.pc := rfl
@[simp] theorem Slot.wv_level (sl : Slot) (r : VReg) (w : VWord) : (sl.wv r w).level = sl.level := rfl
@[simp] theorem Slot.wv_status (sl : Slot) (r : VReg) (w : VWord) : (sl.wv r w).status = sl.status := rfl
@[simp] theorem Slot.wv_running (sl : Slot) (r : VReg) (w : VWord) : (sl.wv r w).running = sl.running := rfl
@[simp] theorem Slot.wv_trav (sl : Slot) (r : VReg) (w : VWord) : (sl.wv r w).trav = sl.trav := rfl
@[simp] theorem Slot.wv_fmt (sl : Slot) (r : VReg) (w : VWord) : (sl.wv r w).fmt = sl.fmt := rfl
@[simp] theorem Slot.wv_sptra (sl : Slot) (r : VReg) (w : VWord) : (sl.wv r w).sptra = sl.sptra := rfl
@[simp] theorem Slot.wv_sptrb (sl : Slot) (r : VReg) (w : VWord) : (sl.wv r w).sptrb = sl.sptrb := rfl
@[simp] theorem Slot.wv_rnd (sl : Slot) (r : VReg) (w : VWord) : (sl.wv r w).rnd = sl.rnd := rfl
@[simp] theorem Slot.wv_fflags (sl : Slot) (r : VReg) (w : VWord) : (sl.wv r w).fflags = sl.fflags := rfl
@[simp] theorem Slot.wv_loopc (sl : Slot) (r : VReg) (w : VWord) : (sl.wv r w).loopc = sl.loopc := rfl
@[simp] theorem Slot.wv_loops (sl : Slot) (r : VReg) (w : VWord) : (sl.wv r w).loops = sl.loops := rfl
@[simp] theorem Slot.wv_loope (sl : Slot) (r : VReg) (w : VWord) : (sl.wv r w).loope = sl.loope := rfl
@[simp] theorem Slot.wv_qbind (sl : Slot) (r : VReg) (w : VWord) : (sl.wv r w).qbind = sl.qbind := rfl
@[simp] theorem Slot.wv_dxe (sl : Slot) (r : VReg) (w : VWord) : (sl.wv r w).dxe = sl.dxe := rfl
@[simp] theorem Slot.wv_bsrd (sl : Slot) (r : VReg) (w : VWord) : (sl.wv r w).bsrd = sl.bsrd := rfl
@[simp] theorem Slot.wv_bswr (sl : Slot) (r : VReg) (w : VWord) : (sl.wv r w).bswr = sl.bswr := rfl
@[simp] theorem Slot.wv_sprio (sl : Slot) (r : VReg) (w : VWord) : (sl.wv r w).sprio = sl.sprio := rfl
@[simp] theorem Slot.wv_cbatch (sl : Slot) (r : VReg) (w : VWord) : (sl.wv r w).cbatch = sl.cbatch := rfl
@[simp] theorem Slot.wv_ckchk (sl : Slot) (r : VReg) (w : VWord) : (sl.wv r w).ckchk = sl.ckchk := rfl
@[simp] theorem Slot.wv_step (sl : Slot) (r : VReg) (w : VWord) : (sl.wv r w).step = sl.step := rfl
@[simp] theorem Slot.wv_leaderc (sl : Slot) (r : VReg) (w : VWord) : (sl.wv r w).leaderc = sl.leaderc := rfl
@[simp] theorem Slot.wv_coord (sl : Slot) (r : VReg) (w : VWord) : (sl.wv r w).coord = sl.coord := rfl
@[simp] theorem Slot.wv_teamid (sl : Slot) (r : VReg) (w : VWord) : (sl.wv r w).teamid = sl.teamid := rfl
@[simp] theorem Slot.wv_shape (sl : Slot) (r : VReg) (w : VWord) : (sl.wv r w).shape = sl.shape := rfl
@[simp] theorem Slot.wv_cdlvl (sl : Slot) (r : VReg) (w : VWord) : (sl.wv r w).cdlvl = sl.cdlvl := rfl
@[simp] theorem Slot.wv_errc (sl : Slot) (r : VReg) (w : VWord) : (sl.wv r w).errc = sl.errc := rfl
@[simp] theorem Slot.wv_kstatus (sl : Slot) (r : VReg) (w : VWord) : (sl.wv r w).kstatus = sl.kstatus := rfl
@[simp] theorem Slot.wv_kcause (sl : Slot) (r : VReg) (w : VWord) : (sl.wv r w).kcause = sl.kcause := rfl
@[simp] theorem Slot.wv_kepc (sl : Slot) (r : VReg) (w : VWord) : (sl.wv r w).kepc = sl.kepc := rfl
@[simp] theorem Slot.wv_ktval (sl : Slot) (r : VReg) (w : VWord) : (sl.wv r w).ktval = sl.ktval := rfl
@[simp] theorem Slot.wv_ktval2 (sl : Slot) (r : VReg) (w : VWord) : (sl.wv r w).ktval2 = sl.ktval2 := rfl
@[simp] theorem Slot.wv_kvec (sl : Slot) (r : VReg) (w : VWord) : (sl.wv r w).kvec = sl.kvec := rfl
@[simp] theorem Slot.wv_kscratch (sl : Slot) (r : VReg) (w : VWord) : (sl.wv r w).kscratch = sl.kscratch := rfl
@[simp] theorem Slot.wv_asid (sl : Slot) (r : VReg) (w : VWord) : (sl.wv r w).asid = sl.asid := rfl
@[simp] theorem Slot.wv_ptbase (sl : Slot) (r : VReg) (w : VWord) : (sl.wv r w).ptbase = sl.ptbase := rfl
@[simp] theorem Slot.wv_teamctx (sl : Slot) (r : VReg) (w : VWord) : (sl.wv r w).teamctx = sl.teamctx := rfl
@[simp] theorem Slot.wv_safeb (sl : Slot) (r : VReg) (w : VWord) : (sl.wv r w).safeb = sl.safeb := rfl
@[simp] theorem Slot.wv_ien (sl : Slot) (r : VReg) (w : VWord) : (sl.wv r w).ien = sl.ien := rfl
@[simp] theorem Slot.wv_preqReq (sl : Slot) (r : VReg) (w : VWord) : (sl.wv r w).preqReq = sl.preqReq := rfl
@[simp] theorem Slot.wv_instants (sl : Slot) (r : VReg) (w : VWord) : (sl.wv r w).instants = sl.instants := rfl
@[simp] theorem Slot.wv_winbase (sl : Slot) (r : VReg) (w : VWord) : (sl.wv r w).winbase = sl.winbase := rfl
@[simp] theorem Slot.wv_winlen (sl : Slot) (r : VReg) (w : VWord) : (sl.wv r w).winlen = sl.winlen := rfl
@[simp] theorem Slot.wv_mstatus (sl : Slot) (r : VReg) (w : VWord) : (sl.wv r w).mstatus = sl.mstatus := rfl
@[simp] theorem Slot.wv_mcause (sl : Slot) (r : VReg) (w : VWord) : (sl.wv r w).mcause = sl.mcause := rfl
@[simp] theorem Slot.wv_mepc (sl : Slot) (r : VReg) (w : VWord) : (sl.wv r w).mepc = sl.mepc := rfl
@[simp] theorem Slot.wv_mvec (sl : Slot) (r : VReg) (w : VWord) : (sl.wv r w).mvec = sl.mvec := rfl
@[simp] theorem Slot.wv_dmapIdx (sl : Slot) (r : VReg) (w : VWord) : (sl.wv r w).dmapIdx = sl.dmapIdx := rfl
@[simp] theorem Slot.wv_spCount (sl : Slot) (r : VReg) (w : VWord) : (sl.wv r w).spCount = sl.spCount := rfl
@[simp] theorem Slot.wv_safeAt (sl : Slot) (r : VReg) (w : VWord) : (sl.wv r w).safeAt = sl.safeAt := rfl
@[simp] theorem Slot.wv_due (sl : Slot) (r : VReg) (w : VWord) : (sl.wv r w).due = sl.due := rfl
@[simp] theorem Slot.wv_sliceAt (sl : Slot) (r : VReg) (w : VWord) : (sl.wv r w).sliceAt = sl.sliceAt := rfl
@[simp] theorem Slot.wv_timerAt (sl : Slot) (r : VReg) (w : VWord) : (sl.wv r w).timerAt = sl.timerAt := rfl
@[simp] theorem Slot.wv_pending (sl : Slot) (r : VReg) (w : VWord) : (sl.wv r w).pending = sl.pending := rfl
@[simp] theorem Slot.wv_mcast (sl : Slot) (r : VReg) (w : VWord) : (sl.wv r w).mcast = sl.mcast := rfl
@[simp] theorem Slot.wv_openCopies (sl : Slot) (r : VReg) (w : VWord) : (sl.wv r w).openCopies = sl.openCopies := rfl
@[simp] theorem Slot.wv_batches (sl : Slot) (r : VReg) (w : VWord) : (sl.wv r w).batches = sl.batches := rfl
@[simp] theorem Slot.wv_barRec (sl : Slot) (r : VReg) (w : VWord) : (sl.wv r w).barRec = sl.barRec := rfl
@[simp] theorem Slot.wv_streams (sl : Slot) (r : VReg) (w : VWord) : (sl.wv r w).streams = sl.streams := rfl
@[simp] theorem Slot.wv_qksf (sl : Slot) (r : VReg) (w : VWord) : (sl.wv r w).qksf = sl.qksf := rfl
@[simp] theorem Slot.wv_fifos (sl : Slot) (r : VReg) (w : VWord) : (sl.wv r w).fifos = sl.fifos := rfl
@[simp] theorem Slot.wv_brq (sl : Slot) (r : VReg) (w : VWord) : (sl.wv r w).brq = sl.brq := rfl
@[simp] theorem Slot.wv_doms (sl : Slot) (r : VReg) (w : VWord) : (sl.wv r w).doms = sl.doms := rfl
@[simp] theorem Slot.wv_domSerial (sl : Slot) (r : VReg) (w : VWord) : (sl.wv r w).domSerial = sl.domSerial := rfl
@[simp] theorem Slot.wv_cdEsc (sl : Slot) (r : VReg) (w : VWord) : (sl.wv r w).cdEsc = sl.cdEsc := rfl
@[simp] theorem Slot.wv_cdRetry (sl : Slot) (r : VReg) (w : VWord) : (sl.wv r w).cdRetry = sl.cdRetry := rfl
@[simp] theorem Slot.wv_cdLcause (sl : Slot) (r : VReg) (w : VWord) : (sl.wv r w).cdLcause = sl.cdLcause := rfl
@[simp] theorem Slot.wv_cdLdepth (sl : Slot) (r : VReg) (w : VWord) : (sl.wv r w).cdLdepth = sl.cdLdepth := rfl
@[simp] theorem Slot.wv_heldAbort (sl : Slot) (r : VReg) (w : VWord) : (sl.wv r w).heldAbort = sl.heldAbort := rfl
@[simp] theorem Slot.wv_delegSeq (sl : Slot) (r : VReg) (w : VWord) : (sl.wv r w).delegSeq = sl.delegSeq := rfl
@[simp] theorem Slot.wv_follow (sl : Slot) (r : VReg) (w : VWord) : (sl.wv r w).follow = sl.follow := rfl
@[simp] theorem Slot.wv_savedAway (sl : Slot) (r : VReg) (w : VWord) : (sl.wv r w).savedAway = sl.savedAway := rfl
@[simp] theorem Slot.wv_refusals (sl : Slot) (r : VReg) (w : VWord) : (sl.wv r w).refusals = sl.refusals := rfl
@[simp] theorem Slot.wv_retryAt (sl : Slot) (r : VReg) (w : VWord) : (sl.wv r w).retryAt = sl.retryAt := rfl
@[simp] theorem Slot.wv_frame (sl : Slot) (r : VReg) (w : VWord) : (sl.wv r w).frame = sl.frame := rfl
@[simp] theorem Slot.wv_saved (sl : Slot) (r : VReg) (w : VWord) : (sl.wv r w).saved = sl.saved := rfl
@[simp] theorem Slot.wv_ckArr (sl : Slot) (r : VReg) (w : VWord) : (sl.wv r w).ckArr = sl.ckArr := rfl
@[simp] theorem Slot.wv_barWait (sl : Slot) (r : VReg) (w : VWord) : (sl.wv r w).barWait = sl.barWait := rfl
@[simp] theorem Slot.wv_traps (sl : Slot) (r : VReg) (w : VWord) : (sl.wv r w).traps = sl.traps := rfl

/-! ### Slot.wp -/
@[simp] theorem Slot.wp_x (sl : Slot) (r : PReg) (w : PWord) : (sl.wp r w).x = sl.x := rfl
@[simp] theorem Slot.wp_v (sl : Slot) (r : PReg) (w : PWord) : (sl.wp r w).v = sl.v := rfl
@[simp] theorem Slot.wp_pc (sl : Slot) (r : PReg) (w : PWord) : (sl.wp r w).pc = sl.pc := rfl
@[simp] theorem Slot.wp_level (sl : Slot) (r : PReg) (w : PWord) : (sl.wp r w).level = sl.level := rfl
@[simp] theorem Slot.wp_status (sl : Slot) (r : PReg) (w : PWord) : (sl.wp r w).status = sl.status := rfl
@[simp] theorem Slot.wp_running (sl : Slot) (r : PReg) (w : PWord) : (sl.wp r w).running = sl.running := rfl
@[simp] theorem Slot.wp_trav (sl : Slot) (r : PReg) (w : PWord) : (sl.wp r w).trav = sl.trav := rfl
@[simp] theorem Slot.wp_fmt (sl : Slot) (r : PReg) (w : PWord) : (sl.wp r w).fmt = sl.fmt := rfl
@[simp] theorem Slot.wp_sptra (sl : Slot) (r : PReg) (w : PWord) : (sl.wp r w).sptra = sl.sptra := rfl
@[simp] theorem Slot.wp_sptrb (sl : Slot) (r : PReg) (w : PWord) : (sl.wp r w).sptrb = sl.sptrb := rfl
@[simp] theorem Slot.wp_rnd (sl : Slot) (r : PReg) (w : PWord) : (sl.wp r w).rnd = sl.rnd := rfl
@[simp] theorem Slot.wp_fflags (sl : Slot) (r : PReg) (w : PWord) : (sl.wp r w).fflags = sl.fflags := rfl
@[simp] theorem Slot.wp_loopc (sl : Slot) (r : PReg) (w : PWord) : (sl.wp r w).loopc = sl.loopc := rfl
@[simp] theorem Slot.wp_loops (sl : Slot) (r : PReg) (w : PWord) : (sl.wp r w).loops = sl.loops := rfl
@[simp] theorem Slot.wp_loope (sl : Slot) (r : PReg) (w : PWord) : (sl.wp r w).loope = sl.loope := rfl
@[simp] theorem Slot.wp_qbind (sl : Slot) (r : PReg) (w : PWord) : (sl.wp r w).qbind = sl.qbind := rfl
@[simp] theorem Slot.wp_dxe (sl : Slot) (r : PReg) (w : PWord) : (sl.wp r w).dxe = sl.dxe := rfl
@[simp] theorem Slot.wp_bsrd (sl : Slot) (r : PReg) (w : PWord) : (sl.wp r w).bsrd = sl.bsrd := rfl
@[simp] theorem Slot.wp_bswr (sl : Slot) (r : PReg) (w : PWord) : (sl.wp r w).bswr = sl.bswr := rfl
@[simp] theorem Slot.wp_sprio (sl : Slot) (r : PReg) (w : PWord) : (sl.wp r w).sprio = sl.sprio := rfl
@[simp] theorem Slot.wp_cbatch (sl : Slot) (r : PReg) (w : PWord) : (sl.wp r w).cbatch = sl.cbatch := rfl
@[simp] theorem Slot.wp_ckchk (sl : Slot) (r : PReg) (w : PWord) : (sl.wp r w).ckchk = sl.ckchk := rfl
@[simp] theorem Slot.wp_step (sl : Slot) (r : PReg) (w : PWord) : (sl.wp r w).step = sl.step := rfl
@[simp] theorem Slot.wp_leaderc (sl : Slot) (r : PReg) (w : PWord) : (sl.wp r w).leaderc = sl.leaderc := rfl
@[simp] theorem Slot.wp_coord (sl : Slot) (r : PReg) (w : PWord) : (sl.wp r w).coord = sl.coord := rfl
@[simp] theorem Slot.wp_teamid (sl : Slot) (r : PReg) (w : PWord) : (sl.wp r w).teamid = sl.teamid := rfl
@[simp] theorem Slot.wp_shape (sl : Slot) (r : PReg) (w : PWord) : (sl.wp r w).shape = sl.shape := rfl
@[simp] theorem Slot.wp_cdlvl (sl : Slot) (r : PReg) (w : PWord) : (sl.wp r w).cdlvl = sl.cdlvl := rfl
@[simp] theorem Slot.wp_errc (sl : Slot) (r : PReg) (w : PWord) : (sl.wp r w).errc = sl.errc := rfl
@[simp] theorem Slot.wp_kstatus (sl : Slot) (r : PReg) (w : PWord) : (sl.wp r w).kstatus = sl.kstatus := rfl
@[simp] theorem Slot.wp_kcause (sl : Slot) (r : PReg) (w : PWord) : (sl.wp r w).kcause = sl.kcause := rfl
@[simp] theorem Slot.wp_kepc (sl : Slot) (r : PReg) (w : PWord) : (sl.wp r w).kepc = sl.kepc := rfl
@[simp] theorem Slot.wp_ktval (sl : Slot) (r : PReg) (w : PWord) : (sl.wp r w).ktval = sl.ktval := rfl
@[simp] theorem Slot.wp_ktval2 (sl : Slot) (r : PReg) (w : PWord) : (sl.wp r w).ktval2 = sl.ktval2 := rfl
@[simp] theorem Slot.wp_kvec (sl : Slot) (r : PReg) (w : PWord) : (sl.wp r w).kvec = sl.kvec := rfl
@[simp] theorem Slot.wp_kscratch (sl : Slot) (r : PReg) (w : PWord) : (sl.wp r w).kscratch = sl.kscratch := rfl
@[simp] theorem Slot.wp_asid (sl : Slot) (r : PReg) (w : PWord) : (sl.wp r w).asid = sl.asid := rfl
@[simp] theorem Slot.wp_ptbase (sl : Slot) (r : PReg) (w : PWord) : (sl.wp r w).ptbase = sl.ptbase := rfl
@[simp] theorem Slot.wp_teamctx (sl : Slot) (r : PReg) (w : PWord) : (sl.wp r w).teamctx = sl.teamctx := rfl
@[simp] theorem Slot.wp_safeb (sl : Slot) (r : PReg) (w : PWord) : (sl.wp r w).safeb = sl.safeb := rfl
@[simp] theorem Slot.wp_ien (sl : Slot) (r : PReg) (w : PWord) : (sl.wp r w).ien = sl.ien := rfl
@[simp] theorem Slot.wp_preqReq (sl : Slot) (r : PReg) (w : PWord) : (sl.wp r w).preqReq = sl.preqReq := rfl
@[simp] theorem Slot.wp_instants (sl : Slot) (r : PReg) (w : PWord) : (sl.wp r w).instants = sl.instants := rfl
@[simp] theorem Slot.wp_winbase (sl : Slot) (r : PReg) (w : PWord) : (sl.wp r w).winbase = sl.winbase := rfl
@[simp] theorem Slot.wp_winlen (sl : Slot) (r : PReg) (w : PWord) : (sl.wp r w).winlen = sl.winlen := rfl
@[simp] theorem Slot.wp_mstatus (sl : Slot) (r : PReg) (w : PWord) : (sl.wp r w).mstatus = sl.mstatus := rfl
@[simp] theorem Slot.wp_mcause (sl : Slot) (r : PReg) (w : PWord) : (sl.wp r w).mcause = sl.mcause := rfl
@[simp] theorem Slot.wp_mepc (sl : Slot) (r : PReg) (w : PWord) : (sl.wp r w).mepc = sl.mepc := rfl
@[simp] theorem Slot.wp_mvec (sl : Slot) (r : PReg) (w : PWord) : (sl.wp r w).mvec = sl.mvec := rfl
@[simp] theorem Slot.wp_dmapIdx (sl : Slot) (r : PReg) (w : PWord) : (sl.wp r w).dmapIdx = sl.dmapIdx := rfl
@[simp] theorem Slot.wp_spCount (sl : Slot) (r : PReg) (w : PWord) : (sl.wp r w).spCount = sl.spCount := rfl
@[simp] theorem Slot.wp_safeAt (sl : Slot) (r : PReg) (w : PWord) : (sl.wp r w).safeAt = sl.safeAt := rfl
@[simp] theorem Slot.wp_due (sl : Slot) (r : PReg) (w : PWord) : (sl.wp r w).due = sl.due := rfl
@[simp] theorem Slot.wp_sliceAt (sl : Slot) (r : PReg) (w : PWord) : (sl.wp r w).sliceAt = sl.sliceAt := rfl
@[simp] theorem Slot.wp_timerAt (sl : Slot) (r : PReg) (w : PWord) : (sl.wp r w).timerAt = sl.timerAt := rfl
@[simp] theorem Slot.wp_pending (sl : Slot) (r : PReg) (w : PWord) : (sl.wp r w).pending = sl.pending := rfl
@[simp] theorem Slot.wp_mcast (sl : Slot) (r : PReg) (w : PWord) : (sl.wp r w).mcast = sl.mcast := rfl
@[simp] theorem Slot.wp_openCopies (sl : Slot) (r : PReg) (w : PWord) : (sl.wp r w).openCopies = sl.openCopies := rfl
@[simp] theorem Slot.wp_batches (sl : Slot) (r : PReg) (w : PWord) : (sl.wp r w).batches = sl.batches := rfl
@[simp] theorem Slot.wp_barRec (sl : Slot) (r : PReg) (w : PWord) : (sl.wp r w).barRec = sl.barRec := rfl
@[simp] theorem Slot.wp_streams (sl : Slot) (r : PReg) (w : PWord) : (sl.wp r w).streams = sl.streams := rfl
@[simp] theorem Slot.wp_qksf (sl : Slot) (r : PReg) (w : PWord) : (sl.wp r w).qksf = sl.qksf := rfl
@[simp] theorem Slot.wp_fifos (sl : Slot) (r : PReg) (w : PWord) : (sl.wp r w).fifos = sl.fifos := rfl
@[simp] theorem Slot.wp_brq (sl : Slot) (r : PReg) (w : PWord) : (sl.wp r w).brq = sl.brq := rfl
@[simp] theorem Slot.wp_doms (sl : Slot) (r : PReg) (w : PWord) : (sl.wp r w).doms = sl.doms := rfl
@[simp] theorem Slot.wp_domSerial (sl : Slot) (r : PReg) (w : PWord) : (sl.wp r w).domSerial = sl.domSerial := rfl
@[simp] theorem Slot.wp_cdEsc (sl : Slot) (r : PReg) (w : PWord) : (sl.wp r w).cdEsc = sl.cdEsc := rfl
@[simp] theorem Slot.wp_cdRetry (sl : Slot) (r : PReg) (w : PWord) : (sl.wp r w).cdRetry = sl.cdRetry := rfl
@[simp] theorem Slot.wp_cdLcause (sl : Slot) (r : PReg) (w : PWord) : (sl.wp r w).cdLcause = sl.cdLcause := rfl
@[simp] theorem Slot.wp_cdLdepth (sl : Slot) (r : PReg) (w : PWord) : (sl.wp r w).cdLdepth = sl.cdLdepth := rfl
@[simp] theorem Slot.wp_heldAbort (sl : Slot) (r : PReg) (w : PWord) : (sl.wp r w).heldAbort = sl.heldAbort := rfl
@[simp] theorem Slot.wp_delegSeq (sl : Slot) (r : PReg) (w : PWord) : (sl.wp r w).delegSeq = sl.delegSeq := rfl
@[simp] theorem Slot.wp_follow (sl : Slot) (r : PReg) (w : PWord) : (sl.wp r w).follow = sl.follow := rfl
@[simp] theorem Slot.wp_savedAway (sl : Slot) (r : PReg) (w : PWord) : (sl.wp r w).savedAway = sl.savedAway := rfl
@[simp] theorem Slot.wp_refusals (sl : Slot) (r : PReg) (w : PWord) : (sl.wp r w).refusals = sl.refusals := rfl
@[simp] theorem Slot.wp_retryAt (sl : Slot) (r : PReg) (w : PWord) : (sl.wp r w).retryAt = sl.retryAt := rfl
@[simp] theorem Slot.wp_frame (sl : Slot) (r : PReg) (w : PWord) : (sl.wp r w).frame = sl.frame := rfl
@[simp] theorem Slot.wp_saved (sl : Slot) (r : PReg) (w : PWord) : (sl.wp r w).saved = sl.saved := rfl
@[simp] theorem Slot.wp_ckArr (sl : Slot) (r : PReg) (w : PWord) : (sl.wp r w).ckArr = sl.ckArr := rfl
@[simp] theorem Slot.wp_barWait (sl : Slot) (r : PReg) (w : PWord) : (sl.wp r w).barWait = sl.barWait := rfl
@[simp] theorem Slot.wp_traps (sl : Slot) (r : PReg) (w : PWord) : (sl.wp r w).traps = sl.traps := rfl

/-! ### Slot.orFlags -/
@[simp] theorem Slot.orFlags_x (sl : Slot) (g : BitVec 6) : (sl.orFlags g).x = sl.x := rfl
@[simp] theorem Slot.orFlags_v (sl : Slot) (g : BitVec 6) : (sl.orFlags g).v = sl.v := rfl
@[simp] theorem Slot.orFlags_p (sl : Slot) (g : BitVec 6) : (sl.orFlags g).p = sl.p := rfl
@[simp] theorem Slot.orFlags_pc (sl : Slot) (g : BitVec 6) : (sl.orFlags g).pc = sl.pc := rfl
@[simp] theorem Slot.orFlags_level (sl : Slot) (g : BitVec 6) : (sl.orFlags g).level = sl.level := rfl
@[simp] theorem Slot.orFlags_status (sl : Slot) (g : BitVec 6) : (sl.orFlags g).status = sl.status := rfl
@[simp] theorem Slot.orFlags_running (sl : Slot) (g : BitVec 6) : (sl.orFlags g).running = sl.running := rfl
@[simp] theorem Slot.orFlags_trav (sl : Slot) (g : BitVec 6) : (sl.orFlags g).trav = sl.trav := rfl
@[simp] theorem Slot.orFlags_fmt (sl : Slot) (g : BitVec 6) : (sl.orFlags g).fmt = sl.fmt := rfl
@[simp] theorem Slot.orFlags_sptra (sl : Slot) (g : BitVec 6) : (sl.orFlags g).sptra = sl.sptra := rfl
@[simp] theorem Slot.orFlags_sptrb (sl : Slot) (g : BitVec 6) : (sl.orFlags g).sptrb = sl.sptrb := rfl
@[simp] theorem Slot.orFlags_rnd (sl : Slot) (g : BitVec 6) : (sl.orFlags g).rnd = sl.rnd := rfl
@[simp] theorem Slot.orFlags_loopc (sl : Slot) (g : BitVec 6) : (sl.orFlags g).loopc = sl.loopc := rfl
@[simp] theorem Slot.orFlags_loops (sl : Slot) (g : BitVec 6) : (sl.orFlags g).loops = sl.loops := rfl
@[simp] theorem Slot.orFlags_loope (sl : Slot) (g : BitVec 6) : (sl.orFlags g).loope = sl.loope := rfl
@[simp] theorem Slot.orFlags_qbind (sl : Slot) (g : BitVec 6) : (sl.orFlags g).qbind = sl.qbind := rfl
@[simp] theorem Slot.orFlags_dxe (sl : Slot) (g : BitVec 6) : (sl.orFlags g).dxe = sl.dxe := rfl
@[simp] theorem Slot.orFlags_bsrd (sl : Slot) (g : BitVec 6) : (sl.orFlags g).bsrd = sl.bsrd := rfl
@[simp] theorem Slot.orFlags_bswr (sl : Slot) (g : BitVec 6) : (sl.orFlags g).bswr = sl.bswr := rfl
@[simp] theorem Slot.orFlags_sprio (sl : Slot) (g : BitVec 6) : (sl.orFlags g).sprio = sl.sprio := rfl
@[simp] theorem Slot.orFlags_cbatch (sl : Slot) (g : BitVec 6) : (sl.orFlags g).cbatch = sl.cbatch := rfl
@[simp] theorem Slot.orFlags_ckchk (sl : Slot) (g : BitVec 6) : (sl.orFlags g).ckchk = sl.ckchk := rfl
@[simp] theorem Slot.orFlags_step (sl : Slot) (g : BitVec 6) : (sl.orFlags g).step = sl.step := rfl
@[simp] theorem Slot.orFlags_leaderc (sl : Slot) (g : BitVec 6) : (sl.orFlags g).leaderc = sl.leaderc := rfl
@[simp] theorem Slot.orFlags_coord (sl : Slot) (g : BitVec 6) : (sl.orFlags g).coord = sl.coord := rfl
@[simp] theorem Slot.orFlags_teamid (sl : Slot) (g : BitVec 6) : (sl.orFlags g).teamid = sl.teamid := rfl
@[simp] theorem Slot.orFlags_shape (sl : Slot) (g : BitVec 6) : (sl.orFlags g).shape = sl.shape := rfl
@[simp] theorem Slot.orFlags_cdlvl (sl : Slot) (g : BitVec 6) : (sl.orFlags g).cdlvl = sl.cdlvl := rfl
@[simp] theorem Slot.orFlags_errc (sl : Slot) (g : BitVec 6) : (sl.orFlags g).errc = sl.errc := rfl
@[simp] theorem Slot.orFlags_kstatus (sl : Slot) (g : BitVec 6) : (sl.orFlags g).kstatus = sl.kstatus := rfl
@[simp] theorem Slot.orFlags_kcause (sl : Slot) (g : BitVec 6) : (sl.orFlags g).kcause = sl.kcause := rfl
@[simp] theorem Slot.orFlags_kepc (sl : Slot) (g : BitVec 6) : (sl.orFlags g).kepc = sl.kepc := rfl
@[simp] theorem Slot.orFlags_ktval (sl : Slot) (g : BitVec 6) : (sl.orFlags g).ktval = sl.ktval := rfl
@[simp] theorem Slot.orFlags_ktval2 (sl : Slot) (g : BitVec 6) : (sl.orFlags g).ktval2 = sl.ktval2 := rfl
@[simp] theorem Slot.orFlags_kvec (sl : Slot) (g : BitVec 6) : (sl.orFlags g).kvec = sl.kvec := rfl
@[simp] theorem Slot.orFlags_kscratch (sl : Slot) (g : BitVec 6) : (sl.orFlags g).kscratch = sl.kscratch := rfl
@[simp] theorem Slot.orFlags_asid (sl : Slot) (g : BitVec 6) : (sl.orFlags g).asid = sl.asid := rfl
@[simp] theorem Slot.orFlags_ptbase (sl : Slot) (g : BitVec 6) : (sl.orFlags g).ptbase = sl.ptbase := rfl
@[simp] theorem Slot.orFlags_teamctx (sl : Slot) (g : BitVec 6) : (sl.orFlags g).teamctx = sl.teamctx := rfl
@[simp] theorem Slot.orFlags_safeb (sl : Slot) (g : BitVec 6) : (sl.orFlags g).safeb = sl.safeb := rfl
@[simp] theorem Slot.orFlags_ien (sl : Slot) (g : BitVec 6) : (sl.orFlags g).ien = sl.ien := rfl
@[simp] theorem Slot.orFlags_preqReq (sl : Slot) (g : BitVec 6) : (sl.orFlags g).preqReq = sl.preqReq := rfl
@[simp] theorem Slot.orFlags_instants (sl : Slot) (g : BitVec 6) : (sl.orFlags g).instants = sl.instants := rfl
@[simp] theorem Slot.orFlags_winbase (sl : Slot) (g : BitVec 6) : (sl.orFlags g).winbase = sl.winbase := rfl
@[simp] theorem Slot.orFlags_winlen (sl : Slot) (g : BitVec 6) : (sl.orFlags g).winlen = sl.winlen := rfl
@[simp] theorem Slot.orFlags_mstatus (sl : Slot) (g : BitVec 6) : (sl.orFlags g).mstatus = sl.mstatus := rfl
@[simp] theorem Slot.orFlags_mcause (sl : Slot) (g : BitVec 6) : (sl.orFlags g).mcause = sl.mcause := rfl
@[simp] theorem Slot.orFlags_mepc (sl : Slot) (g : BitVec 6) : (sl.orFlags g).mepc = sl.mepc := rfl
@[simp] theorem Slot.orFlags_mvec (sl : Slot) (g : BitVec 6) : (sl.orFlags g).mvec = sl.mvec := rfl
@[simp] theorem Slot.orFlags_dmapIdx (sl : Slot) (g : BitVec 6) : (sl.orFlags g).dmapIdx = sl.dmapIdx := rfl
@[simp] theorem Slot.orFlags_spCount (sl : Slot) (g : BitVec 6) : (sl.orFlags g).spCount = sl.spCount := rfl
@[simp] theorem Slot.orFlags_safeAt (sl : Slot) (g : BitVec 6) : (sl.orFlags g).safeAt = sl.safeAt := rfl
@[simp] theorem Slot.orFlags_due (sl : Slot) (g : BitVec 6) : (sl.orFlags g).due = sl.due := rfl
@[simp] theorem Slot.orFlags_sliceAt (sl : Slot) (g : BitVec 6) : (sl.orFlags g).sliceAt = sl.sliceAt := rfl
@[simp] theorem Slot.orFlags_timerAt (sl : Slot) (g : BitVec 6) : (sl.orFlags g).timerAt = sl.timerAt := rfl
@[simp] theorem Slot.orFlags_pending (sl : Slot) (g : BitVec 6) : (sl.orFlags g).pending = sl.pending := rfl
@[simp] theorem Slot.orFlags_mcast (sl : Slot) (g : BitVec 6) : (sl.orFlags g).mcast = sl.mcast := rfl
@[simp] theorem Slot.orFlags_openCopies (sl : Slot) (g : BitVec 6) : (sl.orFlags g).openCopies = sl.openCopies := rfl
@[simp] theorem Slot.orFlags_batches (sl : Slot) (g : BitVec 6) : (sl.orFlags g).batches = sl.batches := rfl
@[simp] theorem Slot.orFlags_barRec (sl : Slot) (g : BitVec 6) : (sl.orFlags g).barRec = sl.barRec := rfl
@[simp] theorem Slot.orFlags_streams (sl : Slot) (g : BitVec 6) : (sl.orFlags g).streams = sl.streams := rfl
@[simp] theorem Slot.orFlags_qksf (sl : Slot) (g : BitVec 6) : (sl.orFlags g).qksf = sl.qksf := rfl
@[simp] theorem Slot.orFlags_fifos (sl : Slot) (g : BitVec 6) : (sl.orFlags g).fifos = sl.fifos := rfl
@[simp] theorem Slot.orFlags_brq (sl : Slot) (g : BitVec 6) : (sl.orFlags g).brq = sl.brq := rfl
@[simp] theorem Slot.orFlags_doms (sl : Slot) (g : BitVec 6) : (sl.orFlags g).doms = sl.doms := rfl
@[simp] theorem Slot.orFlags_domSerial (sl : Slot) (g : BitVec 6) : (sl.orFlags g).domSerial = sl.domSerial := rfl
@[simp] theorem Slot.orFlags_cdEsc (sl : Slot) (g : BitVec 6) : (sl.orFlags g).cdEsc = sl.cdEsc := rfl
@[simp] theorem Slot.orFlags_cdRetry (sl : Slot) (g : BitVec 6) : (sl.orFlags g).cdRetry = sl.cdRetry := rfl
@[simp] theorem Slot.orFlags_cdLcause (sl : Slot) (g : BitVec 6) : (sl.orFlags g).cdLcause = sl.cdLcause := rfl
@[simp] theorem Slot.orFlags_cdLdepth (sl : Slot) (g : BitVec 6) : (sl.orFlags g).cdLdepth = sl.cdLdepth := rfl
@[simp] theorem Slot.orFlags_heldAbort (sl : Slot) (g : BitVec 6) : (sl.orFlags g).heldAbort = sl.heldAbort := rfl
@[simp] theorem Slot.orFlags_delegSeq (sl : Slot) (g : BitVec 6) : (sl.orFlags g).delegSeq = sl.delegSeq := rfl
@[simp] theorem Slot.orFlags_follow (sl : Slot) (g : BitVec 6) : (sl.orFlags g).follow = sl.follow := rfl
@[simp] theorem Slot.orFlags_savedAway (sl : Slot) (g : BitVec 6) : (sl.orFlags g).savedAway = sl.savedAway := rfl
@[simp] theorem Slot.orFlags_refusals (sl : Slot) (g : BitVec 6) : (sl.orFlags g).refusals = sl.refusals := rfl
@[simp] theorem Slot.orFlags_retryAt (sl : Slot) (g : BitVec 6) : (sl.orFlags g).retryAt = sl.retryAt := rfl
@[simp] theorem Slot.orFlags_frame (sl : Slot) (g : BitVec 6) : (sl.orFlags g).frame = sl.frame := rfl
@[simp] theorem Slot.orFlags_saved (sl : Slot) (g : BitVec 6) : (sl.orFlags g).saved = sl.saved := rfl
@[simp] theorem Slot.orFlags_ckArr (sl : Slot) (g : BitVec 6) : (sl.orFlags g).ckArr = sl.ckArr := rfl
@[simp] theorem Slot.orFlags_barWait (sl : Slot) (g : BitVec 6) : (sl.orFlags g).barWait = sl.barWait := rfl
@[simp] theorem Slot.orFlags_traps (sl : Slot) (g : BitVec 6) : (sl.orFlags g).traps = sl.traps := rfl

/-! ### Slot.retireTo -/
@[simp] theorem Slot.retireTo_x (sl : Slot) (a : Word) : (sl.retireTo a).x = sl.x := rfl
@[simp] theorem Slot.retireTo_v (sl : Slot) (a : Word) : (sl.retireTo a).v = sl.v := rfl
@[simp] theorem Slot.retireTo_p (sl : Slot) (a : Word) : (sl.retireTo a).p = sl.p := rfl
@[simp] theorem Slot.retireTo_level (sl : Slot) (a : Word) : (sl.retireTo a).level = sl.level := rfl
@[simp] theorem Slot.retireTo_running (sl : Slot) (a : Word) : (sl.retireTo a).running = sl.running := rfl
@[simp] theorem Slot.retireTo_trav (sl : Slot) (a : Word) : (sl.retireTo a).trav = sl.trav := rfl
@[simp] theorem Slot.retireTo_fmt (sl : Slot) (a : Word) : (sl.retireTo a).fmt = sl.fmt := rfl
@[simp] theorem Slot.retireTo_sptra (sl : Slot) (a : Word) : (sl.retireTo a).sptra = sl.sptra := rfl
@[simp] theorem Slot.retireTo_sptrb (sl : Slot) (a : Word) : (sl.retireTo a).sptrb = sl.sptrb := rfl
@[simp] theorem Slot.retireTo_rnd (sl : Slot) (a : Word) : (sl.retireTo a).rnd = sl.rnd := rfl
@[simp] theorem Slot.retireTo_fflags (sl : Slot) (a : Word) : (sl.retireTo a).fflags = sl.fflags := rfl
@[simp] theorem Slot.retireTo_loopc (sl : Slot) (a : Word) : (sl.retireTo a).loopc = sl.loopc := rfl
@[simp] theorem Slot.retireTo_loops (sl : Slot) (a : Word) : (sl.retireTo a).loops = sl.loops := rfl
@[simp] theorem Slot.retireTo_loope (sl : Slot) (a : Word) : (sl.retireTo a).loope = sl.loope := rfl
@[simp] theorem Slot.retireTo_qbind (sl : Slot) (a : Word) : (sl.retireTo a).qbind = sl.qbind := rfl
@[simp] theorem Slot.retireTo_dxe (sl : Slot) (a : Word) : (sl.retireTo a).dxe = sl.dxe := rfl
@[simp] theorem Slot.retireTo_bsrd (sl : Slot) (a : Word) : (sl.retireTo a).bsrd = sl.bsrd := rfl
@[simp] theorem Slot.retireTo_bswr (sl : Slot) (a : Word) : (sl.retireTo a).bswr = sl.bswr := rfl
@[simp] theorem Slot.retireTo_sprio (sl : Slot) (a : Word) : (sl.retireTo a).sprio = sl.sprio := rfl
@[simp] theorem Slot.retireTo_cbatch (sl : Slot) (a : Word) : (sl.retireTo a).cbatch = sl.cbatch := rfl
@[simp] theorem Slot.retireTo_ckchk (sl : Slot) (a : Word) : (sl.retireTo a).ckchk = sl.ckchk := rfl
@[simp] theorem Slot.retireTo_step (sl : Slot) (a : Word) : (sl.retireTo a).step = sl.step := rfl
@[simp] theorem Slot.retireTo_leaderc (sl : Slot) (a : Word) : (sl.retireTo a).leaderc = sl.leaderc := rfl
@[simp] theorem Slot.retireTo_coord (sl : Slot) (a : Word) : (sl.retireTo a).coord = sl.coord := rfl
@[simp] theorem Slot.retireTo_teamid (sl : Slot) (a : Word) : (sl.retireTo a).teamid = sl.teamid := rfl
@[simp] theorem Slot.retireTo_shape (sl : Slot) (a : Word) : (sl.retireTo a).shape = sl.shape := rfl
@[simp] theorem Slot.retireTo_cdlvl (sl : Slot) (a : Word) : (sl.retireTo a).cdlvl = sl.cdlvl := rfl
@[simp] theorem Slot.retireTo_errc (sl : Slot) (a : Word) : (sl.retireTo a).errc = sl.errc := rfl
@[simp] theorem Slot.retireTo_kstatus (sl : Slot) (a : Word) : (sl.retireTo a).kstatus = sl.kstatus := rfl
@[simp] theorem Slot.retireTo_kcause (sl : Slot) (a : Word) : (sl.retireTo a).kcause = sl.kcause := rfl
@[simp] theorem Slot.retireTo_kepc (sl : Slot) (a : Word) : (sl.retireTo a).kepc = sl.kepc := rfl
@[simp] theorem Slot.retireTo_ktval (sl : Slot) (a : Word) : (sl.retireTo a).ktval = sl.ktval := rfl
@[simp] theorem Slot.retireTo_ktval2 (sl : Slot) (a : Word) : (sl.retireTo a).ktval2 = sl.ktval2 := rfl
@[simp] theorem Slot.retireTo_kvec (sl : Slot) (a : Word) : (sl.retireTo a).kvec = sl.kvec := rfl
@[simp] theorem Slot.retireTo_kscratch (sl : Slot) (a : Word) : (sl.retireTo a).kscratch = sl.kscratch := rfl
@[simp] theorem Slot.retireTo_asid (sl : Slot) (a : Word) : (sl.retireTo a).asid = sl.asid := rfl
@[simp] theorem Slot.retireTo_ptbase (sl : Slot) (a : Word) : (sl.retireTo a).ptbase = sl.ptbase := rfl
@[simp] theorem Slot.retireTo_teamctx (sl : Slot) (a : Word) : (sl.retireTo a).teamctx = sl.teamctx := rfl
@[simp] theorem Slot.retireTo_safeb (sl : Slot) (a : Word) : (sl.retireTo a).safeb = sl.safeb := rfl
@[simp] theorem Slot.retireTo_ien (sl : Slot) (a : Word) : (sl.retireTo a).ien = sl.ien := rfl
@[simp] theorem Slot.retireTo_preqReq (sl : Slot) (a : Word) : (sl.retireTo a).preqReq = sl.preqReq := rfl
@[simp] theorem Slot.retireTo_instants (sl : Slot) (a : Word) : (sl.retireTo a).instants = sl.instants := rfl
@[simp] theorem Slot.retireTo_winbase (sl : Slot) (a : Word) : (sl.retireTo a).winbase = sl.winbase := rfl
@[simp] theorem Slot.retireTo_winlen (sl : Slot) (a : Word) : (sl.retireTo a).winlen = sl.winlen := rfl
@[simp] theorem Slot.retireTo_mstatus (sl : Slot) (a : Word) : (sl.retireTo a).mstatus = sl.mstatus := rfl
@[simp] theorem Slot.retireTo_mcause (sl : Slot) (a : Word) : (sl.retireTo a).mcause = sl.mcause := rfl
@[simp] theorem Slot.retireTo_mepc (sl : Slot) (a : Word) : (sl.retireTo a).mepc = sl.mepc := rfl
@[simp] theorem Slot.retireTo_mvec (sl : Slot) (a : Word) : (sl.retireTo a).mvec = sl.mvec := rfl
@[simp] theorem Slot.retireTo_dmapIdx (sl : Slot) (a : Word) : (sl.retireTo a).dmapIdx = sl.dmapIdx := rfl
@[simp] theorem Slot.retireTo_spCount (sl : Slot) (a : Word) : (sl.retireTo a).spCount = sl.spCount := rfl
@[simp] theorem Slot.retireTo_due (sl : Slot) (a : Word) : (sl.retireTo a).due = sl.due := rfl
@[simp] theorem Slot.retireTo_sliceAt (sl : Slot) (a : Word) : (sl.retireTo a).sliceAt = sl.sliceAt := rfl
@[simp] theorem Slot.retireTo_timerAt (sl : Slot) (a : Word) : (sl.retireTo a).timerAt = sl.timerAt := rfl
@[simp] theorem Slot.retireTo_pending (sl : Slot) (a : Word) : (sl.retireTo a).pending = sl.pending := rfl
@[simp] theorem Slot.retireTo_mcast (sl : Slot) (a : Word) : (sl.retireTo a).mcast = sl.mcast := rfl
@[simp] theorem Slot.retireTo_openCopies (sl : Slot) (a : Word) : (sl.retireTo a).openCopies = sl.openCopies := rfl
@[simp] theorem Slot.retireTo_batches (sl : Slot) (a : Word) : (sl.retireTo a).batches = sl.batches := rfl
@[simp] theorem Slot.retireTo_barRec (sl : Slot) (a : Word) : (sl.retireTo a).barRec = sl.barRec := rfl
@[simp] theorem Slot.retireTo_streams (sl : Slot) (a : Word) : (sl.retireTo a).streams = sl.streams := rfl
@[simp] theorem Slot.retireTo_qksf (sl : Slot) (a : Word) : (sl.retireTo a).qksf = sl.qksf := rfl
@[simp] theorem Slot.retireTo_fifos (sl : Slot) (a : Word) : (sl.retireTo a).fifos = sl.fifos := rfl
@[simp] theorem Slot.retireTo_brq (sl : Slot) (a : Word) : (sl.retireTo a).brq = sl.brq := rfl
@[simp] theorem Slot.retireTo_doms (sl : Slot) (a : Word) : (sl.retireTo a).doms = sl.doms := rfl
@[simp] theorem Slot.retireTo_domSerial (sl : Slot) (a : Word) : (sl.retireTo a).domSerial = sl.domSerial := rfl
@[simp] theorem Slot.retireTo_cdEsc (sl : Slot) (a : Word) : (sl.retireTo a).cdEsc = sl.cdEsc := rfl
@[simp] theorem Slot.retireTo_cdRetry (sl : Slot) (a : Word) : (sl.retireTo a).cdRetry = sl.cdRetry := rfl
@[simp] theorem Slot.retireTo_cdLcause (sl : Slot) (a : Word) : (sl.retireTo a).cdLcause = sl.cdLcause := rfl
@[simp] theorem Slot.retireTo_cdLdepth (sl : Slot) (a : Word) : (sl.retireTo a).cdLdepth = sl.cdLdepth := rfl
@[simp] theorem Slot.retireTo_heldAbort (sl : Slot) (a : Word) : (sl.retireTo a).heldAbort = sl.heldAbort := rfl
@[simp] theorem Slot.retireTo_delegSeq (sl : Slot) (a : Word) : (sl.retireTo a).delegSeq = sl.delegSeq := rfl
@[simp] theorem Slot.retireTo_follow (sl : Slot) (a : Word) : (sl.retireTo a).follow = sl.follow := rfl
@[simp] theorem Slot.retireTo_savedAway (sl : Slot) (a : Word) : (sl.retireTo a).savedAway = sl.savedAway := rfl
@[simp] theorem Slot.retireTo_refusals (sl : Slot) (a : Word) : (sl.retireTo a).refusals = sl.refusals := rfl
@[simp] theorem Slot.retireTo_retryAt (sl : Slot) (a : Word) : (sl.retireTo a).retryAt = sl.retryAt := rfl
@[simp] theorem Slot.retireTo_frame (sl : Slot) (a : Word) : (sl.retireTo a).frame = sl.frame := rfl
@[simp] theorem Slot.retireTo_saved (sl : Slot) (a : Word) : (sl.retireTo a).saved = sl.saved := rfl
@[simp] theorem Slot.retireTo_ckArr (sl : Slot) (a : Word) : (sl.retireTo a).ckArr = sl.ckArr := rfl
@[simp] theorem Slot.retireTo_barWait (sl : Slot) (a : Word) : (sl.retireTo a).barWait = sl.barWait := rfl
@[simp] theorem Slot.retireTo_traps (sl : Slot) (a : Word) : (sl.retireTo a).traps = sl.traps := rfl

/-! ### Slot.retire -/
@[simp] theorem Slot.retire_x (sl : Slot) : (sl.retire).x = sl.x := by unfold Slot.retire; split <;> rfl
@[simp] theorem Slot.retire_v (sl : Slot) : (sl.retire).v = sl.v := by unfold Slot.retire; split <;> rfl
@[simp] theorem Slot.retire_p (sl : Slot) : (sl.retire).p = sl.p := by unfold Slot.retire; split <;> rfl
@[simp] theorem Slot.retire_level (sl : Slot) : (sl.retire).level = sl.level := by unfold Slot.retire; split <;> rfl
@[simp] theorem Slot.retire_running (sl : Slot) : (sl.retire).running = sl.running := by unfold Slot.retire; split <;> rfl
@[simp] theorem Slot.retire_trav (sl : Slot) : (sl.retire).trav = sl.trav := by unfold Slot.retire; split <;> rfl
@[simp] theorem Slot.retire_fmt (sl : Slot) : (sl.retire).fmt = sl.fmt := by unfold Slot.retire; split <;> rfl
@[simp] theorem Slot.retire_sptra (sl : Slot) : (sl.retire).sptra = sl.sptra := by unfold Slot.retire; split <;> rfl
@[simp] theorem Slot.retire_sptrb (sl : Slot) : (sl.retire).sptrb = sl.sptrb := by unfold Slot.retire; split <;> rfl
@[simp] theorem Slot.retire_rnd (sl : Slot) : (sl.retire).rnd = sl.rnd := by unfold Slot.retire; split <;> rfl
@[simp] theorem Slot.retire_fflags (sl : Slot) : (sl.retire).fflags = sl.fflags := by unfold Slot.retire; split <;> rfl
@[simp] theorem Slot.retire_loops (sl : Slot) : (sl.retire).loops = sl.loops := by unfold Slot.retire; split <;> rfl
@[simp] theorem Slot.retire_loope (sl : Slot) : (sl.retire).loope = sl.loope := by unfold Slot.retire; split <;> rfl
@[simp] theorem Slot.retire_qbind (sl : Slot) : (sl.retire).qbind = sl.qbind := by unfold Slot.retire; split <;> rfl
@[simp] theorem Slot.retire_dxe (sl : Slot) : (sl.retire).dxe = sl.dxe := by unfold Slot.retire; split <;> rfl
@[simp] theorem Slot.retire_bsrd (sl : Slot) : (sl.retire).bsrd = sl.bsrd := by unfold Slot.retire; split <;> rfl
@[simp] theorem Slot.retire_bswr (sl : Slot) : (sl.retire).bswr = sl.bswr := by unfold Slot.retire; split <;> rfl
@[simp] theorem Slot.retire_sprio (sl : Slot) : (sl.retire).sprio = sl.sprio := by unfold Slot.retire; split <;> rfl
@[simp] theorem Slot.retire_cbatch (sl : Slot) : (sl.retire).cbatch = sl.cbatch := by unfold Slot.retire; split <;> rfl
@[simp] theorem Slot.retire_ckchk (sl : Slot) : (sl.retire).ckchk = sl.ckchk := by unfold Slot.retire; split <;> rfl
@[simp] theorem Slot.retire_step (sl : Slot) : (sl.retire).step = sl.step := by unfold Slot.retire; split <;> rfl
@[simp] theorem Slot.retire_leaderc (sl : Slot) : (sl.retire).leaderc = sl.leaderc := by unfold Slot.retire; split <;> rfl
@[simp] theorem Slot.retire_coord (sl : Slot) : (sl.retire).coord = sl.coord := by unfold Slot.retire; split <;> rfl
@[simp] theorem Slot.retire_teamid (sl : Slot) : (sl.retire).teamid = sl.teamid := by unfold Slot.retire; split <;> rfl
@[simp] theorem Slot.retire_shape (sl : Slot) : (sl.retire).shape = sl.shape := by unfold Slot.retire; split <;> rfl
@[simp] theorem Slot.retire_cdlvl (sl : Slot) : (sl.retire).cdlvl = sl.cdlvl := by unfold Slot.retire; split <;> rfl
@[simp] theorem Slot.retire_errc (sl : Slot) : (sl.retire).errc = sl.errc := by unfold Slot.retire; split <;> rfl
@[simp] theorem Slot.retire_kstatus (sl : Slot) : (sl.retire).kstatus = sl.kstatus := by unfold Slot.retire; split <;> rfl
@[simp] theorem Slot.retire_kcause (sl : Slot) : (sl.retire).kcause = sl.kcause := by unfold Slot.retire; split <;> rfl
@[simp] theorem Slot.retire_kepc (sl : Slot) : (sl.retire).kepc = sl.kepc := by unfold Slot.retire; split <;> rfl
@[simp] theorem Slot.retire_ktval (sl : Slot) : (sl.retire).ktval = sl.ktval := by unfold Slot.retire; split <;> rfl
@[simp] theorem Slot.retire_ktval2 (sl : Slot) : (sl.retire).ktval2 = sl.ktval2 := by unfold Slot.retire; split <;> rfl
@[simp] theorem Slot.retire_kvec (sl : Slot) : (sl.retire).kvec = sl.kvec := by unfold Slot.retire; split <;> rfl
@[simp] theorem Slot.retire_kscratch (sl : Slot) : (sl.retire).kscratch = sl.kscratch := by unfold Slot.retire; split <;> rfl
@[simp] theorem Slot.retire_asid (sl : Slot) : (sl.retire).asid = sl.asid := by unfold Slot.retire; split <;> rfl
@[simp] theorem Slot.retire_ptbase (sl : Slot) : (sl.retire).ptbase = sl.ptbase := by unfold Slot.retire; split <;> rfl
@[simp] theorem Slot.retire_teamctx (sl : Slot) : (sl.retire).teamctx = sl.teamctx := by unfold Slot.retire; split <;> rfl
@[simp] theorem Slot.retire_safeb (sl : Slot) : (sl.retire).safeb = sl.safeb := by unfold Slot.retire; split <;> rfl
@[simp] theorem Slot.retire_ien (sl : Slot) : (sl.retire).ien = sl.ien := by unfold Slot.retire; split <;> rfl
@[simp] theorem Slot.retire_preqReq (sl : Slot) : (sl.retire).preqReq = sl.preqReq := by unfold Slot.retire; split <;> rfl
@[simp] theorem Slot.retire_instants (sl : Slot) : (sl.retire).instants = sl.instants := by unfold Slot.retire; split <;> rfl
@[simp] theorem Slot.retire_winbase (sl : Slot) : (sl.retire).winbase = sl.winbase := by unfold Slot.retire; split <;> rfl
@[simp] theorem Slot.retire_winlen (sl : Slot) : (sl.retire).winlen = sl.winlen := by unfold Slot.retire; split <;> rfl
@[simp] theorem Slot.retire_mstatus (sl : Slot) : (sl.retire).mstatus = sl.mstatus := by unfold Slot.retire; split <;> rfl
@[simp] theorem Slot.retire_mcause (sl : Slot) : (sl.retire).mcause = sl.mcause := by unfold Slot.retire; split <;> rfl
@[simp] theorem Slot.retire_mepc (sl : Slot) : (sl.retire).mepc = sl.mepc := by unfold Slot.retire; split <;> rfl
@[simp] theorem Slot.retire_mvec (sl : Slot) : (sl.retire).mvec = sl.mvec := by unfold Slot.retire; split <;> rfl
@[simp] theorem Slot.retire_dmapIdx (sl : Slot) : (sl.retire).dmapIdx = sl.dmapIdx := by unfold Slot.retire; split <;> rfl
@[simp] theorem Slot.retire_spCount (sl : Slot) : (sl.retire).spCount = sl.spCount := by unfold Slot.retire; split <;> rfl
@[simp] theorem Slot.retire_due (sl : Slot) : (sl.retire).due = sl.due := by unfold Slot.retire; split <;> rfl
@[simp] theorem Slot.retire_sliceAt (sl : Slot) : (sl.retire).sliceAt = sl.sliceAt := by unfold Slot.retire; split <;> rfl
@[simp] theorem Slot.retire_timerAt (sl : Slot) : (sl.retire).timerAt = sl.timerAt := by unfold Slot.retire; split <;> rfl
@[simp] theorem Slot.retire_pending (sl : Slot) : (sl.retire).pending = sl.pending := by unfold Slot.retire; split <;> rfl
@[simp] theorem Slot.retire_mcast (sl : Slot) : (sl.retire).mcast = sl.mcast := by unfold Slot.retire; split <;> rfl
@[simp] theorem Slot.retire_openCopies (sl : Slot) : (sl.retire).openCopies = sl.openCopies := by unfold Slot.retire; split <;> rfl
@[simp] theorem Slot.retire_batches (sl : Slot) : (sl.retire).batches = sl.batches := by unfold Slot.retire; split <;> rfl
@[simp] theorem Slot.retire_barRec (sl : Slot) : (sl.retire).barRec = sl.barRec := by unfold Slot.retire; split <;> rfl
@[simp] theorem Slot.retire_streams (sl : Slot) : (sl.retire).streams = sl.streams := by unfold Slot.retire; split <;> rfl
@[simp] theorem Slot.retire_qksf (sl : Slot) : (sl.retire).qksf = sl.qksf := by unfold Slot.retire; split <;> rfl
@[simp] theorem Slot.retire_fifos (sl : Slot) : (sl.retire).fifos = sl.fifos := by unfold Slot.retire; split <;> rfl
@[simp] theorem Slot.retire_brq (sl : Slot) : (sl.retire).brq = sl.brq := by unfold Slot.retire; split <;> rfl
@[simp] theorem Slot.retire_doms (sl : Slot) : (sl.retire).doms = sl.doms := by unfold Slot.retire; split <;> rfl
@[simp] theorem Slot.retire_domSerial (sl : Slot) : (sl.retire).domSerial = sl.domSerial := by unfold Slot.retire; split <;> rfl
@[simp] theorem Slot.retire_cdEsc (sl : Slot) : (sl.retire).cdEsc = sl.cdEsc := by unfold Slot.retire; split <;> rfl
@[simp] theorem Slot.retire_cdRetry (sl : Slot) : (sl.retire).cdRetry = sl.cdRetry := by unfold Slot.retire; split <;> rfl
@[simp] theorem Slot.retire_cdLcause (sl : Slot) : (sl.retire).cdLcause = sl.cdLcause := by unfold Slot.retire; split <;> rfl
@[simp] theorem Slot.retire_cdLdepth (sl : Slot) : (sl.retire).cdLdepth = sl.cdLdepth := by unfold Slot.retire; split <;> rfl
@[simp] theorem Slot.retire_heldAbort (sl : Slot) : (sl.retire).heldAbort = sl.heldAbort := by unfold Slot.retire; split <;> rfl
@[simp] theorem Slot.retire_delegSeq (sl : Slot) : (sl.retire).delegSeq = sl.delegSeq := by unfold Slot.retire; split <;> rfl
@[simp] theorem Slot.retire_barWait (sl : Slot) : (sl.retire).barWait = sl.barWait := by unfold Slot.retire; split <;> rfl
@[simp] theorem Slot.retire_follow (sl : Slot) : (sl.retire).follow = sl.follow := by unfold Slot.retire; split <;> rfl
@[simp] theorem Slot.retire_savedAway (sl : Slot) : (sl.retire).savedAway = sl.savedAway := by unfold Slot.retire; split <;> rfl
@[simp] theorem Slot.retire_refusals (sl : Slot) : (sl.retire).refusals = sl.refusals := by unfold Slot.retire; split <;> rfl
@[simp] theorem Slot.retire_retryAt (sl : Slot) : (sl.retire).retryAt = sl.retryAt := by unfold Slot.retire; split <;> rfl
@[simp] theorem Slot.retire_frame (sl : Slot) : (sl.retire).frame = sl.frame := by unfold Slot.retire; split <;> rfl
@[simp] theorem Slot.retire_saved (sl : Slot) : (sl.retire).saved = sl.saved := by unfold Slot.retire; split <;> rfl
@[simp] theorem Slot.retire_ckArr (sl : Slot) : (sl.retire).ckArr = sl.ckArr := by unfold Slot.retire; split <;> rfl

/-! ### Slot.parkRetry -/
@[simp] theorem Slot.parkRetry_x (sl : Slot) (b : Bool) : (sl.parkRetry b).x = sl.x := rfl
@[simp] theorem Slot.parkRetry_v (sl : Slot) (b : Bool) : (sl.parkRetry b).v = sl.v := rfl
@[simp] theorem Slot.parkRetry_p (sl : Slot) (b : Bool) : (sl.parkRetry b).p = sl.p := rfl
@[simp] theorem Slot.parkRetry_pc (sl : Slot) (b : Bool) : (sl.parkRetry b).pc = sl.pc := rfl
@[simp] theorem Slot.parkRetry_level (sl : Slot) (b : Bool) : (sl.parkRetry b).level = sl.level := rfl
@[simp] theorem Slot.parkRetry_running (sl : Slot) (b : Bool) : (sl.parkRetry b).running = sl.running := rfl
@[simp] theorem Slot.parkRetry_trav (sl : Slot) (b : Bool) : (sl.parkRetry b).trav = sl.trav := rfl
@[simp] theorem Slot.parkRetry_fmt (sl : Slot) (b : Bool) : (sl.parkRetry b).fmt = sl.fmt := rfl
@[simp] theorem Slot.parkRetry_sptra (sl : Slot) (b : Bool) : (sl.parkRetry b).sptra = sl.sptra := rfl
@[simp] theorem Slot.parkRetry_sptrb (sl : Slot) (b : Bool) : (sl.parkRetry b).sptrb = sl.sptrb := rfl
@[simp] theorem Slot.parkRetry_rnd (sl : Slot) (b : Bool) : (sl.parkRetry b).rnd = sl.rnd := rfl
@[simp] theorem Slot.parkRetry_fflags (sl : Slot) (b : Bool) : (sl.parkRetry b).fflags = sl.fflags := rfl
@[simp] theorem Slot.parkRetry_loopc (sl : Slot) (b : Bool) : (sl.parkRetry b).loopc = sl.loopc := rfl
@[simp] theorem Slot.parkRetry_loops (sl : Slot) (b : Bool) : (sl.parkRetry b).loops = sl.loops := rfl
@[simp] theorem Slot.parkRetry_loope (sl : Slot) (b : Bool) : (sl.parkRetry b).loope = sl.loope := rfl
@[simp] theorem Slot.parkRetry_qbind (sl : Slot) (b : Bool) : (sl.parkRetry b).qbind = sl.qbind := rfl
@[simp] theorem Slot.parkRetry_dxe (sl : Slot) (b : Bool) : (sl.parkRetry b).dxe = sl.dxe := rfl
@[simp] theorem Slot.parkRetry_bsrd (sl : Slot) (b : Bool) : (sl.parkRetry b).bsrd = sl.bsrd := rfl
@[simp] theorem Slot.parkRetry_bswr (sl : Slot) (b : Bool) : (sl.parkRetry b).bswr = sl.bswr := rfl
@[simp] theorem Slot.parkRetry_sprio (sl : Slot) (b : Bool) : (sl.parkRetry b).sprio = sl.sprio := rfl
@[simp] theorem Slot.parkRetry_cbatch (sl : Slot) (b : Bool) : (sl.parkRetry b).cbatch = sl.cbatch := rfl
@[simp] theorem Slot.parkRetry_ckchk (sl : Slot) (b : Bool) : (sl.parkRetry b).ckchk = sl.ckchk := rfl
@[simp] theorem Slot.parkRetry_step (sl : Slot) (b : Bool) : (sl.parkRetry b).step = sl.step := rfl
@[simp] theorem Slot.parkRetry_leaderc (sl : Slot) (b : Bool) : (sl.parkRetry b).leaderc = sl.leaderc := rfl
@[simp] theorem Slot.parkRetry_coord (sl : Slot) (b : Bool) : (sl.parkRetry b).coord = sl.coord := rfl
@[simp] theorem Slot.parkRetry_teamid (sl : Slot) (b : Bool) : (sl.parkRetry b).teamid = sl.teamid := rfl
@[simp] theorem Slot.parkRetry_shape (sl : Slot) (b : Bool) : (sl.parkRetry b).shape = sl.shape := rfl
@[simp] theorem Slot.parkRetry_cdlvl (sl : Slot) (b : Bool) : (sl.parkRetry b).cdlvl = sl.cdlvl := rfl
@[simp] theorem Slot.parkRetry_errc (sl : Slot) (b : Bool) : (sl.parkRetry b).errc = sl.errc := rfl
@[simp] theorem Slot.parkRetry_kstatus (sl : Slot) (b : Bool) : (sl.parkRetry b).kstatus = sl.kstatus := rfl
@[simp] theorem Slot.parkRetry_kcause (sl : Slot) (b : Bool) : (sl.parkRetry b).kcause = sl.kcause := rfl
@[simp] theorem Slot.parkRetry_kepc (sl : Slot) (b : Bool) : (sl.parkRetry b).kepc = sl.kepc := rfl
@[simp] theorem Slot.parkRetry_ktval (sl : Slot) (b : Bool) : (sl.parkRetry b).ktval = sl.ktval := rfl
@[simp] theorem Slot.parkRetry_ktval2 (sl : Slot) (b : Bool) : (sl.parkRetry b).ktval2 = sl.ktval2 := rfl
@[simp] theorem Slot.parkRetry_kvec (sl : Slot) (b : Bool) : (sl.parkRetry b).kvec = sl.kvec := rfl
@[simp] theorem Slot.parkRetry_kscratch (sl : Slot) (b : Bool) : (sl.parkRetry b).kscratch = sl.kscratch := rfl
@[simp] theorem Slot.parkRetry_asid (sl : Slot) (b : Bool) : (sl.parkRetry b).asid = sl.asid := rfl
@[simp] theorem Slot.parkRetry_ptbase (sl : Slot) (b : Bool) : (sl.parkRetry b).ptbase = sl.ptbase := rfl
@[simp] theorem Slot.parkRetry_teamctx (sl : Slot) (b : Bool) : (sl.parkRetry b).teamctx = sl.teamctx := rfl
@[simp] theorem Slot.parkRetry_safeb (sl : Slot) (b : Bool) : (sl.parkRetry b).safeb = sl.safeb := rfl
@[simp] theorem Slot.parkRetry_ien (sl : Slot) (b : Bool) : (sl.parkRetry b).ien = sl.ien := rfl
@[simp] theorem Slot.parkRetry_preqReq (sl : Slot) (b : Bool) : (sl.parkRetry b).preqReq = sl.preqReq := rfl
@[simp] theorem Slot.parkRetry_instants (sl : Slot) (b : Bool) : (sl.parkRetry b).instants = sl.instants := rfl
@[simp] theorem Slot.parkRetry_winbase (sl : Slot) (b : Bool) : (sl.parkRetry b).winbase = sl.winbase := rfl
@[simp] theorem Slot.parkRetry_winlen (sl : Slot) (b : Bool) : (sl.parkRetry b).winlen = sl.winlen := rfl
@[simp] theorem Slot.parkRetry_mstatus (sl : Slot) (b : Bool) : (sl.parkRetry b).mstatus = sl.mstatus := rfl
@[simp] theorem Slot.parkRetry_mcause (sl : Slot) (b : Bool) : (sl.parkRetry b).mcause = sl.mcause := rfl
@[simp] theorem Slot.parkRetry_mepc (sl : Slot) (b : Bool) : (sl.parkRetry b).mepc = sl.mepc := rfl
@[simp] theorem Slot.parkRetry_mvec (sl : Slot) (b : Bool) : (sl.parkRetry b).mvec = sl.mvec := rfl
@[simp] theorem Slot.parkRetry_dmapIdx (sl : Slot) (b : Bool) : (sl.parkRetry b).dmapIdx = sl.dmapIdx := rfl
@[simp] theorem Slot.parkRetry_safeAt (sl : Slot) (b : Bool) : (sl.parkRetry b).safeAt = sl.safeAt := rfl
@[simp] theorem Slot.parkRetry_due (sl : Slot) (b : Bool) : (sl.parkRetry b).due = sl.due := rfl
@[simp] theorem Slot.parkRetry_sliceAt (sl : Slot) (b : Bool) : (sl.parkRetry b).sliceAt = sl.sliceAt := rfl
@[simp] theorem Slot.parkRetry_timerAt (sl : Slot) (b : Bool) : (sl.parkRetry b).timerAt = sl.timerAt := rfl
@[simp] theorem Slot.parkRetry_pending (sl : Slot) (b : Bool) : (sl.parkRetry b).pending = sl.pending := rfl
@[simp] theorem Slot.parkRetry_mcast (sl : Slot) (b : Bool) : (sl.parkRetry b).mcast = sl.mcast := rfl
@[simp] theorem Slot.parkRetry_openCopies (sl : Slot) (b : Bool) : (sl.parkRetry b).openCopies = sl.openCopies := rfl
@[simp] theorem Slot.parkRetry_batches (sl : Slot) (b : Bool) : (sl.parkRetry b).batches = sl.batches := rfl
@[simp] theorem Slot.parkRetry_barRec (sl : Slot) (b : Bool) : (sl.parkRetry b).barRec = sl.barRec := rfl
@[simp] theorem Slot.parkRetry_streams (sl : Slot) (b : Bool) : (sl.parkRetry b).streams = sl.streams := rfl
@[simp] theorem Slot.parkRetry_qksf (sl : Slot) (b : Bool) : (sl.parkRetry b).qksf = sl.qksf := rfl
@[simp] theorem Slot.parkRetry_fifos (sl : Slot) (b : Bool) : (sl.parkRetry b).fifos = sl.fifos := rfl
@[simp] theorem Slot.parkRetry_brq (sl : Slot) (b : Bool) : (sl.parkRetry b).brq = sl.brq := rfl
@[simp] theorem Slot.parkRetry_doms (sl : Slot) (b : Bool) : (sl.parkRetry b).doms = sl.doms := rfl
@[simp] theorem Slot.parkRetry_domSerial (sl : Slot) (b : Bool) : (sl.parkRetry b).domSerial = sl.domSerial := rfl
@[simp] theorem Slot.parkRetry_cdEsc (sl : Slot) (b : Bool) : (sl.parkRetry b).cdEsc = sl.cdEsc := rfl
@[simp] theorem Slot.parkRetry_cdRetry (sl : Slot) (b : Bool) : (sl.parkRetry b).cdRetry = sl.cdRetry := rfl
@[simp] theorem Slot.parkRetry_cdLcause (sl : Slot) (b : Bool) : (sl.parkRetry b).cdLcause = sl.cdLcause := rfl
@[simp] theorem Slot.parkRetry_cdLdepth (sl : Slot) (b : Bool) : (sl.parkRetry b).cdLdepth = sl.cdLdepth := rfl
@[simp] theorem Slot.parkRetry_heldAbort (sl : Slot) (b : Bool) : (sl.parkRetry b).heldAbort = sl.heldAbort := rfl
@[simp] theorem Slot.parkRetry_delegSeq (sl : Slot) (b : Bool) : (sl.parkRetry b).delegSeq = sl.delegSeq := rfl
@[simp] theorem Slot.parkRetry_follow (sl : Slot) (b : Bool) : (sl.parkRetry b).follow = sl.follow := rfl
@[simp] theorem Slot.parkRetry_savedAway (sl : Slot) (b : Bool) : (sl.parkRetry b).savedAway = sl.savedAway := rfl
@[simp] theorem Slot.parkRetry_refusals (sl : Slot) (b : Bool) : (sl.parkRetry b).refusals = sl.refusals := rfl
@[simp] theorem Slot.parkRetry_retryAt (sl : Slot) (b : Bool) : (sl.parkRetry b).retryAt = sl.retryAt := rfl
@[simp] theorem Slot.parkRetry_frame (sl : Slot) (b : Bool) : (sl.parkRetry b).frame = sl.frame := rfl
@[simp] theorem Slot.parkRetry_saved (sl : Slot) (b : Bool) : (sl.parkRetry b).saved = sl.saved := rfl
@[simp] theorem Slot.parkRetry_ckArr (sl : Slot) (b : Bool) : (sl.parkRetry b).ckArr = sl.ckArr := rfl
@[simp] theorem Slot.parkRetry_barWait (sl : Slot) (b : Bool) : (sl.parkRetry b).barWait = sl.barWait := rfl
@[simp] theorem Slot.parkRetry_traps (sl : Slot) (b : Bool) : (sl.parkRetry b).traps = sl.traps := rfl

/-! ### Slot.parkOn -/
@[simp] theorem Slot.parkOn_x (sl : Slot) (w : Wait) : (sl.parkOn w).x = sl.x := rfl
@[simp] theorem Slot.parkOn_v (sl : Slot) (w : Wait) : (sl.parkOn w).v = sl.v := rfl
@[simp] theorem Slot.parkOn_p (sl : Slot) (w : Wait) : (sl.parkOn w).p = sl.p := rfl
@[simp] theorem Slot.parkOn_pc (sl : Slot) (w : Wait) : (sl.parkOn w).pc = sl.pc := rfl
@[simp] theorem Slot.parkOn_level (sl : Slot) (w : Wait) : (sl.parkOn w).level = sl.level := rfl
@[simp] theorem Slot.parkOn_running (sl : Slot) (w : Wait) : (sl.parkOn w).running = sl.running := rfl
@[simp] theorem Slot.parkOn_trav (sl : Slot) (w : Wait) : (sl.parkOn w).trav = sl.trav := rfl
@[simp] theorem Slot.parkOn_fmt (sl : Slot) (w : Wait) : (sl.parkOn w).fmt = sl.fmt := rfl
@[simp] theorem Slot.parkOn_sptra (sl : Slot) (w : Wait) : (sl.parkOn w).sptra = sl.sptra := rfl
@[simp] theorem Slot.parkOn_sptrb (sl : Slot) (w : Wait) : (sl.parkOn w).sptrb = sl.sptrb := rfl
@[simp] theorem Slot.parkOn_rnd (sl : Slot) (w : Wait) : (sl.parkOn w).rnd = sl.rnd := rfl
@[simp] theorem Slot.parkOn_fflags (sl : Slot) (w : Wait) : (sl.parkOn w).fflags = sl.fflags := rfl
@[simp] theorem Slot.parkOn_loopc (sl : Slot) (w : Wait) : (sl.parkOn w).loopc = sl.loopc := rfl
@[simp] theorem Slot.parkOn_loops (sl : Slot) (w : Wait) : (sl.parkOn w).loops = sl.loops := rfl
@[simp] theorem Slot.parkOn_loope (sl : Slot) (w : Wait) : (sl.parkOn w).loope = sl.loope := rfl
@[simp] theorem Slot.parkOn_qbind (sl : Slot) (w : Wait) : (sl.parkOn w).qbind = sl.qbind := rfl
@[simp] theorem Slot.parkOn_dxe (sl : Slot) (w : Wait) : (sl.parkOn w).dxe = sl.dxe := rfl
@[simp] theorem Slot.parkOn_bsrd (sl : Slot) (w : Wait) : (sl.parkOn w).bsrd = sl.bsrd := rfl
@[simp] theorem Slot.parkOn_bswr (sl : Slot) (w : Wait) : (sl.parkOn w).bswr = sl.bswr := rfl
@[simp] theorem Slot.parkOn_sprio (sl : Slot) (w : Wait) : (sl.parkOn w).sprio = sl.sprio := rfl
@[simp] theorem Slot.parkOn_cbatch (sl : Slot) (w : Wait) : (sl.parkOn w).cbatch = sl.cbatch := rfl
@[simp] theorem Slot.parkOn_ckchk (sl : Slot) (w : Wait) : (sl.parkOn w).ckchk = sl.ckchk := rfl
@[simp] theorem Slot.parkOn_step (sl : Slot) (w : Wait) : (sl.parkOn w).step = sl.step := rfl
@[simp] theorem Slot.parkOn_leaderc (sl : Slot) (w : Wait) : (sl.parkOn w).leaderc = sl.leaderc := rfl
@[simp] theorem Slot.parkOn_coord (sl : Slot) (w : Wait) : (sl.parkOn w).coord = sl.coord := rfl
@[simp] theorem Slot.parkOn_teamid (sl : Slot) (w : Wait) : (sl.parkOn w).teamid = sl.teamid := rfl
@[simp] theorem Slot.parkOn_shape (sl : Slot) (w : Wait) : (sl.parkOn w).shape = sl.shape := rfl
@[simp] theorem Slot.parkOn_cdlvl (sl : Slot) (w : Wait) : (sl.parkOn w).cdlvl = sl.cdlvl := rfl
@[simp] theorem Slot.parkOn_errc (sl : Slot) (w : Wait) : (sl.parkOn w).errc = sl.errc := rfl
@[simp] theorem Slot.parkOn_kstatus (sl : Slot) (w : Wait) : (sl.parkOn w).kstatus = sl.kstatus := rfl
@[simp] theorem Slot.parkOn_kcause (sl : Slot) (w : Wait) : (sl.parkOn w).kcause = sl.kcause := rfl
@[simp] theorem Slot.parkOn_kepc (sl : Slot) (w : Wait) : (sl.parkOn w).kepc = sl.kepc := rfl
@[simp] theorem Slot.parkOn_ktval (sl : Slot) (w : Wait) : (sl.parkOn w).ktval = sl.ktval := rfl
@[simp] theorem Slot.parkOn_ktval2 (sl : Slot) (w : Wait) : (sl.parkOn w).ktval2 = sl.ktval2 := rfl
@[simp] theorem Slot.parkOn_kvec (sl : Slot) (w : Wait) : (sl.parkOn w).kvec = sl.kvec := rfl
@[simp] theorem Slot.parkOn_kscratch (sl : Slot) (w : Wait) : (sl.parkOn w).kscratch = sl.kscratch := rfl
@[simp] theorem Slot.parkOn_asid (sl : Slot) (w : Wait) : (sl.parkOn w).asid = sl.asid := rfl
@[simp] theorem Slot.parkOn_ptbase (sl : Slot) (w : Wait) : (sl.parkOn w).ptbase = sl.ptbase := rfl
@[simp] theorem Slot.parkOn_teamctx (sl : Slot) (w : Wait) : (sl.parkOn w).teamctx = sl.teamctx := rfl
@[simp] theorem Slot.parkOn_safeb (sl : Slot) (w : Wait) : (sl.parkOn w).safeb = sl.safeb := rfl
@[simp] theorem Slot.parkOn_ien (sl : Slot) (w : Wait) : (sl.parkOn w).ien = sl.ien := rfl
@[simp] theorem Slot.parkOn_preqReq (sl : Slot) (w : Wait) : (sl.parkOn w).preqReq = sl.preqReq := rfl
@[simp] theorem Slot.parkOn_instants (sl : Slot) (w : Wait) : (sl.parkOn w).instants = sl.instants := rfl
@[simp] theorem Slot.parkOn_winbase (sl : Slot) (w : Wait) : (sl.parkOn w).winbase = sl.winbase := rfl
@[simp] theorem Slot.parkOn_winlen (sl : Slot) (w : Wait) : (sl.parkOn w).winlen = sl.winlen := rfl
@[simp] theorem Slot.parkOn_mstatus (sl : Slot) (w : Wait) : (sl.parkOn w).mstatus = sl.mstatus := rfl
@[simp] theorem Slot.parkOn_mcause (sl : Slot) (w : Wait) : (sl.parkOn w).mcause = sl.mcause := rfl
@[simp] theorem Slot.parkOn_mepc (sl : Slot) (w : Wait) : (sl.parkOn w).mepc = sl.mepc := rfl
@[simp] theorem Slot.parkOn_mvec (sl : Slot) (w : Wait) : (sl.parkOn w).mvec = sl.mvec := rfl
@[simp] theorem Slot.parkOn_dmapIdx (sl : Slot) (w : Wait) : (sl.parkOn w).dmapIdx = sl.dmapIdx := rfl
@[simp] theorem Slot.parkOn_safeAt (sl : Slot) (w : Wait) : (sl.parkOn w).safeAt = sl.safeAt := rfl
@[simp] theorem Slot.parkOn_due (sl : Slot) (w : Wait) : (sl.parkOn w).due = sl.due := rfl
@[simp] theorem Slot.parkOn_sliceAt (sl : Slot) (w : Wait) : (sl.parkOn w).sliceAt = sl.sliceAt := rfl
@[simp] theorem Slot.parkOn_timerAt (sl : Slot) (w : Wait) : (sl.parkOn w).timerAt = sl.timerAt := rfl
@[simp] theorem Slot.parkOn_pending (sl : Slot) (w : Wait) : (sl.parkOn w).pending = sl.pending := rfl
@[simp] theorem Slot.parkOn_mcast (sl : Slot) (w : Wait) : (sl.parkOn w).mcast = sl.mcast := rfl
@[simp] theorem Slot.parkOn_openCopies (sl : Slot) (w : Wait) : (sl.parkOn w).openCopies = sl.openCopies := rfl
@[simp] theorem Slot.parkOn_batches (sl : Slot) (w : Wait) : (sl.parkOn w).batches = sl.batches := rfl
@[simp] theorem Slot.parkOn_barRec (sl : Slot) (w : Wait) : (sl.parkOn w).barRec = sl.barRec := rfl
@[simp] theorem Slot.parkOn_streams (sl : Slot) (w : Wait) : (sl.parkOn w).streams = sl.streams := rfl
@[simp] theorem Slot.parkOn_qksf (sl : Slot) (w : Wait) : (sl.parkOn w).qksf = sl.qksf := rfl
@[simp] theorem Slot.parkOn_fifos (sl : Slot) (w : Wait) : (sl.parkOn w).fifos = sl.fifos := rfl
@[simp] theorem Slot.parkOn_brq (sl : Slot) (w : Wait) : (sl.parkOn w).brq = sl.brq := rfl
@[simp] theorem Slot.parkOn_doms (sl : Slot) (w : Wait) : (sl.parkOn w).doms = sl.doms := rfl
@[simp] theorem Slot.parkOn_domSerial (sl : Slot) (w : Wait) : (sl.parkOn w).domSerial = sl.domSerial := rfl
@[simp] theorem Slot.parkOn_cdEsc (sl : Slot) (w : Wait) : (sl.parkOn w).cdEsc = sl.cdEsc := rfl
@[simp] theorem Slot.parkOn_cdRetry (sl : Slot) (w : Wait) : (sl.parkOn w).cdRetry = sl.cdRetry := rfl
@[simp] theorem Slot.parkOn_cdLcause (sl : Slot) (w : Wait) : (sl.parkOn w).cdLcause = sl.cdLcause := rfl
@[simp] theorem Slot.parkOn_cdLdepth (sl : Slot) (w : Wait) : (sl.parkOn w).cdLdepth = sl.cdLdepth := rfl
@[simp] theorem Slot.parkOn_heldAbort (sl : Slot) (w : Wait) : (sl.parkOn w).heldAbort = sl.heldAbort := rfl
@[simp] theorem Slot.parkOn_delegSeq (sl : Slot) (w : Wait) : (sl.parkOn w).delegSeq = sl.delegSeq := rfl
@[simp] theorem Slot.parkOn_follow (sl : Slot) (w : Wait) : (sl.parkOn w).follow = sl.follow := rfl
@[simp] theorem Slot.parkOn_savedAway (sl : Slot) (w : Wait) : (sl.parkOn w).savedAway = sl.savedAway := rfl
@[simp] theorem Slot.parkOn_refusals (sl : Slot) (w : Wait) : (sl.parkOn w).refusals = sl.refusals := rfl
@[simp] theorem Slot.parkOn_retryAt (sl : Slot) (w : Wait) : (sl.parkOn w).retryAt = sl.retryAt := rfl
@[simp] theorem Slot.parkOn_frame (sl : Slot) (w : Wait) : (sl.parkOn w).frame = sl.frame := rfl
@[simp] theorem Slot.parkOn_saved (sl : Slot) (w : Wait) : (sl.parkOn w).saved = sl.saved := rfl
@[simp] theorem Slot.parkOn_ckArr (sl : Slot) (w : Wait) : (sl.parkOn w).ckArr = sl.ckArr := rfl
@[simp] theorem Slot.parkOn_barWait (sl : Slot) (w : Wait) : (sl.parkOn w).barWait = sl.barWait := rfl
@[simp] theorem Slot.parkOn_traps (sl : Slot) (w : Wait) : (sl.parkOn w).traps = sl.traps := rfl

end Sys2Proof.Machine
end

