-- ==== Sys2Proof/Laws/Memory.lean ====
section
/-! SUPPORT. Tables, sorted marks and memory: what a read after a write gives, and that every memory operation keeps the
canonical form. -/

namespace Sys2Proof.Machine

/-! ### Tables -/

@[simp] theorem tget_tset {α : Type} (d : α) (t : List (Nat × α)) (k j : Nat) (v : α) :
    tget d (tset t k v) j = if j = k then v else tget d t j := by
  induction t with
  | nil => simp [tset, tget, eq_comm]
  | cons e r ih =>
    obtain ⟨k', v'⟩ := e
    simp only [tset]
    split
    · simp only [tget, ih]; (repeat' split) <;> first | rfl | omega
    · split
      · simp only [tget]; (repeat' split) <;> first | rfl | omega
      · simp only [tget]; (repeat' split) <;> first | rfl | omega

@[simp] theorem tfind_tset {α : Type} (t : List (Nat × α)) (k j : Nat) (v : α) :
    tfind (tset t k v) j = if j = k then some v else tfind t j := by
  induction t with
  | nil => simp [tset, tfind, eq_comm]
  | cons e r ih =>
    obtain ⟨k', v'⟩ := e
    simp only [tset]
    split
    · simp only [tfind, ih]; (repeat' split) <;> first | rfl | omega
    · split
      · simp only [tfind]; (repeat' split) <;> first | rfl | omega
      · simp only [tfind]; (repeat' split) <;> first | rfl | omega

/-! ### Marks -/

theorem mem_markOn (l : List Nat) (k j : Nat) : j ∈ markOn l k ↔ j = k ∨ j ∈ l := by
  induction l with
  | nil => simp [markOn]
  | cons a r ih =>
    simp only [markOn]
    split
    · simp only [List.mem_cons, ih]; exact ⟨by rintro (h | h | h) <;> simp [h], by rintro (h | h | h) <;> simp [h]⟩
    · split
      · subst_vars; simp
      · simp

@[simp] theorem mem_mark (l : List Nat) (k j : Nat) (on : Bool) : j ∈ mark l k on ↔ (if j = k then on = true else j ∈ l) := by
  cases on
  · simp only [mark, Bool.false_eq_true, if_false, List.mem_filter, bne_iff_ne, ne_eq]
    split <;> simp_all
  · simp only [mark, if_true, mem_markOn]
    split <;> simp_all

@[simp] theorem contains_mark (l : List Nat) (k j : Nat) (on : Bool) :
    (mark l k on).contains j = if j = k then on else l.contains j := by
  rw [Bool.eq_iff_iff, List.contains_iff_mem, mem_mark]
  split <;> simp

/-! ### Bytes -/

theorem memGet_memPut (m : List Host.Cell) (a j : Nat) (b : Byte) :
    memGet (memPut m a b) j = if j = a then b else memGet m j := by
  induction m with
  | nil => simp [memPut, memGet, eq_comm]
  | cons e r ih =>
    obtain ⟨k, c⟩ := e
    simp only [memPut]
    split
    · simp only [memGet, ih]; (repeat' split) <;> first | rfl | omega
    · split
      · simp only [memGet]; (repeat' split) <;> first | rfl | omega
      · simp only [memGet]; (repeat' split) <;> first | rfl | omega

theorem memGet_drop (m : List Host.Cell) (p : Nat → Bool) (j : Nat) :
    memGet (m.filter fun c => p c.1) j = if p j then memGet m j else 0 := by
  induction m with
  | nil => simp [memGet]
  | cons e r ih =>
    obtain ⟨k, c⟩ := e
    simp only [List.filter_cons]
    by_cases h : p k = true
    · simp only [h, if_true, memGet, ih]; split <;> simp_all
    · simp only [h, memGet]; (repeat' split) <;> simp_all

/-- A byte reads as what was written last. -/
@[simp] theorem memGet_memSet (m : List Host.Cell) (a j : Nat) (b : Byte) :
    memGet (memSet m a b) j = if j = a then b else memGet m j := by
  unfold memSet
  split
  · rw [memGet_drop m (· != a)]; split <;> split <;> simp_all
  · exact memGet_memPut m a j b

/-- A byte after n bytes of a number were written: one of them, or what it was. -/
theorem memGet_memWrite (n : Nat) : ∀ (m : List Host.Cell) (a v j : Nat),
    memGet (memWrite m a v n) j =
      if a ≤ j ∧ j < a + n then BitVec.ofNat 8 (v / 256 ^ (j - a)) else memGet m j := by
  induction n with
  | zero => intro m a v j; rw [if_neg (by omega)]; rfl
  | succ n ih =>
    intro m a v j
    simp only [memWrite, ih, memGet_memSet]
    by_cases h : a + 1 ≤ j ∧ j < a + 1 + n
    · have e : j - a = (j - (a + 1)) + 1 := by omega
      rw [if_pos h, if_pos (by omega), e, Nat.pow_succ, Nat.mul_comm, Nat.div_div_eq_div_mul]
    · rw [if_neg h]
      by_cases h' : j = a
      · subst h'; simp
      · rw [if_neg h', if_neg (by omega)]

/-- A number reads the same where every byte of it does. -/
theorem memRead_congr {m m' : List Host.Cell} (n : Nat) : ∀ (a : Nat), (∀ j, a ≤ j → j < a + n → memGet m j = memGet m' j) →
    memRead m a n = memRead m' a n := by
  induction n with
  | zero => intro a _; rfl
  | succ n ih =>
    intro a h
    simp only [memRead]
    rw [h a (by omega) (by omega), ih (a + 1) fun j h1 h2 => h j (by omega) (by omega)]

/-- A number that was written reads back, as far as n bytes hold it. -/
theorem memRead_memWrite (n : Nat) : ∀ (m : List Host.Cell) (a v : Nat), memRead (memWrite m a v n) a n = v % 256 ^ n := by
  induction n with
  | zero => intro m a v; simp [memRead, Nat.mod_one]
  | succ n ih =>
    intro m a v
    simp only [memRead, memWrite, ih, memGet_memWrite, memGet_memSet]
    rw [if_neg (by omega), if_pos trivial, BitVec.toNat_ofNat, show 256 ^ (n + 1) = 256 * 256 ^ n by rw [Nat.pow_succ, Nat.mul_comm],
      Nat.mod_mul]

/-- A number elsewhere reads as before. -/
theorem memRead_memWrite_other (m : List Host.Cell) (a v n b k : Nat) (h : b + k ≤ a ∨ a + n ≤ b) :
    memRead (memWrite m a v n) b k = memRead m b k :=
  memRead_congr k b fun j h1 h2 => by rw [memGet_memWrite, if_neg (by omega)]

/-! ### The canonical form -/

theorem memWfFrom_mono {lo lo' : Nat} {m : List Host.Cell} (h : memWfFrom lo' m = true) (hl : lo ≤ lo') :
    memWfFrom lo m = true := by
  cases m with
  | nil => rfl
  | cons e r =>
    obtain ⟨k, b⟩ := e
    simp only [memWfFrom, Bool.and_eq_true, decide_eq_true_eq] at h ⊢
    exact ⟨⟨by omega, h.1.2⟩, h.2⟩

theorem memWfFrom_filter (p : Host.Cell → Bool) : ∀ (m : List Host.Cell) (lo : Nat), memWfFrom lo m = true →
    memWfFrom lo (m.filter p) = true := by
  intro m
  induction m with
  | nil => intro lo _; rfl
  | cons e r ih =>
    intro lo h
    obtain ⟨k, b⟩ := e
    simp only [memWfFrom, Bool.and_eq_true, decide_eq_true_eq] at h
    simp only [List.filter_cons]
    split
    · simp only [memWfFrom, Bool.and_eq_true, decide_eq_true_eq]; exact ⟨h.1, ih _ h.2⟩
    · exact memWfFrom_mono (ih _ h.2) (by omega)

theorem memWfFrom_memPut {a : Nat} {b : Byte} (hb : b ≠ 0) : ∀ (m : List Host.Cell) (lo : Nat), lo ≤ a → memWfFrom lo m = true →
    memWfFrom lo (memPut m a b) = true := by
  intro m
  induction m with
  | nil => intro lo hl _; simp [memPut, memWfFrom, hl]; exact hb
  | cons e r ih =>
    intro lo hl h
    obtain ⟨k, c⟩ := e
    simp only [memWfFrom, Bool.and_eq_true, decide_eq_true_eq] at h
    simp only [memPut]
    split
    · simp only [memWfFrom, Bool.and_eq_true, decide_eq_true_eq]; exact ⟨h.1, ih _ (by omega) h.2⟩
    · split
      · subst_vars; simp only [memWfFrom, Bool.and_eq_true, decide_eq_true_eq, bne_iff_ne]; exact ⟨⟨hl, hb⟩, h.2⟩
      · simp only [memWfFrom, Bool.and_eq_true, decide_eq_true_eq, bne_iff_ne]
        exact ⟨⟨hl, hb⟩, ⟨by omega, by simpa using h.1.2⟩, h.2⟩

/-- A write keeps the canonical form. -/
theorem memWf_memSet {m : List Host.Cell} (h : Memory.wf m = true) (a : Nat) (b : Byte) : Memory.wf (memSet m a b) = true := by
  unfold memSet
  split
  · exact memWfFrom_filter _ m 0 h
  · rename_i hb; exact memWfFrom_memPut hb m 0 (by omega) h

theorem memWf_filter {m : List Host.Cell} (h : Memory.wf m = true) (p : Host.Cell → Bool) : Memory.wf (m.filter p) = true :=
  memWfFrom_filter p m 0 h

theorem memWf_memWrite (n : Nat) : ∀ {m : List Host.Cell} (_ : Memory.wf m = true) (a v : Nat), Memory.wf (memWrite m a v n) = true := by
  induction n with
  | zero => intro m h a v; exact h
  | succ n ih => intro m h a v; exact ih (memWf_memSet h a _) _ _

theorem wf_wr {s : State} (h : Memory.wf s.mem = true) (a n v : Nat) : Memory.wf (s.wr a n v).mem = true :=
  memWf_memWrite n h a v

theorem wf_wrBytes : ∀ (l : List Byte) {s : State} (_ : Memory.wf s.mem = true) (a : Nat), Memory.wf (s.wrBytes a l).mem = true := by
  intro l
  induction l with
  | nil => intro s h a; exact h
  | cons b r ih => intro s h a; exact ih (memWf_memSet h a b) (a + 1)

theorem wf_zero {s : State} (h : Memory.wf s.mem = true) (a n : Nat) : Memory.wf (s.zero a n).mem = true :=
  memWf_filter h _

theorem memWf_foldl_memSet {α : Type} (f : α → Nat) (g : α → Byte) : ∀ (l : List α) {m : List Host.Cell} (_ : Memory.wf m = true),
    Memory.wf (l.foldl (fun m c => memSet m (f c) (g c)) m) = true := by
  intro l
  induction l with
  | nil => intro m h; exact h
  | cons c r ih => intro m h; exact ih (memWf_memSet h _ _)

theorem wf_move {s : State} (h : Memory.wf s.mem = true) (d a n : Nat) : Memory.wf (s.move d a n).mem = true :=
  memWf_foldl_memSet (fun c : Host.Cell => c.1 - a + d) (fun c => c.2) _ (wf_zero h d n)

theorem wf_moveData {s : State} (h : Memory.wf s.mem = true) (d a n : Nat) : Memory.wf (s.moveData d a n).mem = true :=
  wf_move h d a n

theorem reset_wf : Memory.wf State.reset.mem = true := rfl
theorem reset_canonical : State.reset.canonical = true := rfl

/-! ### Marks stay sorted -/

theorem risesFrom_mono {lo lo' : Nat} {l : List Nat} (h : risesFrom lo' l = true) (hl : lo ≤ lo') : risesFrom lo l = true := by
  cases l with
  | nil => rfl
  | cons a r =>
    simp only [risesFrom, Bool.and_eq_true, decide_eq_true_eq] at h ⊢
    exact ⟨by omega, h.2⟩

theorem risesFrom_filter (p : Nat → Bool) : ∀ (l : List Nat) (lo : Nat), risesFrom lo l = true → risesFrom lo (l.filter p) = true := by
  intro l
  induction l with
  | nil => intro lo _; rfl
  | cons a r ih =>
    intro lo h
    simp only [risesFrom, Bool.and_eq_true, decide_eq_true_eq] at h
    simp only [List.filter_cons]
    split
    · simp only [risesFrom, Bool.and_eq_true, decide_eq_true_eq]; exact ⟨h.1, ih _ h.2⟩
    · exact risesFrom_mono (ih _ h.2) (by omega)

theorem risesFrom_markOn (k : Nat) : ∀ (l : List Nat) (lo : Nat), lo ≤ k → risesFrom lo l = true → risesFrom lo (markOn l k) = true := by
  intro l
  induction l with
  | nil => intro lo hl _; simp [markOn, risesFrom, hl]
  | cons a r ih =>
    intro lo hl h
    simp only [risesFrom, Bool.and_eq_true, decide_eq_true_eq] at h
    simp only [markOn]
    split
    · simp only [risesFrom, Bool.and_eq_true, decide_eq_true_eq]; exact ⟨h.1, ih _ (by omega) h.2⟩
    · split
      · simp only [risesFrom, Bool.and_eq_true, decide_eq_true_eq]; exact ⟨h.1, h.2⟩
      · simp only [risesFrom, Bool.and_eq_true, decide_eq_true_eq]; exact ⟨hl, by omega, h.2⟩

/-- Setting or clearing a mark keeps a list of marks sorted without repeats. -/
theorem risesFrom_mark {l : List Nat} (h : risesFrom 0 l = true) (k : Nat) (on : Bool) : risesFrom 0 (mark l k on) = true := by
  cases on
  · exact risesFrom_filter _ l 0 h
  · exact risesFrom_markOn k l 0 (by omega) h

theorem risesFrom_foldl_mark {α : Type} (f : α → Nat) (on : Bool) : ∀ (l : List α) {m : List Nat} (_ : risesFrom 0 m = true),
    risesFrom 0 (l.foldl (fun m a => mark m (f a) on) m) = true := by
  intro l
  induction l with
  | nil => intro m h; exact h
  | cons a r ih => intro m h; exact ih (risesFrom_mark h _ _)

/-! ### The canonical form under every operation that writes memory or a mark -/

theorem canonical_iff (s : State) : s.canonical = true ↔ Memory.wf s.mem = true ∧ risesFrom 0 s.empty = true
    ∧ risesFrom 0 s.poison = true ∧ risesFrom 0 s.lost = true ∧ risesFrom 0 s.flips = true ∧ risesFrom 0 s.badPar = true := by
  simp only [State.canonical, State.marksOk, Bool.and_eq_true, and_assoc]

/-- What leaves memory and marks alone keeps the form. -/
theorem canonical_of_same {s t : State} (h : s.canonical = true) (hm : t.mem = s.mem) (he : t.empty = s.empty)
    (hp : t.poison = s.poison) (hl : t.lost = s.lost) (hf : t.flips = s.flips) (hb : t.badPar = s.badPar) : t.canonical = true := by
  rw [canonical_iff] at h ⊢
  rw [hm, he, hp, hl, hf, hb]
  exact h

theorem canonical_wr {s : State} (h : s.canonical = true) (a n v : Nat) : (s.wr a n v).canonical = true := by
  rw [canonical_iff] at h ⊢
  exact ⟨wf_wr h.1 a n v, h.2⟩

theorem wrBytes_marks : ∀ (l : List Byte) (s : State) (a : Nat), (s.wrBytes a l).empty = s.empty ∧ (s.wrBytes a l).poison = s.poison
    ∧ (s.wrBytes a l).lost = s.lost ∧ (s.wrBytes a l).flips = s.flips ∧ (s.wrBytes a l).badPar = s.badPar := by
  intro l
  induction l with
  | nil => intro s a; exact ⟨rfl, rfl, rfl, rfl, rfl⟩
  | cons b r ih => intro s a; exact ih _ _

theorem canonical_wrBytes {s : State} (h : s.canonical = true) (a : Nat) (l : List Byte) : (s.wrBytes a l).canonical = true := by
  have m := wrBytes_marks l s a
  rw [canonical_iff] at h ⊢
  rw [m.1, m.2.1, m.2.2.1, m.2.2.2.1, m.2.2.2.2]
  exact ⟨wf_wrBytes l h.1 a, h.2⟩

theorem canonical_setFull {s : State} (h : s.canonical = true) (w : Nat) (on : Bool) : (s.setFull w on).canonical = true := by
  rw [canonical_iff] at h ⊢
  exact ⟨h.1, risesFrom_mark h.2.1 w _, h.2.2⟩

theorem canonical_setBad {s : State} (h : s.canonical = true) (w : Nat) (on : Bool) : (s.setBad w on).canonical = true := by
  rw [canonical_iff] at h ⊢
  exact ⟨h.1, h.2.1, risesFrom_mark h.2.2.1 w on, h.2.2.2⟩

theorem canonical_flip {s : State} (h : s.canonical = true) (w : Nat) (on : Bool) :
    ({ s with flips := mark s.flips w on } : State).canonical = true := by
  rw [canonical_iff] at h ⊢
  exact ⟨h.1, h.2.1, h.2.2.1, h.2.2.2.1, risesFrom_mark h.2.2.2.2.1 w on, h.2.2.2.2.2⟩

theorem canonical_badPar {s : State} (h : s.canonical = true) (w : Nat) (on : Bool) :
    ({ s with badPar := mark s.badPar w on } : State).canonical = true := by
  rw [canonical_iff] at h ⊢
  exact ⟨h.1, h.2.1, h.2.2.1, h.2.2.2.1, h.2.2.2.2.1, risesFrom_mark h.2.2.2.2.2 w on⟩

theorem canonical_clearBadAt {s : State} (h : s.canonical = true) (a n : Nat) : (s.clearBadAt a n).canonical = true := by
  rw [canonical_iff] at h ⊢
  exact ⟨h.1, h.2.1, risesFrom_filter _ _ 0 h.2.2.1, h.2.2.2.1, risesFrom_filter _ _ 0 h.2.2.2.2.1, h.2.2.2.2.2⟩

theorem canonical_zero {s : State} (h : s.canonical = true) (a n : Nat) : (s.zero a n).canonical = true := by
  rw [canonical_iff] at h ⊢
  exact ⟨wf_zero h.1 a n, risesFrom_filter _ _ 0 h.2.1, risesFrom_filter _ _ 0 h.2.2.1, h.2.2.2.1,
    risesFrom_filter _ _ 0 h.2.2.2.2.1, h.2.2.2.2.2⟩

theorem canonical_move {s : State} (h : s.canonical = true) (d a n : Nat) : (s.move d a n).canonical = true := by
  have z := canonical_zero h d n
  rw [canonical_iff] at h z ⊢
  exact ⟨wf_move h.1 d a n, risesFrom_foldl_mark _ true _ z.2.1, risesFrom_foldl_mark _ true _ z.2.2.1, z.2.2.2⟩

theorem canonical_moveData {s : State} (h : s.canonical = true) (d a n : Nat) : (s.moveData d a n).canonical = true := by
  have z := canonical_move h d a n
  rw [canonical_iff] at z ⊢
  exact ⟨z.1, risesFrom_foldl_mark _ true _ (risesFrom_filter _ _ 0 z.2.1), z.2.2⟩

end Sys2Proof.Machine
end

