-- ==== Sys2Proof/Laws/Ops.lean ====
section
/-! SUPPORT. What the shared operations leave in the views of a state (slots, cores, clusters, channels, teams, bytes, marks) and
what each shared operation can do. -/

namespace Sys2Proof.Machine

/-! ### setSlot -/
@[simp] theorem State.coreSt_setSlot (s : State) (k : Nat) (sl : Slot) (j : Nat) : (s.setSlot k sl).coreSt j = s.coreSt j := rfl
@[simp] theorem State.clusterSt_setSlot (s : State) (k : Nat) (sl : Slot) (j : Nat) : (s.setSlot k sl).clusterSt j = s.clusterSt j := rfl
@[simp] theorem State.chan_setSlot (s : State) (k : Nat) (sl : Slot) (j : Nat) : (s.setSlot k sl).chan j = s.chan j := rfl
@[simp] theorem State.team_setSlot (s : State) (k : Nat) (sl : Slot) (j : Nat) : (s.setSlot k sl).team? j = s.team? j := rfl
@[simp] theorem State.byte_setSlot (s : State) (k : Nat) (sl : Slot) (j : Nat) : (s.setSlot k sl).byte j = s.byte j := rfl
@[simp] theorem State.rd_setSlot (s : State) (k : Nat) (sl : Slot) (j i : Nat) : (s.setSlot k sl).rd j i = s.rd j i := rfl
@[simp] theorem State.full_setSlot (s : State) (k : Nat) (sl : Slot) (j : Nat) : (s.setSlot k sl).full j = s.full j := rfl
@[simp] theorem State.bad_setSlot (s : State) (k : Nat) (sl : Slot) (j : Nat) : (s.setSlot k sl).bad j = s.bad j := rfl
@[simp] theorem State.badAt_setSlot (s : State) (k : Nat) (sl : Slot) (j i : Nat) : (s.setSlot k sl).badAt j i = s.badAt j i := rfl
@[simp] theorem State.core_setSlot (s : State) (k : Nat) (sl : Slot) : (s.setSlot k sl).core = s.core := rfl
@[simp] theorem State.sid_setSlot (s : State) (k : Nat) (sl : Slot) : (s.setSlot k sl).sid = s.sid := rfl
@[simp] theorem State.cluster_setSlot (s : State) (k : Nat) (sl : Slot) : (s.setSlot k sl).cluster = s.cluster := rfl

/-! ### modSlot -/
@[simp] theorem State.coreSt_modSlot (s : State) (k : Nat) (f : Slot → Slot) (j : Nat) : (s.modSlot k f).coreSt j = s.coreSt j := rfl
@[simp] theorem State.clusterSt_modSlot (s : State) (k : Nat) (f : Slot → Slot) (j : Nat) : (s.modSlot k f).clusterSt j = s.clusterSt j := rfl
@[simp] theorem State.chan_modSlot (s : State) (k : Nat) (f : Slot → Slot) (j : Nat) : (s.modSlot k f).chan j = s.chan j := rfl
@[simp] theorem State.team_modSlot (s : State) (k : Nat) (f : Slot → Slot) (j : Nat) : (s.modSlot k f).team? j = s.team? j := rfl
@[simp] theorem State.byte_modSlot (s : State) (k : Nat) (f : Slot → Slot) (j : Nat) : (s.modSlot k f).byte j = s.byte j := rfl
@[simp] theorem State.rd_modSlot (s : State) (k : Nat) (f : Slot → Slot) (j i : Nat) : (s.modSlot k f).rd j i = s.rd j i := rfl
@[simp] theorem State.full_modSlot (s : State) (k : Nat) (f : Slot → Slot) (j : Nat) : (s.modSlot k f).full j = s.full j := rfl
@[simp] theorem State.bad_modSlot (s : State) (k : Nat) (f : Slot → Slot) (j : Nat) : (s.modSlot k f).bad j = s.bad j := rfl
@[simp] theorem State.badAt_modSlot (s : State) (k : Nat) (f : Slot → Slot) (j i : Nat) : (s.modSlot k f).badAt j i = s.badAt j i := rfl
@[simp] theorem State.core_modSlot (s : State) (k : Nat) (f : Slot → Slot) : (s.modSlot k f).core = s.core := rfl
@[simp] theorem State.sid_modSlot (s : State) (k : Nat) (f : Slot → Slot) : (s.modSlot k f).sid = s.sid := rfl
@[simp] theorem State.cluster_modSlot (s : State) (k : Nat) (f : Slot → Slot) : (s.modSlot k f).cluster = s.cluster := rfl

/-! ### upd -/
@[simp] theorem State.coreSt_upd (s : State) (f : Slot → Slot) (j : Nat) : (s.upd f).coreSt j = s.coreSt j := rfl
@[simp] theorem State.clusterSt_upd (s : State) (f : Slot → Slot) (j : Nat) : (s.upd f).clusterSt j = s.clusterSt j := rfl
@[simp] theorem State.chan_upd (s : State) (f : Slot → Slot) (j : Nat) : (s.upd f).chan j = s.chan j := rfl
@[simp] theorem State.team_upd (s : State) (f : Slot → Slot) (j : Nat) : (s.upd f).team? j = s.team? j := rfl
@[simp] theorem State.byte_upd (s : State) (f : Slot → Slot) (j : Nat) : (s.upd f).byte j = s.byte j := rfl
@[simp] theorem State.rd_upd (s : State) (f : Slot → Slot) (j i : Nat) : (s.upd f).rd j i = s.rd j i := rfl
@[simp] theorem State.full_upd (s : State) (f : Slot → Slot) (j : Nat) : (s.upd f).full j = s.full j := rfl
@[simp] theorem State.bad_upd (s : State) (f : Slot → Slot) (j : Nat) : (s.upd f).bad j = s.bad j := rfl
@[simp] theorem State.badAt_upd (s : State) (f : Slot → Slot) (j i : Nat) : (s.upd f).badAt j i = s.badAt j i := rfl
@[simp] theorem State.core_upd (s : State) (f : Slot → Slot) : (s.upd f).core = s.core := rfl
@[simp] theorem State.sid_upd (s : State) (f : Slot → Slot) : (s.upd f).sid = s.sid := rfl
@[simp] theorem State.cluster_upd (s : State) (f : Slot → Slot) : (s.upd f).cluster = s.cluster := rfl

/-! ### modCore -/
@[simp] theorem State.slot_modCore (s : State) (k : Nat) (f : CoreSt → CoreSt) (j : Nat) : (s.modCore k f).slot j = s.slot j := rfl
@[simp] theorem State.clusterSt_modCore (s : State) (k : Nat) (f : CoreSt → CoreSt) (j : Nat) : (s.modCore k f).clusterSt j = s.clusterSt j := rfl
@[simp] theorem State.chan_modCore (s : State) (k : Nat) (f : CoreSt → CoreSt) (j : Nat) : (s.modCore k f).chan j = s.chan j := rfl
@[simp] theorem State.team_modCore (s : State) (k : Nat) (f : CoreSt → CoreSt) (j : Nat) : (s.modCore k f).team? j = s.team? j := rfl
@[simp] theorem State.byte_modCore (s : State) (k : Nat) (f : CoreSt → CoreSt) (j : Nat) : (s.modCore k f).byte j = s.byte j := rfl
@[simp] theorem State.rd_modCore (s : State) (k : Nat) (f : CoreSt → CoreSt) (j i : Nat) : (s.modCore k f).rd j i = s.rd j i := rfl
@[simp] theorem State.full_modCore (s : State) (k : Nat) (f : CoreSt → CoreSt) (j : Nat) : (s.modCore k f).full j = s.full j := rfl
@[simp] theorem State.bad_modCore (s : State) (k : Nat) (f : CoreSt → CoreSt) (j : Nat) : (s.modCore k f).bad j = s.bad j := rfl
@[simp] theorem State.badAt_modCore (s : State) (k : Nat) (f : CoreSt → CoreSt) (j i : Nat) : (s.modCore k f).badAt j i = s.badAt j i := rfl
@[simp] theorem State.core_modCore (s : State) (k : Nat) (f : CoreSt → CoreSt) : (s.modCore k f).core = s.core := rfl
@[simp] theorem State.sid_modCore (s : State) (k : Nat) (f : CoreSt → CoreSt) : (s.modCore k f).sid = s.sid := rfl
@[simp] theorem State.cluster_modCore (s : State) (k : Nat) (f : CoreSt → CoreSt) : (s.modCore k f).cluster = s.cluster := rfl
@[simp] theorem State.me_modCore (s : State) (k : Nat) (f : CoreSt → CoreSt) : (s.modCore k f).me = s.me := rfl

/-! ### modCluster -/
@[simp] theorem State.slot_modCluster (s : State) (k : Nat) (f : ClusterSt → ClusterSt) (j : Nat) : (s.modCluster k f).slot j = s.slot j := rfl
@[simp] theorem State.coreSt_modCluster (s : State) (k : Nat) (f : ClusterSt → ClusterSt) (j : Nat) : (s.modCluster k f).coreSt j = s.coreSt j := rfl
@[simp] theorem State.chan_modCluster (s : State) (k : Nat) (f : ClusterSt → ClusterSt) (j : Nat) : (s.modCluster k f).chan j = s.chan j := rfl
@[simp] theorem State.team_modCluster (s : State) (k : Nat) (f : ClusterSt → ClusterSt) (j : Nat) : (s.modCluster k f).team? j = s.team? j := rfl
@[simp] theorem State.byte_modCluster (s : State) (k : Nat) (f : ClusterSt → ClusterSt) (j : Nat) : (s.modCluster k f).byte j = s.byte j := rfl
@[simp] theorem State.rd_modCluster (s : State) (k : Nat) (f : ClusterSt → ClusterSt) (j i : Nat) : (s.modCluster k f).rd j i = s.rd j i := rfl
@[simp] theorem State.full_modCluster (s : State) (k : Nat) (f : ClusterSt → ClusterSt) (j : Nat) : (s.modCluster k f).full j = s.full j := rfl
@[simp] theorem State.bad_modCluster (s : State) (k : Nat) (f : ClusterSt → ClusterSt) (j : Nat) : (s.modCluster k f).bad j = s.bad j := rfl
@[simp] theorem State.badAt_modCluster (s : State) (k : Nat) (f : ClusterSt → ClusterSt) (j i : Nat) : (s.modCluster k f).badAt j i = s.badAt j i := rfl
@[simp] theorem State.core_modCluster (s : State) (k : Nat) (f : ClusterSt → ClusterSt) : (s.modCluster k f).core = s.core := rfl
@[simp] theorem State.sid_modCluster (s : State) (k : Nat) (f : ClusterSt → ClusterSt) : (s.modCluster k f).sid = s.sid := rfl
@[simp] theorem State.cluster_modCluster (s : State) (k : Nat) (f : ClusterSt → ClusterSt) : (s.modCluster k f).cluster = s.cluster := rfl
@[simp] theorem State.me_modCluster (s : State) (k : Nat) (f : ClusterSt → ClusterSt) : (s.modCluster k f).me = s.me := rfl

/-! ### modChan -/
@[simp] theorem State.slot_modChan (s : State) (k : Nat) (f : ChanSt → ChanSt) (j : Nat) : (s.modChan k f).slot j = s.slot j := rfl
@[simp] theorem State.coreSt_modChan (s : State) (k : Nat) (f : ChanSt → ChanSt) (j : Nat) : (s.modChan k f).coreSt j = s.coreSt j := rfl
@[simp] theorem State.clusterSt_modChan (s : State) (k : Nat) (f : ChanSt → ChanSt) (j : Nat) : (s.modChan k f).clusterSt j = s.clusterSt j := rfl
@[simp] theorem State.team_modChan (s : State) (k : Nat) (f : ChanSt → ChanSt) (j : Nat) : (s.modChan k f).team? j = s.team? j := rfl
@[simp] theorem State.byte_modChan (s : State) (k : Nat) (f : ChanSt → ChanSt) (j : Nat) : (s.modChan k f).byte j = s.byte j := rfl
@[simp] theorem State.rd_modChan (s : State) (k : Nat) (f : ChanSt → ChanSt) (j i : Nat) : (s.modChan k f).rd j i = s.rd j i := rfl
@[simp] theorem State.full_modChan (s : State) (k : Nat) (f : ChanSt → ChanSt) (j : Nat) : (s.modChan k f).full j = s.full j := rfl
@[simp] theorem State.bad_modChan (s : State) (k : Nat) (f : ChanSt → ChanSt) (j : Nat) : (s.modChan k f).bad j = s.bad j := rfl
@[simp] theorem State.badAt_modChan (s : State) (k : Nat) (f : ChanSt → ChanSt) (j i : Nat) : (s.modChan k f).badAt j i = s.badAt j i := rfl
@[simp] theorem State.core_modChan (s : State) (k : Nat) (f : ChanSt → ChanSt) : (s.modChan k f).core = s.core := rfl
@[simp] theorem State.sid_modChan (s : State) (k : Nat) (f : ChanSt → ChanSt) : (s.modChan k f).sid = s.sid := rfl
@[simp] theorem State.cluster_modChan (s : State) (k : Nat) (f : ChanSt → ChanSt) : (s.modChan k f).cluster = s.cluster := rfl
@[simp] theorem State.me_modChan (s : State) (k : Nat) (f : ChanSt → ChanSt) : (s.modChan k f).me = s.me := rfl

/-! ### post -/
@[simp] theorem State.slot_post (s : State) (e : Event) (j : Nat) : (s.post e).slot j = s.slot j := rfl
@[simp] theorem State.coreSt_post (s : State) (e : Event) (j : Nat) : (s.post e).coreSt j = s.coreSt j := rfl
@[simp] theorem State.clusterSt_post (s : State) (e : Event) (j : Nat) : (s.post e).clusterSt j = s.clusterSt j := rfl
@[simp] theorem State.chan_post (s : State) (e : Event) (j : Nat) : (s.post e).chan j = s.chan j := rfl
@[simp] theorem State.team_post (s : State) (e : Event) (j : Nat) : (s.post e).team? j = s.team? j := rfl
@[simp] theorem State.byte_post (s : State) (e : Event) (j : Nat) : (s.post e).byte j = s.byte j := rfl
@[simp] theorem State.rd_post (s : State) (e : Event) (j i : Nat) : (s.post e).rd j i = s.rd j i := rfl
@[simp] theorem State.full_post (s : State) (e : Event) (j : Nat) : (s.post e).full j = s.full j := rfl
@[simp] theorem State.bad_post (s : State) (e : Event) (j : Nat) : (s.post e).bad j = s.bad j := rfl
@[simp] theorem State.badAt_post (s : State) (e : Event) (j i : Nat) : (s.post e).badAt j i = s.badAt j i := rfl
@[simp] theorem State.core_post (s : State) (e : Event) : (s.post e).core = s.core := rfl
@[simp] theorem State.sid_post (s : State) (e : Event) : (s.post e).sid = s.sid := rfl
@[simp] theorem State.cluster_post (s : State) (e : Event) : (s.post e).cluster = s.cluster := rfl
@[simp] theorem State.me_post (s : State) (e : Event) : (s.post e).me = s.me := rfl

/-! ### send -/
@[simp] theorem State.slot_send (s : State) (o : Out) (j : Nat) : (s.send o).slot j = s.slot j := rfl
@[simp] theorem State.coreSt_send (s : State) (o : Out) (j : Nat) : (s.send o).coreSt j = s.coreSt j := rfl
@[simp] theorem State.clusterSt_send (s : State) (o : Out) (j : Nat) : (s.send o).clusterSt j = s.clusterSt j := rfl
@[simp] theorem State.chan_send (s : State) (o : Out) (j : Nat) : (s.send o).chan j = s.chan j := rfl
@[simp] theorem State.team_send (s : State) (o : Out) (j : Nat) : (s.send o).team? j = s.team? j := rfl
@[simp] theorem State.byte_send (s : State) (o : Out) (j : Nat) : (s.send o).byte j = s.byte j := rfl
@[simp] theorem State.rd_send (s : State) (o : Out) (j i : Nat) : (s.send o).rd j i = s.rd j i := rfl
@[simp] theorem State.full_send (s : State) (o : Out) (j : Nat) : (s.send o).full j = s.full j := rfl
@[simp] theorem State.bad_send (s : State) (o : Out) (j : Nat) : (s.send o).bad j = s.bad j := rfl
@[simp] theorem State.badAt_send (s : State) (o : Out) (j i : Nat) : (s.send o).badAt j i = s.badAt j i := rfl
@[simp] theorem State.core_send (s : State) (o : Out) : (s.send o).core = s.core := rfl
@[simp] theorem State.sid_send (s : State) (o : Out) : (s.send o).sid = s.sid := rfl
@[simp] theorem State.cluster_send (s : State) (o : Out) : (s.send o).cluster = s.cluster := rfl
@[simp] theorem State.me_send (s : State) (o : Out) : (s.send o).me = s.me := rfl

/-! ### wr -/
@[simp] theorem State.slot_wr (s : State) (a n v : Nat) (j : Nat) : (s.wr a n v).slot j = s.slot j := rfl
@[simp] theorem State.coreSt_wr (s : State) (a n v : Nat) (j : Nat) : (s.wr a n v).coreSt j = s.coreSt j := rfl
@[simp] theorem State.clusterSt_wr (s : State) (a n v : Nat) (j : Nat) : (s.wr a n v).clusterSt j = s.clusterSt j := rfl
@[simp] theorem State.chan_wr (s : State) (a n v : Nat) (j : Nat) : (s.wr a n v).chan j = s.chan j := rfl
@[simp] theorem State.team_wr (s : State) (a n v : Nat) (j : Nat) : (s.wr a n v).team? j = s.team? j := rfl
@[simp] theorem State.full_wr (s : State) (a n v : Nat) (j : Nat) : (s.wr a n v).full j = s.full j := rfl
@[simp] theorem State.bad_wr (s : State) (a n v : Nat) (j : Nat) : (s.wr a n v).bad j = s.bad j := rfl
@[simp] theorem State.badAt_wr (s : State) (a n v : Nat) (j i : Nat) : (s.wr a n v).badAt j i = s.badAt j i := rfl
@[simp] theorem State.core_wr (s : State) (a n v : Nat) : (s.wr a n v).core = s.core := rfl
@[simp] theorem State.sid_wr (s : State) (a n v : Nat) : (s.wr a n v).sid = s.sid := rfl
@[simp] theorem State.cluster_wr (s : State) (a n v : Nat) : (s.wr a n v).cluster = s.cluster := rfl
@[simp] theorem State.me_wr (s : State) (a n v : Nat) : (s.wr a n v).me = s.me := rfl

/-! ### setFull -/
@[simp] theorem State.slot_setFull (s : State) (w : Nat) (b : Bool) (j : Nat) : (s.setFull w b).slot j = s.slot j := rfl
@[simp] theorem State.coreSt_setFull (s : State) (w : Nat) (b : Bool) (j : Nat) : (s.setFull w b).coreSt j = s.coreSt j := rfl
@[simp] theorem State.clusterSt_setFull (s : State) (w : Nat) (b : Bool) (j : Nat) : (s.setFull w b).clusterSt j = s.clusterSt j := rfl
@[simp] theorem State.chan_setFull (s : State) (w : Nat) (b : Bool) (j : Nat) : (s.setFull w b).chan j = s.chan j := rfl
@[simp] theorem State.team_setFull (s : State) (w : Nat) (b : Bool) (j : Nat) : (s.setFull w b).team? j = s.team? j := rfl
@[simp] theorem State.byte_setFull (s : State) (w : Nat) (b : Bool) (j : Nat) : (s.setFull w b).byte j = s.byte j := rfl
@[simp] theorem State.rd_setFull (s : State) (w : Nat) (b : Bool) (j i : Nat) : (s.setFull w b).rd j i = s.rd j i := rfl
@[simp] theorem State.bad_setFull (s : State) (w : Nat) (b : Bool) (j : Nat) : (s.setFull w b).bad j = s.bad j := rfl
@[simp] theorem State.badAt_setFull (s : State) (w : Nat) (b : Bool) (j i : Nat) : (s.setFull w b).badAt j i = s.badAt j i := rfl
@[simp] theorem State.core_setFull (s : State) (w : Nat) (b : Bool) : (s.setFull w b).core = s.core := rfl
@[simp] theorem State.sid_setFull (s : State) (w : Nat) (b : Bool) : (s.setFull w b).sid = s.sid := rfl
@[simp] theorem State.cluster_setFull (s : State) (w : Nat) (b : Bool) : (s.setFull w b).cluster = s.cluster := rfl
@[simp] theorem State.me_setFull (s : State) (w : Nat) (b : Bool) : (s.setFull w b).me = s.me := rfl

/-! ### setBad -/
@[simp] theorem State.slot_setBad (s : State) (w : Nat) (b : Bool) (j : Nat) : (s.setBad w b).slot j = s.slot j := rfl
@[simp] theorem State.coreSt_setBad (s : State) (w : Nat) (b : Bool) (j : Nat) : (s.setBad w b).coreSt j = s.coreSt j := rfl
@[simp] theorem State.clusterSt_setBad (s : State) (w : Nat) (b : Bool) (j : Nat) : (s.setBad w b).clusterSt j = s.clusterSt j := rfl
@[simp] theorem State.chan_setBad (s : State) (w : Nat) (b : Bool) (j : Nat) : (s.setBad w b).chan j = s.chan j := rfl
@[simp] theorem State.team_setBad (s : State) (w : Nat) (b : Bool) (j : Nat) : (s.setBad w b).team? j = s.team? j := rfl
@[simp] theorem State.byte_setBad (s : State) (w : Nat) (b : Bool) (j : Nat) : (s.setBad w b).byte j = s.byte j := rfl
@[simp] theorem State.rd_setBad (s : State) (w : Nat) (b : Bool) (j i : Nat) : (s.setBad w b).rd j i = s.rd j i := rfl
@[simp] theorem State.full_setBad (s : State) (w : Nat) (b : Bool) (j : Nat) : (s.setBad w b).full j = s.full j := rfl
@[simp] theorem State.core_setBad (s : State) (w : Nat) (b : Bool) : (s.setBad w b).core = s.core := rfl
@[simp] theorem State.sid_setBad (s : State) (w : Nat) (b : Bool) : (s.setBad w b).sid = s.sid := rfl
@[simp] theorem State.cluster_setBad (s : State) (w : Nat) (b : Bool) : (s.setBad w b).cluster = s.cluster := rfl
@[simp] theorem State.me_setBad (s : State) (w : Nat) (b : Bool) : (s.setBad w b).me = s.me := rfl

/-! ### The entry that an update changes -/

@[simp] theorem State.slot_setSlot (s : State) (k j : Nat) (sl : Slot) :
    (s.setSlot k sl).slot j = if j = k then sl else s.slot j := tget_tset ..
@[simp] theorem State.slot_modSlot (s : State) (k j : Nat) (f : Slot → Slot) :
    (s.modSlot k f).slot j = if j = k then f (s.slot k) else s.slot j := tget_tset ..
@[simp] theorem State.slot_upd (s : State) (j : Nat) (f : Slot → Slot) :
    (s.upd f).slot j = if j = s.sid then f s.me else s.slot j := tget_tset ..
@[simp] theorem State.me_upd (s : State) (f : Slot → Slot) : (s.upd f).me = f s.me := by
  show (s.upd f).slot s.sid = _; simp
@[simp] theorem State.coreSt_modCore (s : State) (k j : Nat) (f : CoreSt → CoreSt) :
    (s.modCore k f).coreSt j = if j = k then f (s.coreSt k) else s.coreSt j := tget_tset ..
@[simp] theorem State.clusterSt_modCluster (s : State) (k j : Nat) (f : ClusterSt → ClusterSt) :
    (s.modCluster k f).clusterSt j = if j = k then f (s.clusterSt k) else s.clusterSt j := tget_tset ..
@[simp] theorem State.chan_modChan (s : State) (k j : Nat) (f : ChanSt → ChanSt) :
    (s.modChan k f).chan j = if j = k then f (s.chan k) else s.chan j := tget_tset ..
@[simp] theorem State.team_modTeam (s : State) (k j : Nat) (f : Team → Team) :
    (s.modTeam k f).team? j = if j = k then (s.team? k).map f else s.team? j := by
  unfold State.modTeam
  cases h : s.team? k with
  | none => simp only [Option.map_none]; split <;> simp_all
  | some t => simp only [State.team?, tfind_tset, Option.map_some]
@[simp] theorem State.full_setFull (s : State) (w j : Nat) (b : Bool) :
    (s.setFull w b).full j = if j = w then b else s.full j := by
  simp only [State.full, State.setFull, contains_mark]; split <;> simp
@[simp] theorem State.bad_setBad (s : State) (w j : Nat) (b : Bool) :
    (s.setBad w b).bad j = if j = w then b else s.bad j := by
  simp only [State.bad, State.setBad, contains_mark]
theorem State.byte_wr (s : State) (a n v j : Nat) :
    (s.wr a n v).byte j = if a ≤ j ∧ j < a + n then BitVec.ofNat 8 (v / 256 ^ (j - a)) else s.byte j := memGet_memWrite ..
theorem State.rd_wr (s : State) (a n v : Nat) : (s.wr a n v).rd a n = v % 256 ^ n := memRead_memWrite ..
theorem State.rd_wr_other (s : State) (a n v b k : Nat) (h : b + k ≤ a ∨ a + n ≤ b) : (s.wr a n v).rd b k = s.rd b k :=
  memRead_memWrite_other _ _ _ _ _ _ h

/-! ### Registers (R49) -/

@[simp] theorem Slot.rx_zero (sl : Slot) : sl.rx 0#5 = 0#64 := rfl
@[simp] theorem Slot.wx_zero (sl : Slot) (w : Word) : sl.wx 0#5 w = sl := rfl
@[simp] theorem Slot.rx_wx (sl : Slot) (r q : XReg) (w : Word) :
    (sl.wx r w).rx q = if q = r ∧ r ≠ 0 then w else sl.rx q := by
  by_cases h : r = 0
  · subst h; simp
  · unfold Slot.wx
    rw [if_neg h]
    by_cases e : q = r
    · subst e; simp only [Slot.rx, Vector.getElem_set_self, and_true, ne_eq, not_false_eq_true, if_true, h, if_false]
    · have : r.toNat ≠ q.toNat := fun c => e (BitVec.eq_of_toNat_eq c.symm)
      simp [Slot.rx, e, this]
@[simp] theorem Slot.rv_wv (sl : Slot) (r q : VReg) (w : VWord) : (sl.wv r w).rv q = if q = r then w else sl.rv q := by
  have hb : (q = r) = (r.toNat = q.toNat) := by rw [← BitVec.toNat_inj, @eq_comm Nat]
  simp [Slot.rv, Slot.wv, Vector.getElem_set, hb]
@[simp] theorem Slot.rp_wp (sl : Slot) (r q : PReg) (w : PWord) : (sl.wp r w).rp q = if q = r then w else sl.rp q := by
  have hb : (q = r) = (r.toNat = q.toNat) := by rw [← BitVec.toNat_inj, @eq_comm Nat]
  simp [Slot.rp, Slot.wp, Vector.getElem_set, hb]

/-! ### How an instruction ends -/

@[simp] theorem State.finish_done (s t : State) : s.finish (.done t) = .next t := rfl
@[simp] theorem State.finish_trap (s : State) (t : Trap) : s.finish (.trap t) = .next (s.trap t) := rfl
@[simp] theorem State.finish_park (s : State) (b : Bool) : s.finish (.park b) = .next (s.upd (·.parkRetry b)) := rfl

/-- Only the slot that an update names changes. -/
theorem onlySlot_modSlot (s : State) (k : Nat) (f : Slot → Slot) : OnlySlot s (s.modSlot k f) k :=
  ⟨rfl, fun j h => by simp [h]⟩
theorem onlySlot_refl (s : State) (k : Nat) : OnlySlot s s k := ⟨rfl, fun _ _ => rfl⟩

/-- An instruction that ends with a change of its own slot alone. -/
theorem does_of_upd {i : Instr} {s : State} (f : Slot → Slot) (h : exec i s = .next (s.upd f)) : Does i s (f s.me) :=
  ⟨_, h, onlySlot_modSlot s s.sid f, by simp⟩
theorem slotDoes_of_modSlot {i : Instr} {s : State} (k : Nat) (f : Slot → Slot) (h : exec i s = .next (s.modSlot k f)) :
    SlotDoes i s k (f (s.slot k)) :=
  ⟨_, h, onlySlot_modSlot s k f, by simp⟩
theorem traps_of {i : Instr} {s : State} {t : Trap} (h : exec i s = .next (s.trap t)) : Traps i s t := does_of_upd _ h
theorem parks_of {i : Instr} {s : State} {b : Bool} (h : exec i s = .next (s.upd (·.parkRetry b))) : Parks i s b :=
  does_of_upd (·.parkRetry b) h

/-- A kernel-level instruction at task level ends in cause 2 (R54). -/
theorem State.kernelOnly_task {s : State} (i : Instr) (k : Unit → Res) (h : s.me.level = .task) :
    s.kernelOnly i k = .next (s.trap (Trap.sync 2 (wordOf i))) := by simp [State.kernelOnly, h, illegalI]
theorem State.kernelOnly_above {s : State} (i : Instr) (k : Unit → Res) (h : s.me.level ≠ .task) :
    s.kernelOnly i k = s.finish (k ()) := by simp [State.kernelOnly, h]
/-- A cluster instruction on a channel core ends in cause 2 (R228). -/
theorem State.clusterOnly_chan {s : State} (i : Instr) (k : Unit → Res) (h : isChan s.core = true) :
    s.clusterOnly i k = .next (s.trap (Trap.sync 2 (wordOf i))) := by simp [State.clusterOnly, h, illegalI]
theorem State.clusterOnly_cluster {s : State} (i : Instr) (k : Unit → Res) (h : isChan s.core = false) :
    s.clusterOnly i k = s.finish (k ()) := by simp [State.clusterOnly, h]

/-! ### Writes by the device (R124, R428) -/

/-- With no checkpoint running a write to HBM holds nothing up: memory, marks, slots and teams are untouched. -/
theorem State.holdWrite_frame (s : State) (pa : Nat) (h : ∀ e, e ∈ s.teams → e.2.ckRun = false) :
    { s.holdWrite pa with remap := s.remap, coreTab := s.coreTab } = s := by
  have early : ∀ p, { s.moveEarly p with remap := s.remap, coreTab := s.coreTab } = s ∧ (s.moveEarly p).teams = s.teams := by
    intro p
    have fold : ∀ (l : List PresReq) (s0 s1 : State), { s1 with remap := s0.remap, coreTab := s0.coreTab } = s0 →
        { l.foldl (fun (s : State) r => s.modCore (chanCore0 + s.chanOf r.pa) fun k => { k with waits := k.waits ++ [r] }) s1 with
          remap := s0.remap, coreTab := s0.coreTab } = s0 := by
      intro l
      induction l with
      | nil => intro s0 s1 h; exact h
      | cons r l ih => intro s0 s1 h; exact ih s0 _ h
    have key : { s.moveEarly p with remap := s.remap, coreTab := s.coreTab } = s := by
      unfold State.moveEarly
      split
      · split
        · rfl
        · exact fold _ s _ rfl
      · rfl
    refine ⟨key, ?_⟩
    have e := congrArg State.teams key; exact e
  have none : ∀ (l : List (Nat × Team)) (s0 : State), (∀ e, e ∈ l → e.2.ckRun = false) →
      l.foldl (fun s e => if e.2.ckRun && e.2.ckUnits.contains (pa / 0x10000) then s.copyUnit e.1 (pa / 0x10000) else s) s0 = s0 := by
    intro l
    induction l with
    | nil => intro s0 _; rfl
    | cons e l ih =>
      intro s0 hl
      simp only [List.foldl_cons, hl e (by simp), Bool.false_and, Bool.false_eq_true, if_false]
      exact ih s0 fun e' h' => hl e' (by simp [h'])
  unfold State.holdWrite
  simp only
  rw [none _ _ (by rw [(early _).2]; exact h)]
  exact (early _).1

/-- What a write does beside its bytes leaves memory, marks, slots and teams alone while no checkpoint runs. -/
theorem State.beforeWrite_frame (s : State) (pa n : Nat) (h : ∀ e, e ∈ s.teams → e.2.ckRun = false) :
    { s.beforeWrite pa n with remap := s.remap, coreTab := s.coreTab, clusters := s.clusters } = s := by
  have inv : ∀ (l : List Nat) (s1 : State), { s1 with remap := s.remap, coreTab := s.coreTab, clusters := s.clusters } = s →
      { l.foldl (fun s i => s.invalidate ((pa / 64 + i) * 64)) s1 with
        remap := s.remap, coreTab := s.coreTab, clusters := s.clusters } = s := by
    intro l
    induction l with
    | nil => intro s1 h; exact h
    | cons i l ih => intro s1 h1; exact ih _ h1
  unfold State.beforeWrite
  split
  · exact inv _ _ (congrArg (fun t : State => { t with clusters := s.clusters }) (s.holdWrite_frame pa h))
  · rfl

/-- Outside HBM a write does nothing beside its bytes. -/
theorem State.beforeWrite_notHbm (s : State) (pa n : Nat) (h : ownerOf pa ≠ .hbm) : s.beforeWrite pa n = s := by
  unfold State.beforeWrite
  split
  · contradiction
  · rfl

/-- Own storage is not HBM. -/
theorem own_notHbm {k pa : Nat} (h : isOwn k pa = true) : ownerOf pa ≠ .hbm := by
  intro e; simp [isOwn, e] at h

/-! ### Translation without a running checkpoint changes memory, TLBs, vault copies and a running remap alone -/

/-- Two states that differ in memory, cores, clusters and a running remap at most. -/
def SameOutside (s t : State) : Prop :=
  { t with mem := s.mem, coreTab := s.coreTab, clusters := s.clusters, remap := s.remap } = s

theorem SameOutside.eq {s t : State} (h : SameOutside s t) :
    { t with mem := s.mem, coreTab := s.coreTab, clusters := s.clusters, remap := s.remap } = s := h

theorem SameOutside.trans {s t u : State} (h : SameOutside s t) (k : SameOutside t u) : SameOutside s u := by
  have e : { u with mem := s.mem, coreTab := s.coreTab, clusters := s.clusters, remap := s.remap }
      = { ({ u with mem := t.mem, coreTab := t.coreTab, clusters := t.clusters, remap := t.remap } : State) with
          mem := s.mem, coreTab := s.coreTab, clusters := s.clusters, remap := s.remap } := rfl
  rw [SameOutside, e, k.eq, h.eq]

/-- No team's checkpoint is running: a write to HBM is held up by none (R286). -/
def State.NoCheckpoint (s : State) : Prop := ∀ e, e ∈ s.teams → e.2.ckRun = false

theorem sameOutside_beforeWrite (s : State) (pa n : Nat) (h : s.NoCheckpoint) : SameOutside s (s.beforeWrite pa n) := by
  have e := congrArg (fun t : State => { t with mem := s.mem }) (s.beforeWrite_frame pa n h)
  exact e

theorem walk_frame {s s' : State} {c : Ctx} {va : Word} {d : Dir} {pa : Nat} {e : Word}
    (q : s.NoCheckpoint) (h : s.walk c va d = .ok (pa, e, s')) : SameOutside s s' := by
  unfold State.walk at h
  split at h
  · cases h
  · split at h
    · cases h
    · simp only [Except.ok.injEq, Prod.mk.injEq] at h
      obtain ⟨-, -, rfl⟩ := h
      have h1 : ∀ (b : Prop) [Decidable b] (a n v : Nat), SameOutside s (if b then s else (s.beforeWrite a n).wr a n v) := by
        intro b _ a n v; split
        · rfl
        · exact sameOutside_beforeWrite s a n q
      have h2 : ∀ (s : State) (k : Nat) (f : CoreSt → CoreSt), SameOutside s (s.modCore k f) := fun _ _ _ => rfl
      have h3 : ∀ (s : State) (b : Bool) (k : Nat) (f : ClusterSt → ClusterSt),
          SameOutside s (if b = true then s else s.modCluster k f) := by intro s b k f; split <;> rfl
      exact ((h1 ..).trans (h2 ..)).trans (h3 ..)

theorem translate_frame {s s' : State} {c : Ctx} {va : Word} {d : Dir} {pa : Nat} {e : Word}
    (q : s.NoCheckpoint) (h : s.translate c va d = .ok (pa, e, s')) : SameOutside s s' := by
  unfold State.translate at h
  simp only at h
  split at h
  · split at h
    · cases h; rfl
    · exact walk_frame q h
  · exact walk_frame q h

theorem resolve_frame {s : State} {c : Ctx} {a : Word} {n : Nat} {d : Dir} {h : Hit}
    (q : s.NoCheckpoint) (e : s.resolve c a n d = .ok h) : SameOutside s h.st := by
  unfold State.resolve at e
  (repeat' split at e) <;> first
    | (cases e; rfl)
    | (cases e; exact translate_frame q ‹_›)
    | cases e

/-- A pointer that resolves while no checkpoint runs leaves slots, agenda, teams and marks as they were. -/
theorem locate_frame {s : State} {k : Nat} {a : Word} {n : Nat} {d : Dir} {h : Hit}
    (q : s.NoCheckpoint) (e : s.locate k a n d = .ok h) : SameOutside s h.st := by
  unfold State.locate at e
  (repeat' split at e) <;> first
    | (cases e; exact resolve_frame q ‹_›)
    | cases e

theorem locateStore_frame {s : State} {k : Nat} {a : Word} {n : Nat} {h : Hit}
    (q : s.NoCheckpoint) (e : s.locateStore k a n = .ok h) : SameOutside s h.st := by
  unfold State.locateStore at e
  (repeat' split at e) <;> first
    | (cases e; exact locate_frame q ‹_›)
    | cases e

theorem SameOutside.slots {s t : State} (h : SameOutside s t) : t.slots = s.slots := by
  have e := congrArg State.slots h.eq; exact e
theorem SameOutside.slot {s t : State} (h : SameOutside s t) (k : Nat) : t.slot k = s.slot k := by
  unfold State.slot; rw [h.slots]
theorem SameOutside.sid {s t : State} (h : SameOutside s t) : t.sid = s.sid := by
  have h1 : t.cores = s.cores := by have e := congrArg State.cores h.eq; exact e
  have h2 : t.phase = s.phase := by have e := congrArg State.phase h.eq; exact e
  have h3 : t.cycle = s.cycle := by have e := congrArg State.cycle h.eq; exact e
  unfold State.sid State.core; rw [h1, h2, h3]
theorem SameOutside.core {s t : State} (h : SameOutside s t) : t.core = s.core := by
  have h1 : t.cores = s.cores := by have e := congrArg State.cores h.eq; exact e
  have h2 : t.phase = s.phase := by have e := congrArg State.phase h.eq; exact e
  unfold State.core; rw [h1, h2]
theorem SameOutside.me {s t : State} (h : SameOutside s t) : t.me = s.me := by
  unfold State.me; rw [h.sid, h.slot]
theorem SameOutside.agenda {s t : State} (h : SameOutside s t) : t.agenda = s.agenda := by
  have e := congrArg State.agenda h.eq; exact e
theorem SameOutside.poison {s t : State} (h : SameOutside s t) : t.poison = s.poison := by
  have e := congrArg State.poison h.eq; exact e
theorem SameOutside.empty {s t : State} (h : SameOutside s t) : t.empty = s.empty := by
  have e := congrArg State.empty h.eq; exact e
theorem SameOutside.flips {s t : State} (h : SameOutside s t) : t.flips = s.flips := by
  have e := congrArg State.flips h.eq; exact e
theorem SameOutside.teams {s t : State} (h : SameOutside s t) : t.teams = s.teams := by
  have e := congrArg State.teams h.eq; exact e
theorem SameOutside.hostPage {s t : State} (h : SameOutside s t) : t.hostPage = s.hostPage := by
  have e := congrArg State.hostPage h.eq; exact e

/-- What comes before a write keeps the canonical form of memory. -/
theorem wf_putPiece {s : State} (w : Memory.wf s.mem = true) (u k : Nat) (d : List Byte) (i : Nat) :
    Memory.wf (s.putPiece u k d i).mem = true := by
  have net : ∀ (s : State) (p : Nat) (b : List Byte), (s.netSend p b).mem = s.mem := by
    intro s p b; unfold State.netSend State.netNext; simp only; (repeat' split) <;> rfl
  unfold State.putPiece
  simp only
  (repeat' split) <;> (try rw [net]) <;> first | exact wf_moveData w _ _ _ | exact wf_wrBytes _ w _

theorem wf_beforeWrite {s : State} (w : Memory.wf s.mem = true) (pa n : Nat) : Memory.wf (s.beforeWrite pa n).mem = true := by
  have inv : ∀ (l : List Nat) (s : State), (l.foldl (fun s i => s.invalidate ((pa / 64 + i) * 64)) s).mem = s.mem := by
    intro l
    induction l with
    | nil => intro s; rfl
    | cons i l ih => intro s; exact ih _
  have pieces : ∀ (l : List Nat) (s : State) (u k : Nat) (d : List Byte), Memory.wf s.mem = true →
      Memory.wf (l.foldl (fun s i => s.putPiece u k d i) s).mem = true := by
    intro l
    induction l with
    | nil => intro s u k d h; exact h
    | cons i l ih => intro s u k d h; exact ih _ u k d (wf_putPiece h u k d i)
  have unit : ∀ (s : State) (t u : Nat), Memory.wf s.mem = true → Memory.wf (s.copyUnit t u).mem = true := by
    intro s t u h
    have same : ∀ (s : State) (t : Nat) (f : Team → Team), (s.modTeam t f).mem = s.mem := by
      intro s t f; unfold State.modTeam; split <;> rfl
    unfold State.copyUnit
    split <;> rw [same]
    · exact pieces _ s _ _ _ h
    · exact h
  have teams : ∀ (l : List (Nat × Team)) (s : State), Memory.wf s.mem = true → Memory.wf (l.foldl (fun s e =>
      if e.2.ckRun && e.2.ckUnits.contains (pa / 0x10000) then s.copyUnit e.1 (pa / 0x10000) else s) s).mem = true := by
    intro l
    induction l with
    | nil => intro s h; exact h
    | cons e l ih =>
      intro s h
      refine ih _ ?_
      dsimp only
      split
      · exact unit _ _ _ h
      · exact h
  have waits : ∀ (l : List PresReq) (s0 s1 : State), s1.mem = s0.mem →
      (l.foldl (fun (s : State) r => s.modCore (chanCore0 + s.chanOf r.pa) fun k => { k with waits := k.waits ++ [r] }) s1).mem
        = s0.mem := by
    intro l
    induction l with
    | nil => intro s0 s1 h; exact h
    | cons r l ih => intro s0 s1 h; exact ih s0 _ h
  have early : (s.moveEarly (pa / 0x10000)).mem = s.mem := by
    unfold State.moveEarly
    split
    · split
      · rfl
      · exact waits _ s _ rfl
    · rfl
  unfold State.beforeWrite
  split
  · rw [inv]
    exact teams _ _ (by rw [early]; exact w)
  · exact w

/-- Translation keeps the canonical form of memory. -/
theorem walk_wf {s s' : State} {c : Ctx} {va : Word} {d : Dir} {pa : Nat} {e : Word} (w : Memory.wf s.mem = true)
    (h : s.walk c va d = .ok (pa, e, s')) : Memory.wf s'.mem = true := by
  unfold State.walk at h
  split at h
  · cases h
  · split at h
    · cases h
    · simp only [Except.ok.injEq, Prod.mk.injEq] at h
      obtain ⟨-, -, rfl⟩ := h
      (repeat' split) <;> first | exact w | exact wf_wr (wf_beforeWrite w _ _) _ _ _

/-- With no flip to correct a read corrects nothing. -/
theorem State.correctAt_none (s : State) (k pa n : Nat) (h : s.flips = []) : s.correctAt k pa n = s := by
  simp [State.correctAt, h]

/-! ### Registers outlast retiring and parking -/

@[simp] theorem Slot.rx_retire (sl : Slot) (r : XReg) : sl.retire.rx r = sl.rx r := by unfold Slot.retire; split <;> rfl
@[simp] theorem Slot.rv_retire (sl : Slot) (r : VReg) : sl.retire.rv r = sl.rv r := by unfold Slot.retire; split <;> rfl
@[simp] theorem Slot.rp_retire (sl : Slot) (r : PReg) : sl.retire.rp r = sl.rp r := by unfold Slot.retire; split <;> rfl
@[simp] theorem Slot.retire_status (sl : Slot) : sl.retire.status = .ready := by unfold Slot.retire; split <;> rfl
@[simp] theorem Slot.rx_wv (sl : Slot) (d : VReg) (w : VWord) (r : XReg) : (sl.wv d w).rx r = sl.rx r := rfl
@[simp] theorem Slot.rx_wp (sl : Slot) (d : PReg) (w : PWord) (r : XReg) : (sl.wp d w).rx r = sl.rx r := rfl
@[simp] theorem Slot.rv_wx (sl : Slot) (d : XReg) (w : Word) (r : VReg) : (sl.wx d w).rv r = sl.rv r := by
  unfold Slot.wx; split <;> rfl
@[simp] theorem Slot.rp_wx (sl : Slot) (d : XReg) (w : Word) (r : PReg) : (sl.wx d w).rp r = sl.rp r := by
  unfold Slot.wx; split <;> rfl


end Sys2Proof.Machine
end

