-- ==== Sys2Proof/Laws/PerInstr.lean ====
section
/-! SUPPORT. One lemma per constructor of Instr: no instruction is both an instruction word and a tile command. -/

namespace Sys2Proof.Laws.WordOrTile

/-- An instruction has no instruction word, or no tile command word. -/
def Statement (i : Instr) : Prop := encode i = none ∨ encodeTile i = none

theorem add (rd rs1 rs2 : XReg) : Statement (.add rd rs1 rs2) := .inr rfl
theorem sub (rd rs1 rs2 : XReg) : Statement (.sub rd rs1 rs2) := .inr rfl
theorem sll (rd rs1 rs2 : XReg) : Statement (.sll rd rs1 rs2) := .inr rfl
theorem slt (rd rs1 rs2 : XReg) : Statement (.slt rd rs1 rs2) := .inr rfl
theorem sltu (rd rs1 rs2 : XReg) : Statement (.sltu rd rs1 rs2) := .inr rfl
theorem xor (rd rs1 rs2 : XReg) : Statement (.xor rd rs1 rs2) := .inr rfl
theorem srl (rd rs1 rs2 : XReg) : Statement (.srl rd rs1 rs2) := .inr rfl
theorem sra (rd rs1 rs2 : XReg) : Statement (.sra rd rs1 rs2) := .inr rfl
theorem or (rd rs1 rs2 : XReg) : Statement (.or rd rs1 rs2) := .inr rfl
theorem and (rd rs1 rs2 : XReg) : Statement (.and rd rs1 rs2) := .inr rfl
theorem addw (rd rs1 rs2 : XReg) : Statement (.addw rd rs1 rs2) := .inr rfl
theorem subw (rd rs1 rs2 : XReg) : Statement (.subw rd rs1 rs2) := .inr rfl
theorem sllw (rd rs1 rs2 : XReg) : Statement (.sllw rd rs1 rs2) := .inr rfl
theorem srlw (rd rs1 rs2 : XReg) : Statement (.srlw rd rs1 rs2) := .inr rfl
theorem sraw (rd rs1 rs2 : XReg) : Statement (.sraw rd rs1 rs2) := .inr rfl
theorem mul (rd rs1 rs2 : XReg) : Statement (.mul rd rs1 rs2) := .inr rfl
theorem mulh (rd rs1 rs2 : XReg) : Statement (.mulh rd rs1 rs2) := .inr rfl
theorem mulhsu (rd rs1 rs2 : XReg) : Statement (.mulhsu rd rs1 rs2) := .inr rfl
theorem mulhu (rd rs1 rs2 : XReg) : Statement (.mulhu rd rs1 rs2) := .inr rfl
theorem div (rd rs1 rs2 : XReg) : Statement (.div rd rs1 rs2) := .inr rfl
theorem divu (rd rs1 rs2 : XReg) : Statement (.divu rd rs1 rs2) := .inr rfl
theorem rem (rd rs1 rs2 : XReg) : Statement (.rem rd rs1 rs2) := .inr rfl
theorem remu (rd rs1 rs2 : XReg) : Statement (.remu rd rs1 rs2) := .inr rfl
theorem mulw (rd rs1 rs2 : XReg) : Statement (.mulw rd rs1 rs2) := .inr rfl
theorem divw (rd rs1 rs2 : XReg) : Statement (.divw rd rs1 rs2) := .inr rfl
theorem divuw (rd rs1 rs2 : XReg) : Statement (.divuw rd rs1 rs2) := .inr rfl
theorem remw (rd rs1 rs2 : XReg) : Statement (.remw rd rs1 rs2) := .inr rfl
theorem remuw (rd rs1 rs2 : XReg) : Statement (.remuw rd rs1 rs2) := .inr rfl
theorem addi (rd rs1 : XReg) (imm : BitVec 12) : Statement (.addi rd rs1 imm) := .inr rfl
theorem slti (rd rs1 : XReg) (imm : BitVec 12) : Statement (.slti rd rs1 imm) := .inr rfl
theorem sltiu (rd rs1 : XReg) (imm : BitVec 12) : Statement (.sltiu rd rs1 imm) := .inr rfl
theorem xori (rd rs1 : XReg) (imm : BitVec 12) : Statement (.xori rd rs1 imm) := .inr rfl
theorem ori (rd rs1 : XReg) (imm : BitVec 12) : Statement (.ori rd rs1 imm) := .inr rfl
theorem andi (rd rs1 : XReg) (imm : BitVec 12) : Statement (.andi rd rs1 imm) := .inr rfl
theorem slli (rd rs1 : XReg) (sh : BitVec 6) : Statement (.slli rd rs1 sh) := .inr rfl
theorem srli (rd rs1 : XReg) (sh : BitVec 6) : Statement (.srli rd rs1 sh) := .inr rfl
theorem srai (rd rs1 : XReg) (sh : BitVec 6) : Statement (.srai rd rs1 sh) := .inr rfl
theorem addiw (rd rs1 : XReg) (imm : BitVec 12) : Statement (.addiw rd rs1 imm) := .inr rfl
theorem slliw (rd rs1 : XReg) (sh : BitVec 5) : Statement (.slliw rd rs1 sh) := .inr rfl
theorem srliw (rd rs1 : XReg) (sh : BitVec 5) : Statement (.srliw rd rs1 sh) := .inr rfl
theorem sraiw (rd rs1 : XReg) (sh : BitVec 5) : Statement (.sraiw rd rs1 sh) := .inr rfl
theorem lb (rd rs1 : XReg) (imm : BitVec 12) : Statement (.lb rd rs1 imm) := .inr rfl
theorem lh (rd rs1 : XReg) (imm : BitVec 12) : Statement (.lh rd rs1 imm) := .inr rfl
theorem lw (rd rs1 : XReg) (imm : BitVec 12) : Statement (.lw rd rs1 imm) := .inr rfl
theorem ld (rd rs1 : XReg) (imm : BitVec 12) : Statement (.ld rd rs1 imm) := .inr rfl
theorem lbu (rd rs1 : XReg) (imm : BitVec 12) : Statement (.lbu rd rs1 imm) := .inr rfl
theorem lhu (rd rs1 : XReg) (imm : BitVec 12) : Statement (.lhu rd rs1 imm) := .inr rfl
theorem lwu (rd rs1 : XReg) (imm : BitVec 12) : Statement (.lwu rd rs1 imm) := .inr rfl
theorem sb (rs2 rs1 : XReg) (imm : BitVec 12) : Statement (.sb rs2 rs1 imm) := .inr rfl
theorem sh (rs2 rs1 : XReg) (imm : BitVec 12) : Statement (.sh rs2 rs1 imm) := .inr rfl
theorem sw (rs2 rs1 : XReg) (imm : BitVec 12) : Statement (.sw rs2 rs1 imm) := .inr rfl
theorem sd (rs2 rs1 : XReg) (imm : BitVec 12) : Statement (.sd rs2 rs1 imm) := .inr rfl
theorem beq (rs1 rs2 : XReg) (off : BitVec 12) : Statement (.beq rs1 rs2 off) := .inr rfl
theorem bne (rs1 rs2 : XReg) (off : BitVec 12) : Statement (.bne rs1 rs2 off) := .inr rfl
theorem blt (rs1 rs2 : XReg) (off : BitVec 12) : Statement (.blt rs1 rs2 off) := .inr rfl
theorem bge (rs1 rs2 : XReg) (off : BitVec 12) : Statement (.bge rs1 rs2 off) := .inr rfl
theorem bltu (rs1 rs2 : XReg) (off : BitVec 12) : Statement (.bltu rs1 rs2 off) := .inr rfl
theorem bgeu (rs1 rs2 : XReg) (off : BitVec 12) : Statement (.bgeu rs1 rs2 off) := .inr rfl
theorem lui (rd : XReg) (imm : BitVec 20) : Statement (.lui rd imm) := .inr rfl
theorem auipc (rd : XReg) (imm : BitVec 20) : Statement (.auipc rd imm) := .inr rfl
theorem jal (rd : XReg) (off : BitVec 20) : Statement (.jal rd off) := .inr rfl
theorem jalr (rd rs1 : XReg) (imm : BitVec 12) : Statement (.jalr rd rs1 imm) := .inr rfl
theorem csrrw (rd : XReg) (csr : BitVec 12) (rs1 : XReg) : Statement (.csrrw rd csr rs1) := .inr rfl
theorem csrrs (rd : XReg) (csr : BitVec 12) (rs1 : XReg) : Statement (.csrrs rd csr rs1) := .inr rfl
theorem csrrc (rd : XReg) (csr : BitVec 12) (rs1 : XReg) : Statement (.csrrc rd csr rs1) := .inr rfl
theorem csrrwi (rd : XReg) (csr : BitVec 12) (u : BitVec 5) : Statement (.csrrwi rd csr u) := .inr rfl
theorem csrrsi (rd : XReg) (csr : BitVec 12) (u : BitVec 5) : Statement (.csrrsi rd csr u) := .inr rfl
theorem csrrci (rd : XReg) (csr : BitVec 12) (u : BitVec 5) : Statement (.csrrci rd csr u) := .inr rfl
theorem fence (rd rs1 : XReg) (imm : BitVec 12) : Statement (.fence rd rs1 imm) := .inr rfl
theorem fenceI (rd rs1 : XReg) (imm : BitVec 12) : Statement (.fenceI rd rs1 imm) := .inr rfl
theorem ecall : Statement (.ecall ) := .inr rfl
theorem ebreak : Statement (.ebreak ) := .inr rfl
theorem ldfk (rd rs1 : XReg) : Statement (.ldfk rd rs1) := .inr rfl
theorem ldfe (rd rs1 : XReg) : Statement (.ldfe rd rs1) := .inr rfl
theorem stef (rs2 rs1 : XReg) : Statement (.stef rs2 rs1) := .inr rfl
theorem stfl (rs2 rs1 : XReg) : Statement (.stfl rs2 rs1) := .inr rfl
theorem feget (rd rs1 : XReg) : Statement (.feget rd rs1) := .inr rfl
theorem feput (rs2 rs1 : XReg) : Statement (.feput rs2 rs1) := .inr rfl
theorem rld (rd rs1 : XReg) : Statement (.rld rd rs1) := .inr rfl
theorem rldv (vd : VReg) (rs1 : XReg) : Statement (.rldv vd rs1) := .inr rfl
theorem rst (rs2 rs1 : XReg) : Statement (.rst rs2 rs1) := .inr rfl
theorem rstv (vs2 : VReg) (rs1 : XReg) : Statement (.rstv vs2 rs1) := .inr rfl
theorem mcst (rs2 rs1 : XReg) : Statement (.mcst rs2 rs1) := .inr rfl
theorem mcstv (vs2 : VReg) (rs1 : XReg) : Statement (.mcstv vs2 rs1) := .inr rfl
theorem amadd (rd rs2 rs1 : XReg) (nr aq rl : Bool) : Statement (.amadd rd rs2 rs1 nr aq rl) := .inr rfl
theorem amand (rd rs2 rs1 : XReg) (nr aq rl : Bool) : Statement (.amand rd rs2 rs1 nr aq rl) := .inr rfl
theorem amor (rd rs2 rs1 : XReg) (nr aq rl : Bool) : Statement (.amor rd rs2 rs1 nr aq rl) := .inr rfl
theorem amxor (rd rs2 rs1 : XReg) (nr aq rl : Bool) : Statement (.amxor rd rs2 rs1 nr aq rl) := .inr rfl
theorem ammax (rd rs2 rs1 : XReg) (nr aq rl : Bool) : Statement (.ammax rd rs2 rs1 nr aq rl) := .inr rfl
theorem ammin (rd rs2 rs1 : XReg) (nr aq rl : Bool) : Statement (.ammin rd rs2 rs1 nr aq rl) := .inr rfl
theorem amswap (rd rs2 rs1 : XReg) (nr aq rl : Bool) : Statement (.amswap rd rs2 rs1 nr aq rl) := .inr rfl
theorem amcas (rd rs2 rs1 : XReg) (nr aq rl : Bool) : Statement (.amcas rd rs2 rs1 nr aq rl) := .inr rfl
theorem amfadd (rd rs2 rs1 : XReg) (nr aq rl : Bool) : Statement (.amfadd rd rs2 rs1 nr aq rl) := .inr rfl
theorem amfmax (rd rs2 rs1 : XReg) (nr aq rl : Bool) : Statement (.amfmax rd rs2 rs1 nr aq rl) := .inr rfl
theorem cpy (ch : BitVec 2) (bc : Option (BitVec 3)) (rs1 rs2 rs3 : XReg) : Statement (.cpy ch bc rs1 rs2 rs3) := .inr rfl
theorem cpy2d (ch : BitVec 2) (bc : Option (BitVec 3)) (rs1 rs2 rs3 : XReg) : Statement (.cpy2d ch bc rs1 rs2 rs3) := .inr rfl
theorem cpyg (ch : BitVec 2) (bc : Option (BitVec 3)) (rs1 rs2 rs3 : XReg) : Statement (.cpyg ch bc rs1 rs2 rs3) := .inr rfl
theorem cpys (ch : BitVec 2) (bc : Option (BitVec 3)) (rs1 rs2 rs3 : XReg) : Statement (.cpys ch bc rs1 rs2 rs3) := .inr rfl
theorem cseal (rd : XReg) : Statement (.cseal rd) := .inr rfl
theorem cwait (n : BitVec 5) : Statement (.cwait n) := .inr rfl
theorem bcarm (id : BitVec 3) (rs1 : XReg) : Statement (.bcarm id rs1) := .inr rfl
theorem bcwait (id : BitVec 3) : Statement (.bcwait id) := .inr rfl
theorem pgzero (rs1 : XReg) : Statement (.pgzero rs1) := .inr rfl
theorem pgcopy (rs1 rs2 : XReg) : Statement (.pgcopy rs1 rs2) := .inr rfl
theorem exit : Statement (.exit ) := .inr rfl
theorem yield : Statement (.yield ) := .inr rfl
theorem park (rs1 : XReg) : Statement (.park rs1) := .inr rfl
theorem follow : Statement (.follow ) := .inr rfl
theorem migr (rs1 : XReg) : Statement (.migr rs1) := .inr rfl
theorem home : Statement (.home ) := .inr rfl
theorem spawn (rs1 rs2 : XReg) : Statement (.spawn rs1 rs2) := .inr rfl
theorem deleg (rs1 rs2 : XReg) : Statement (.deleg rs1 rs2) := .inr rfl
theorem delegReply (rs1 rs2 : XReg) (h : BitVec 4) : Statement (.delegReply rs1 rs2 h) := .inr rfl
theorem step : Statement (.step ) := .inr rfl
theorem ckpt : Statement (.ckpt ) := .inr rfl
theorem safept (idx : BitVec 12) : Statement (.safept idx) := .inr rfl
theorem loop (rs1 : XReg) (n : BitVec 12) : Statement (.loop rs1 n) := .inr rfl
theorem qrd (rd : XReg) (q : QReg) : Statement (.qrd rd q) := .inr rfl
theorem qwr (q : QReg) (rs2 : XReg) : Statement (.qwr q rs2) := .inr rfl
theorem qrdv (vd : VReg) (q : QReg) : Statement (.qrdv vd q) := .inr rfl
theorem qwrv (q : QReg) (vs2 : VReg) : Statement (.qwrv q vs2) := .inr rfl
theorem qtst (rd : XReg) (q : QReg) : Statement (.qtst rd q) := .inr rfl
theorem qwait (rd rs1 : XReg) : Statement (.qwait rd rs1) := .inr rfl
theorem qbind (q : QReg) (rs2 : XReg) : Statement (.qbind q rs2) := .inr rfl
theorem qfree (q : QReg) : Statement (.qfree q) := .inr rfl
theorem qbr (q : QReg) (off : BitVec 12) : Statement (.qbr q off) := .inr rfl
theorem barinit (b : BitVec 3) (rs1 : XReg) : Statement (.barinit b rs1) := .inr rfl
theorem bararv (b : BitVec 3) : Statement (.bararv b) := .inr rfl
theorem barwt (b : BitVec 3) : Statement (.barwt b) := .inr rfl
theorem barsyn (b : BitVec 3) : Statement (.barsyn b) := .inr rfl
theorem barq (rd : XReg) (b : BitVec 3) : Statement (.barq rd b) := .inr rfl
theorem cdopen (rs1 : XReg) : Statement (.cdopen rs1) := .inr rfl
theorem cdpresCopy (rs1 rs2 : XReg) : Statement (.cdpresCopy rs1 rs2) := .inr rfl
theorem cdpresRef (rs1 rs2 : XReg) : Statement (.cdpresRef rs1 rs2) := .inr rfl
theorem cdclose : Statement (.cdclose ) := .inr rfl
theorem cdabort : Statement (.cdabort ) := .inr rfl
theorem cdstat (rd : XReg) : Statement (.cdstat rd) := .inr rfl
theorem scopef (kind : BitVec 2) (scope : BitVec 3) : Statement (.scopef kind scope) := .inr rfl
theorem enq (q : QReg) (vs2 : VReg) : Statement (.enq q vs2) := .inr rfl
theorem mlease : Statement (.mlease ) := .inr rfl
theorem mrel : Statement (.mrel ) := .inr rfl
theorem efence (rs1 rs2 : XReg) : Statement (.efence rs1 rs2) := .inr rfl
theorem msend (rs1 rs2 : XReg) : Statement (.msend rs1 rs2) := .inr rfl
theorem msendv (rs1 : XReg) (vs2 : VReg) : Statement (.msendv rs1 vs2) := .inr rfl
theorem ksfbind (rs1 rs2 : XReg) : Statement (.ksfbind rs1 rs2) := .inr rfl
theorem eres (rs1 : XReg) : Statement (.eres rs1) := .inr rfl
theorem kret : Statement (.kret ) := .inr rfl
theorem tlbinv (rs1 rs2 : XReg) : Statement (.tlbinv rs1 rs2) := .inr rfl
theorem ctxst (rs1 rs2 : XReg) : Statement (.ctxst rs1 rs2) := .inr rfl
theorem ctxld (rs1 rs2 : XReg) : Statement (.ctxld rs1 rs2) := .inr rfl
theorem scrub (rs1 rs2 : XReg) : Statement (.scrub rs1 rs2) := .inr rfl
theorem teamstop (rs1 : XReg) : Statement (.teamstop rs1) := .inr rfl
theorem teamgo (rs1 : XReg) : Statement (.teamgo rs1) := .inr rfl
theorem ptparm (rs1 : XReg) : Statement (.ptparm rs1) := .inr rfl
theorem ksfload (rs1 rs2 : XReg) : Statement (.ksfload rs1 rs2) := .inr rfl
theorem vadd (pred : PReg) (ty : LaneTy) (vd vs1 vs2 : VReg) : Statement (.vadd pred ty vd vs1 vs2) := .inr rfl
theorem vsub (pred : PReg) (ty : LaneTy) (vd vs1 vs2 : VReg) : Statement (.vsub pred ty vd vs1 vs2) := .inr rfl
theorem vmul (pred : PReg) (ty : LaneTy) (vd vs1 vs2 : VReg) : Statement (.vmul pred ty vd vs1 vs2) := .inr rfl
theorem vfma (pred : PReg) (ty : LaneTy) (vd vs1 vs2 : VReg) : Statement (.vfma pred ty vd vs1 vs2) := .inr rfl
theorem vfms (pred : PReg) (ty : LaneTy) (vd vs1 vs2 : VReg) : Statement (.vfms pred ty vd vs1 vs2) := .inr rfl
theorem vmax (pred : PReg) (ty : LaneTy) (vd vs1 vs2 : VReg) : Statement (.vmax pred ty vd vs1 vs2) := .inr rfl
theorem vmin (pred : PReg) (ty : LaneTy) (vd vs1 vs2 : VReg) : Statement (.vmin pred ty vd vs1 vs2) := .inr rfl
theorem vabs (pred : PReg) (ty : LaneTy) (vd vs1 : VReg) : Statement (.vabs pred ty vd vs1) := .inr rfl
theorem vneg (pred : PReg) (ty : LaneTy) (vd vs1 : VReg) : Statement (.vneg pred ty vd vs1) := .inr rfl
theorem vcmpEq (pred : PReg) (ty : LaneTy) (pd : PReg) (vs1 vs2 : VReg) : Statement (.vcmpEq pred ty pd vs1 vs2) := .inr rfl
theorem vcmpLt (pred : PReg) (ty : LaneTy) (pd : PReg) (vs1 vs2 : VReg) : Statement (.vcmpLt pred ty pd vs1 vs2) := .inr rfl
theorem vcmpLe (pred : PReg) (ty : LaneTy) (pd : PReg) (vs1 vs2 : VReg) : Statement (.vcmpLe pred ty pd vs1 vs2) := .inr rfl
theorem vcmpNe (pred : PReg) (ty : LaneTy) (pd : PReg) (vs1 vs2 : VReg) : Statement (.vcmpNe pred ty pd vs1 vs2) := .inr rfl
theorem vcvt (pred : PReg) (ty src : LaneTy) (vd vs1 : VReg) : Statement (.vcvt pred ty src vd vs1) := .inr rfl
theorem vrcpe (pred : PReg) (ty : LaneTy) (vd vs1 : VReg) : Statement (.vrcpe pred ty vd vs1) := .inr rfl
theorem vrsqe (pred : PReg) (ty : LaneTy) (vd vs1 : VReg) : Statement (.vrsqe pred ty vd vs1) := .inr rfl
theorem vexp2e (pred : PReg) (ty : LaneTy) (vd vs1 : VReg) : Statement (.vexp2e pred ty vd vs1) := .inr rfl
theorem vreds (pred : PReg) (ty : LaneTy) (vd vs1 : VReg) : Statement (.vreds pred ty vd vs1) := .inr rfl
theorem vredm (pred : PReg) (ty : LaneTy) (vd vs1 : VReg) : Statement (.vredm pred ty vd vs1) := .inr rfl
theorem vcmul (pred : PReg) (vd vs1 vs2 : VReg) : Statement (.vcmul pred vd vs1 vs2) := .inr rfl
theorem viadd (pred : PReg) (ty : LaneTy) (vd vs1 vs2 : VReg) : Statement (.viadd pred ty vd vs1 vs2) := .inr rfl
theorem visub (pred : PReg) (ty : LaneTy) (vd vs1 vs2 : VReg) : Statement (.visub pred ty vd vs1 vs2) := .inr rfl
theorem vimul (pred : PReg) (ty : LaneTy) (vd vs1 vs2 : VReg) : Statement (.vimul pred ty vd vs1 vs2) := .inr rfl
theorem vand (pred : PReg) (ty : LaneTy) (vd vs1 vs2 : VReg) : Statement (.vand pred ty vd vs1 vs2) := .inr rfl
theorem vor (pred : PReg) (ty : LaneTy) (vd vs1 vs2 : VReg) : Statement (.vor pred ty vd vs1 vs2) := .inr rfl
theorem vxor (pred : PReg) (ty : LaneTy) (vd vs1 vs2 : VReg) : Statement (.vxor pred ty vd vs1 vs2) := .inr rfl
theorem vshl (pred : PReg) (ty : LaneTy) (vd vs1 vs2 : VReg) : Statement (.vshl pred ty vd vs1 vs2) := .inr rfl
theorem vshr (pred : PReg) (ty : LaneTy) (vd vs1 vs2 : VReg) : Statement (.vshr pred ty vd vs1 vs2) := .inr rfl
theorem vsra (pred : PReg) (ty : LaneTy) (vd vs1 vs2 : VReg) : Statement (.vsra pred ty vd vs1 vs2) := .inr rfl
theorem vimax (pred : PReg) (ty : LaneTy) (vd vs1 vs2 : VReg) : Statement (.vimax pred ty vd vs1 vs2) := .inr rfl
theorem vimin (pred : PReg) (ty : LaneTy) (vd vs1 vs2 : VReg) : Statement (.vimin pred ty vd vs1 vs2) := .inr rfl
theorem vicmpEq (pred : PReg) (ty : LaneTy) (pd : PReg) (vs1 vs2 : VReg) : Statement (.vicmpEq pred ty pd vs1 vs2) := .inr rfl
theorem vicmpLt (pred : PReg) (ty : LaneTy) (pd : PReg) (vs1 vs2 : VReg) : Statement (.vicmpLt pred ty pd vs1 vs2) := .inr rfl
theorem vicmpLe (pred : PReg) (ty : LaneTy) (pd : PReg) (vs1 vs2 : VReg) : Statement (.vicmpLe pred ty pd vs1 vs2) := .inr rfl
theorem vicmpNe (pred : PReg) (ty : LaneTy) (pd : PReg) (vs1 vs2 : VReg) : Statement (.vicmpNe pred ty pd vs1 vs2) := .inr rfl
theorem vld (vd : VReg) (rs1 : XReg) : Statement (.vld vd rs1) := .inr rfl
theorem vst (vs2 : VReg) (rs1 : XReg) : Statement (.vst vs2 rs1) := .inr rfl
theorem vlds (h : Bool) (vd : VReg) (rs1 rs2 : XReg) : Statement (.vlds h vd rs1 rs2) := .inr rfl
theorem vsts (h : Bool) (vs : VReg) (rs1 rs2 : XReg) : Statement (.vsts h vs rs1 rs2) := .inr rfl
theorem vgath (h : Bool) (vd : VReg) (rs1 : XReg) (vi : VReg) : Statement (.vgath h vd rs1 vi) := .inr rfl
theorem vscat (h : Bool) (vs : VReg) (rs1 : XReg) (vi : VReg) : Statement (.vscat h vs rs1 vi) := .inr rfl
theorem vbcst (h : Bool) (vd : VReg) (rs1 : XReg) : Statement (.vbcst h vd rs1) := .inr rfl
theorem vmvx (h : Bool) (rd : XReg) (vs1 : VReg) (rs2 : XReg) : Statement (.vmvx h rd vs1 rs2) := .inr rfl
theorem vins (h : Bool) (vd : VReg) (rs1 rs2 : XReg) : Statement (.vins h vd rs1 rs2) := .inr rfl
theorem vshuf (vd vs1 vs2 : VReg) : Statement (.vshuf vd vs1 vs2) := .inr rfl
theorem viota (h : Bool) (vd : VReg) (rs1 : XReg) : Statement (.viota h vd rs1) := .inr rfl
theorem vsel (h : Bool) (vd vs1 vs2 : VReg) (k : PReg) : Statement (.vsel h vd vs1 vs2 k) := .inr rfl
theorem pand (pd pa pb : PReg) : Statement (.pand pd pa pb) := .inr rfl
theorem por (pd pa pb : PReg) : Statement (.por pd pa pb) := .inr rfl
theorem pxor (pd pa pb : PReg) : Statement (.pxor pd pa pb) := .inr rfl
theorem pnot (pd pa : PReg) : Statement (.pnot pd pa) := .inr rfl
theorem pcnt (rd : XReg) (pa : PReg) : Statement (.pcnt rd pa) := .inr rfl
theorem pfirst (rd : XReg) (pa : PReg) : Statement (.pfirst rd pa) := .inr rfl
theorem bsget (rd : XReg) (n1 : BitVec 5) : Statement (.bsget rd n1) := .inr rfl
theorem bsput (rs1 : XReg) (n1 : BitVec 5) : Statement (.bsput rs1 n1) := .inr rfl
theorem bspeek (rd : XReg) (n1 : BitVec 5) : Statement (.bspeek rd n1) := .inr rfl
theorem bsskip (rs1 : XReg) : Statement (.bsskip rs1) := .inr rfl
theorem bsflsh : Statement (.bsflsh ) := .inr rfl
theorem bsalgnRd : Statement (.bsalgnRd ) := .inr rfl
theorem bsalgnWr : Statement (.bsalgnWr ) := .inr rfl
theorem mma (h : TileHdr) (bank : BitVec 2) (acc : Bool) (bform : BitVec 2) (xexp : BitVec 17) (a : BitVec 57) (st1 : BitVec 7) (woff : BitVec 57) : Statement (.mma h bank acc bform xexp a st1 woff) := .inl rfl
theorem mvb (h : TileHdr) (bank : BitVec 2) (acc : Bool) (vmask : BitVec 8) (tile : BitVec 57) : Statement (.mvb h bank acc vmask tile) := .inl rfl
theorem mldv (h : TileHdr) (vslot : BitVec 3) (xd xsel : Bool) (xexp : BitVec 17) (vec : BitVec 57) : Statement (.mldv h vslot xd xsel xexp vec) := .inl rfl
theorem mwld (h : TileHdr) (form : BitVec 2) (src woff : BitVec 57) : Statement (.mwld h form src woff) := .inl rfl
theorem mzero (h : TileHdr) (bank : BitVec 2) : Statement (.mzero h bank) := .inl rfl
theorem mstc (h : TileHdr) (bank : BitVec 2) (fold ovr : Bool) (sfmt : BitVec 3) (foldw dst : BitVec 57) (st3 : BitVec 7) : Statement (.mstc h bank fold ovr sfmt foldw dst st3) := .inl rfl
theorem mtrn (h : TileHdr) (bank : BitVec 2) (xexp : BitVec 17) (a : BitVec 57) (st1 : BitVec 7) : Statement (.mtrn h bank xexp a st1) := .inl rfl
theorem mperm (h : TileHdr) (bank : BitVec 2) (acc : Bool) (xexp : BitVec 17) (a : BitVec 57) (st1 : BitVec 7) (idx : BitVec 57) : Statement (.mperm h bank acc xexp a st1 idx) := .inl rfl
theorem mrsum (h : TileHdr) (bank : BitVec 2) (acc : Bool) (seg : BitVec 3) (xexp : BitVec 17) (a : BitVec 57) (st1 : BitVec 7) : Statement (.mrsum h bank acc seg xexp a st1) := .inl rfl
theorem sfft (h : TileHdr) (shape : Shape) (src dst : BitVec 57) : Statement (.sfft h shape src dst) := .inl rfl
theorem sifft (h : TileHdr) (shape : Shape) (src dst : BitVec 57) : Statement (.sifft h shape src dst) := .inl rfl
theorem scmm (h : TileHdr) (bank : BitVec 2) (shape : Shape) (src woff dst : BitVec 57) : Statement (.scmm h bank shape src woff dst) := .inl rfl
theorem stagMode0 (h : TileHdr) (et : BitVec 17) (shape : Shape) (src dst : BitVec 57) : Statement (.stagMode0 h et shape src dst) := .inl rfl
theorem stagMode1 (h : TileHdr) (shape : Shape) (src ref dst : BitVec 57) : Statement (.stagMode1 h shape src ref dst) := .inl rfl
theorem stagMode2 (h : TileHdr) (shape : Shape) (src dst : BitVec 57) : Statement (.stagMode2 h shape src dst) := .inl rfl
theorem ttopk (h : TileHdr) (lb : BitVec 3) (res : Bool) (kb : KBlk) (x r out : Word) : Statement (.ttopk h lb res kb x r out) := .inl rfl
theorem tspadd (h : TileHdr) (kb : KBlk) (pairs : Word) (len : BitVec 26) (vec : Word) : Statement (.tspadd h kb pairs len vec) := .inl rfl
theorem tpack (h : TileHdr) (lb : BitVec 3) (kb : KBlk) (src dst : Word) : Statement (.tpack h lb kb src dst) := .inl rfl
theorem tunpk (h : TileHdr) (lb : BitVec 3) (kb : KBlk) (src dst : Word) : Statement (.tunpk h lb kb src dst) := .inl rfl
theorem tlink (h : TileHdr) (n1 : BitVec 4) (list : BitVec 57) : Statement (.tlink h n1 list) := .inl rfl
theorem cbatchCdoneWrite (v : Word) : Statement (.cbatchCdoneWrite v) := .inr rfl
theorem preqWrite (sid : Nat) (v : Word) : Statement (.preqWrite sid v) := .inr rfl
theorem dmapWrite (v : Word) : Statement (.dmapWrite v) := .inr rfl
theorem loopRegisterWrite (csr : BitVec 12) (v : Word) : Statement (.loopRegisterWrite csr v) := .inr rfl
theorem csrWrite (csr : BitVec 12) (v : Word) : Statement (.csrWrite csr v) := .inr rfl
theorem interruptEntry (sid : Nat) : Statement (.interruptEntry sid) := .inr rfl
theorem safePointOverdue (sid : Nat) : Statement (.safePointOverdue sid) := .inr rfl
theorem sliceInstant (sid : Nat) : Statement (.sliceInstant sid) := .inr rfl
theorem kernelTimer (sid : Nat) : Statement (.kernelTimer sid) := .inr rfl
theorem parkExpiry (sid : Nat) : Statement (.parkExpiry sid) := .inr rfl
theorem followTimeout (sid : Nat) : Statement (.followTimeout sid) := .inr rfl
theorem dispatchPlace (lid : Word) (choice : List Nat) : Statement (.dispatchPlace lid choice) := .inr rfl
theorem teamStart (tid : Nat) : Statement (.teamStart tid) := .inr rfl
theorem dependenceReject (lid : Word) : Statement (.dependenceReject lid) := .inr rfl
theorem travellerArrival (p : Packet) (owner sid tries : Nat) (crc : BitVec 32) : Statement (.travellerArrival p owner sid tries crc) := .inr rfl
theorem travellerRetry (p : Packet) (owner sid tries due : Nat) : Statement (.travellerRetry p owner sid tries due) := .inr rfl
theorem runQueueRelease (core : Nat) : Statement (.runQueueRelease core) := .inr rfl
theorem homePacketArrival (f : Framed) : Statement (.homePacketArrival f) := .inr rfl
theorem remoteUpdate (p : Packet) (owner : Nat) : Statement (.remoteUpdate p owner) := .inr rfl
theorem spawnExitReport (tid logical : Nat) (flags : BitVec 6) : Statement (.spawnExitReport tid logical flags) := .inr rfl
theorem storeAtOwner (r : StoreReq) : Statement (.storeAtOwner r) := .inr rfl
theorem loadAtOwner (r : LoadReq) : Statement (.loadAtOwner r) := .inr rfl
theorem atomicAtOwner (r : AtomReq) : Statement (.atomicAtOwner r) := .inr rfl
theorem atomicReply (r : AtomReq) (old : Word) (flags : BitVec 6) : Statement (.atomicReply r old flags) := .inr rfl
theorem presenceRequest (r : PresReq) : Statement (.presenceRequest r) := .inr rfl
theorem presenceRetry (r : PresReq) (due : Nat) : Statement (.presenceRetry r due) := .inr rfl
theorem pageTableWalk (sid : Nat) (va : Word) (dir : Dir) : Statement (.pageTableWalk sid va dir) := .inr rfl
theorem vaultCacheFill (cluster line : Nat) : Statement (.vaultCacheFill cluster line) := .inr rfl
theorem fetchLineArrival (chan asid line : Nat) : Statement (.fetchLineArrival chan asid line) := .inr rfl
theorem copyBurstDeliver (core ch : Nat) : Statement (.copyBurstDeliver core ch) := .inr rfl
theorem streamReadAhead (sid q : Nat) : Statement (.streamReadAhead sid q) := .inr rfl
theorem streamElementWrite (sid q : Nat) : Statement (.streamElementWrite sid q) := .inr rfl
theorem ksfImageFetch (chan tid slot : Nat) : Statement (.ksfImageFetch chan tid slot) := .inr rfl
theorem ksfStreamUnit (core ch : Nat) : Statement (.ksfStreamUnit core ch) := .inr rfl
theorem messageArrival (tid core hole : Nat) (d : Delivery) : Statement (.messageArrival tid core hole d) := .inr rfl
theorem barrierRootReport (tid gen cluster b : Nat) (leaf : Option Nat) : Statement (.barrierRootReport tid gen cluster b leaf) := .inr rfl
theorem barrierPhaseFlip (tid gen cluster b : Nat) : Statement (.barrierPhaseFlip tid gen cluster b) := .inr rfl
theorem doneMessage (tid logical : Nat) (w : Word) : Statement (.doneMessage tid logical w) := .inr rfl
theorem tileCommandStart (cluster eng : Nat) : Statement (.tileCommandStart cluster eng) := .inr rfl
theorem tileCommandComplete (cluster eng ticket : Nat) : Statement (.tileCommandComplete cluster eng ticket) := .inr rfl
theorem domainAbort (sid depth reason : Nat) : Statement (.domainAbort sid depth reason) := .inr rfl
theorem domainRestore (sid : Nat) : Statement (.domainRestore sid) := .inr rfl
theorem remoteAccessArrival (r : RemReq) : Statement (.remoteAccessArrival r) := .inr rfl
theorem remoteReplyArrival (r : RemReq) (value : VWord) (poisoned : Bool) : Statement (.remoteReplyArrival r value poisoned) := .inr rfl
theorem remoteRejectReport (r : RemReq) : Statement (.remoteRejectReport r) := .inr rfl
theorem multicastMemberReport (sid member : Nat) (ok : Bool) : Statement (.multicastMemberReport sid member ok) := .inr rfl
theorem packetRoute (h : Hop) (level : Nat) (again : Bool) (e : Event) : Statement (.packetRoute h level again e) := .inr rfl
theorem flitArrival (link : Nat) (f : Flit) : Statement (.flitArrival link f) := .inr rfl
theorem flitRetryRequest (link lseq : Nat) : Statement (.flitRetryRequest link lseq) := .inr rfl
theorem flitAcknowledge (link : Nat) (a : FlitAck) : Statement (.flitAcknowledge link a) := .inr rfl
theorem rekeyThreshold (r : Rekey) : Statement (.rekeyThreshold r) := .inr rfl
theorem keyInstall (link : Nat) (k : KeyExchange) : Statement (.keyInstall link k) := .inr rfl
theorem doorWrite (d : DoorSet) : Statement (.doorWrite d) := .inr rfl
theorem h2dAccept (m : VWord) : Statement (.h2dAccept m) := .inr rfl
theorem prodWrite (v : BitVec 32) : Statement (.prodWrite v) := .inr rfl
theorem d2hSend : Statement (.d2hSend ) := .inr rfl
theorem seenWrite (v : BitVec 32) (restart : Bool) : Statement (.seenWrite v restart) := .inr rfl
theorem moduleReset : Statement (.moduleReset ) := .inr rfl
theorem stewardDieTest (pass : BitVec 9) : Statement (.stewardDieTest pass) := .inr rfl
theorem bootVerify (cfg : BootCfg) : Statement (.bootVerify cfg) := .inr rfl
theorem kernelLaunch (record : Word) : Statement (.kernelLaunch record) := .inr rfl
theorem attestationRequest (nonce : VWord) (dst : Word) : Statement (.attestationRequest nonce dst) := .inr rfl
theorem stewardNotice (n : Notice) : Statement (.stewardNotice n) := .inr rfl
theorem dieMapChange (die phase pkg pdie : Nat) : Statement (.dieMapChange die phase pkg pdie) := .inr rfl
theorem hubFailover : Statement (.hubFailover ) := .inr rfl
theorem thermalAlarm (scope unit temp : Nat) : Statement (.thermalAlarm scope unit temp) := .inr rfl
theorem thermalShutdown (temp : Nat) : Statement (.thermalShutdown temp) := .inr rfl
theorem thermalClear (stack temp : Nat) : Statement (.thermalClear stack temp) := .inr rfl
theorem halfWidthChange (chan : Nat) : Statement (.halfWidthChange chan) := .inr rfl
theorem fullWidthReturn (chan : Nat) : Statement (.fullWidthReturn chan) := .inr rfl
theorem laneFault (link : Bool) (unit : Nat) : Statement (.laneFault link unit) := .inr rfl
theorem powerBudgetExceeded : Statement (.powerBudgetExceeded ) := .inr rfl
theorem ptpOffsetExceeded (hub : Nat) (offset : Int) : Statement (.ptpOffsetExceeded hub offset) := .inr rfl
theorem rowPrecharge (chan row : Nat) (parityOk : Bool) : Statement (.rowPrecharge chan row parityOk) := .inr rfl
theorem neighbourRefresh (chan row : Nat) : Statement (.neighbourRefresh chan row) := .inr rfl
theorem pageRowStep (sid dst : Nat) (src : Option Nat) (rl : Bool) (k : Nat) : Statement (.pageRowStep sid dst src rl k) := .inr rfl
theorem scrubLineStep (sid : Nat) (va : Word) (left : Nat) : Statement (.scrubLineStep sid va left) := .inr rfl
theorem backgroundScrub (pa : Nat) (finder : Option Nat) : Statement (.backgroundScrub pa finder) := .inr rfl
theorem uncorrectableError (pa : Nat) : Statement (.uncorrectableError pa) := .inr rfl
theorem unitFailure (cls unit : Nat) : Statement (.unitFailure cls unit) := .inr rfl
theorem diagnosisVote (a b : Option Bool) (peer : Bool) (cls unit : Nat) : Statement (.diagnosisVote a b peer cls unit) := .inr rfl
theorem replacement (tid logical phys : Nat) (readable : Bool) : Statement (.replacement tid logical phys readable) := .inr rfl
theorem stateLossSequence (tid : Nat) : Statement (.stateLossSequence tid) := .inr rfl
theorem packageLoss (pkg tid : Nat) : Statement (.packageLoss pkg tid) := .inr rfl
theorem remapStart (version : Nat) : Statement (.remapStart version) := .inr rfl
theorem remapPageMove (page : Option Nat) : Statement (.remapPageMove page) := .inr rfl
theorem remapEnd : Statement (.remapEnd ) := .inr rfl
theorem checkpointUnitCopy (tid : Nat) (unit : Option Nat) : Statement (.checkpointUnitCopy tid unit) := .inr rfl
theorem checkpointCommit (tid reason : Nat) : Statement (.checkpointCommit tid reason) := .inr rfl
theorem travellerSave (tid sid : Nat) : Statement (.travellerSave tid sid) := .inr rfl
theorem porterQuiesce (tid core : Nat) : Statement (.porterQuiesce tid core) := .inr rfl
theorem arrayQuiesce (tid cluster : Nat) : Statement (.arrayQuiesce tid cluster) := .inr rfl
theorem saveComplete (tid : Nat) : Statement (.saveComplete tid) := .inr rfl
theorem teamResume (lid : Word) (choice : List Nat) : Statement (.teamResume lid choice) := .inr rfl
theorem ptpOffsetRecovered (o : PtpOffset) : Statement (.ptpOffsetRecovered o) := .inr rfl
theorem powerDrawWithinBudget : Statement (.powerDrawWithinBudget ) := .inr rfl
theorem laneFaultCleared (chan : Nat) : Statement (.laneFaultCleared chan) := .inr rfl
theorem remoteStoreAcknowledge (r : RemReq) : Statement (.remoteStoreAcknowledge r) := .inr rfl
theorem clusterScrubComplete (cluster : Nat) : Statement (.clusterScrubComplete cluster) := .inr rfl

end Sys2Proof.Laws.WordOrTile
end

