-- ==== Sys2Proof/Tests/Slice0.lean ====
section
/-! SUPPORT. The model's own tests: decoding against words written out from the encoding tables, ill-formed terms, and for each
statement with hypotheses a concrete state that meets them. -/

namespace Sys2Proof.Tests

open Sys2Proof Sys2Proof.Machine

/-! ### Decoding -/

/-- The words of the list decode to the instructions beside them. -/
def decodesAll (l : List (BitVec 32 × Instr)) : Bool := l.all fun p => (decodeWord p.1).toOption == some p.2

/-- Every field of each word is filled, from the match value and the field places of the opcode table (spec 04). -/
theorem test_decode_op : decodesAll [
    (0x01350AB3, .add 21 10 19), (0x41350AB3, .sub 21 10 19), (0x01351AB3, .sll 21 10 19),
    (0x01352AB3, .slt 21 10 19), (0x01353AB3, .sltu 21 10 19), (0x01354AB3, .xor 21 10 19),
    (0x01355AB3, .srl 21 10 19), (0x41355AB3, .sra 21 10 19), (0x01356AB3, .or 21 10 19),
    (0x01357AB3, .and 21 10 19), (0x03350AB3, .mul 21 10 19), (0x03351AB3, .mulh 21 10 19),
    (0x03352AB3, .mulhsu 21 10 19), (0x03353AB3, .mulhu 21 10 19), (0x03354AB3, .div 21 10 19),
    (0x03355AB3, .divu 21 10 19), (0x03356AB3, .rem 21 10 19), (0x03357AB3, .remu 21 10 19)] = true := by decide

theorem test_decode_op_32 : decodesAll [
    (0x01350ABB, .addw 21 10 19), (0x41350ABB, .subw 21 10 19), (0x01351ABB, .sllw 21 10 19),
    (0x01355ABB, .srlw 21 10 19), (0x41355ABB, .sraw 21 10 19), (0x03350ABB, .mulw 21 10 19),
    (0x03354ABB, .divw 21 10 19), (0x03355ABB, .divuw 21 10 19), (0x03356ABB, .remw 21 10 19),
    (0x03357ABB, .remuw 21 10 19)] = true := by decide

theorem test_decode_op_imm : decodesAll [
    (0xA5C50A93, .addi 21 10 0xA5C), (0xA5C52A93, .slti 21 10 0xA5C), (0xA5C53A93, .sltiu 21 10 0xA5C),
    (0xA5C54A93, .xori 21 10 0xA5C), (0xA5C56A93, .ori 21 10 0xA5C), (0xA5C57A93, .andi 21 10 0xA5C),
    (0x01D51A93, .slli 21 10 29), (0x01D55A93, .srli 21 10 29), (0x41D55A93, .srai 21 10 29)] = true := by decide

theorem test_decode_op_imm_32 : decodesAll [
    (0xA5C50A9B, .addiw 21 10 0xA5C), (0x01D51A9B, .slliw 21 10 29), (0x01D55A9B, .srliw 21 10 29),
    (0x41D55A9B, .sraiw 21 10 29)] = true := by decide

theorem test_decode_loads : decodesAll [
    (0xA5C50A83, .lb 21 10 0xA5C), (0xA5C51A83, .lh 21 10 0xA5C), (0xA5C52A83, .lw 21 10 0xA5C),
    (0xA5C53A83, .ld 21 10 0xA5C), (0xA5C54A83, .lbu 21 10 0xA5C), (0xA5C55A83, .lhu 21 10 0xA5C),
    (0xA5C56A83, .lwu 21 10 0xA5C)] = true := by decide

theorem test_decode_stores : decodesAll [
    (0xA5350E23, .sb 19 10 0xA5C), (0xA5351E23, .sh 19 10 0xA5C), (0xA5352E23, .sw 19 10 0xA5C),
    (0xA5353E23, .sd 19 10 0xA5C)] = true := by decide

theorem test_decode_branches : decodesAll [
    (0xCB350C63, .beq 10 19 0xA5C), (0xCB351C63, .bne 10 19 0xA5C), (0xCB354C63, .blt 10 19 0xA5C),
    (0xCB355C63, .bge 10 19 0xA5C), (0xCB356C63, .bltu 10 19 0xA5C), (0xCB357C63, .bgeu 10 19 0xA5C)] = true := by decide

theorem test_decode_upper_immediates_and_jumps : decodesAll [
    (0x9ABCDAB7, .lui 21 0x9ABCD), (0x9ABCDA97, .auipc 21 0x9ABCD), (0xF9A35AEF, .jal 21 0x9ABCD),
    (0xA5C50AE7, .jalr 21 10 0xA5C)] = true := by decide

theorem test_decode_csr_fence_and_environment : decodesAll [
    (0x5C451AF3, .csrrw 21 0x5C4 10), (0x5C452AF3, .csrrs 21 0x5C4 10), (0x5C453AF3, .csrrc 21 0x5C4 10),
    (0x5C49DAF3, .csrrwi 21 0x5C4 19), (0x5C49EAF3, .csrrsi 21 0x5C4 19), (0x5C49FAF3, .csrrci 21 0x5C4 19),
    (0xA5C50A8F, .fence 21 10 0xA5C), (0xA5C51A8F, .fenceI 21 10 0xA5C), (0x00000073, .ecall), (0x00100073, .ebreak)] = true := by decide

theorem test_decode_presence : decodesAll [
    (0x00050A8B, .ldfk 21 10), (0x02050A8B, .ldfe 21 10), (0x0535000B, .stef 19 10), (0x0735000B, .stfl 19 10),
    (0x08050A8B, .feget 21 10), (0x0B35000B, .feput 19 10)] = true := by decide

theorem test_decode_remote_accesses : decodesAll [
    (0x00051A8B, .rld 21 10), (0x0205148B, .rldv 9 10), (0x0535100B, .rst 19 10), (0x0675100B, .rstv 7 10),
    (0x0935100B, .mcst 19 10), (0x0A75100B, .mcstv 7 10)] = true := by decide

theorem test_decode_atomics : decodesAll [
    (0x07352A8B, .amadd 21 19 10 false true true), (0x17352A8B, .amand 21 19 10 false true true),
    (0x27352A8B, .amor 21 19 10 false true true), (0x37352A8B, .amxor 21 19 10 false true true),
    (0x47352A8B, .ammax 21 19 10 false true true), (0x57352A8B, .ammin 21 19 10 false true true),
    (0x67352A8B, .amswap 21 19 10 false true true), (0x77352A8B, .amcas 21 19 10 false true true),
    (0x87352A8B, .amfadd 21 19 10 false true true), (0x97352A8B, .amfmax 21 19 10 false true true)] = true := by decide

theorem test_decode_copies_and_pages : decodesAll [
    (0xD5353E0B, .cpy 2 (some 6) 10 19 26), (0xD5354E0B, .cpy2d 2 (some 6) 10 19 26),
    (0xD5355E0B, .cpyg 2 (some 6) 10 19 26), (0xD5356E0B, .cpys 2 (some 6) 10 19 26), (0x00007A8B, .cseal 21),
    (0x0360700B, .cwait 22), (0x0655700B, .bcarm 5 10), (0x0850700B, .bcwait 5), (0x2005700B, .pgzero 10),
    (0x2335700B, .pgcopy 10 19)] = true := by decide

theorem test_decode_slot_control : decodesAll [
    (0x0000002B, .exit), (0x0200002B, .yield), (0x0405002B, .park 10), (0x0600002B, .follow),
    (0x0805002B, .migr 10), (0x0A00002B, .home), (0x0D35002B, .spawn 10 19), (0x0F35002B, .deleg 10 19),
    (0x0F350DAB, .delegReply 10 19 11), (0x1000002B, .step), (0x1200002B, .ckpt), (0x9A35202B, .loop 10 2467),
    (0x9A30102B, .safept 0x9A3)] = true := by decide

theorem test_decode_queues : decodesAll [
    (0x00033AAB, .qrd 21 6), (0x0333302B, .qwr 6 19), (0x040334AB, .qrdv 9 6), (0x0673302B, .qwrv 6 7),
    (0x08033AAB, .qtst 21 6), (0x0A053AAB, .qwait 21 10), (0x0D33302B, .qbind 6 19), (0x0E03302B, .qfree 6),
    (0xCA034C2B, .qbr 6 0xA5C)] = true := by decide

theorem test_decode_barriers_and_domains : decodesAll [
    (0x0055502B, .barinit 5 10), (0x0250502B, .bararv 5), (0x0450502B, .barwt 5), (0x0650502B, .barsyn 5),
    (0x08505AAB, .barq 21 5), (0x1005502B, .cdopen 10), (0x1335502B, .cdpresCopy 10 19),
    (0x133550AB, .cdpresRef 10 19), (0x1400502B, .cdclose), (0x1600502B, .cdabort), (0x18005AAB, .cdstat 21),
    (0x2150502B, .scopef 2 5)] = true := by decide

theorem test_decode_engines_and_messages : decodesAll [
    (0x0073602B, .enq 6 7), (0x0200602B, .mlease), (0x0400602B, .mrel), (0x0735602B, .efence 10 19),
    (0x0935602B, .msend 10 19), (0x0A75602B, .msendv 10 7), (0x0D35602B, .ksfbind 10 19), (0x0E05602B, .eres 10)] = true := by decide

theorem test_decode_kernel_level : decodesAll [
    (0x0000702B, .kret), (0x0335702B, .tlbinv 10 19), (0x0535702B, .ctxst 10 19), (0x0735702B, .ctxld 10 19),
    (0x0935702B, .scrub 10 19), (0x0A05702B, .teamstop 10), (0x0C05702B, .teamgo 10), (0x0E05702B, .ptparm 10),
    (0x1135702B, .ksfload 10 19)] = true := by decide

theorem test_decode_vector_float : decodesAll [
    (0x01752CDB, .vadd 5 .fp16 9 10 7), (0x03752CDB, .vsub 5 .fp16 9 10 7), (0x05752CDB, .vmul 5 .fp16 9 10 7),
    (0x07752CDB, .vfma 5 .fp16 9 10 7), (0x09752CDB, .vfms 5 .fp16 9 10 7), (0x0B752CDB, .vmax 5 .fp16 9 10 7),
    (0x0D752CDB, .vmin 5 .fp16 9 10 7), (0x0F052CDB, .vabs 5 .fp16 9 10), (0x11052CDB, .vneg 5 .fp16 9 10),
    (0x13752B5B, .vcmpEq 5 .fp16 6 10 7), (0x15752B5B, .vcmpLt 5 .fp16 6 10 7),
    (0x17752B5B, .vcmpLe 5 .fp16 6 10 7), (0x19752B5B, .vcmpNe 5 .fp16 6 10 7),
    (0x1B552CDB, .vcvt 5 .fp16 .i16 9 10), (0x1D052CDB, .vrcpe 5 .fp16 9 10), (0x1F052CDB, .vrsqe 5 .fp16 9 10),
    (0x21052CDB, .vexp2e 5 .fp16 9 10), (0x23052CDB, .vreds 5 .fp16 9 10), (0x25052CDB, .vredm 5 .fp16 9 10),
    (0x27753CDB, .vcmul 5 9 10 7)] = true := by decide

theorem test_decode_vector_integer : decodesAll [
    (0x41756CDB, .viadd 5 .i8 9 10 7), (0x43756CDB, .visub 5 .i8 9 10 7), (0x45756CDB, .vimul 5 .i8 9 10 7),
    (0x47756CDB, .vand 5 .i8 9 10 7), (0x49756CDB, .vor 5 .i8 9 10 7), (0x4B756CDB, .vxor 5 .i8 9 10 7),
    (0x4D756CDB, .vshl 5 .i8 9 10 7), (0x4F756CDB, .vshr 5 .i8 9 10 7), (0x51756CDB, .vsra 5 .i8 9 10 7),
    (0x53756CDB, .vimax 5 .i8 9 10 7), (0x55756CDB, .vimin 5 .i8 9 10 7), (0x57756B5B, .vicmpEq 5 .i8 6 10 7),
    (0x59756B5B, .vicmpLt 5 .i8 6 10 7), (0x5B756B5B, .vicmpLe 5 .i8 6 10 7), (0x5D756B5B, .vicmpNe 5 .i8 6 10 7)] = true := by decide

theorem test_decode_vector_memory_and_moves : decodesAll [
    (0x000504FB, .vld 9 10), (0x0275007B, .vst 7 10), (0x05350CFB, .vlds true 9 10 19),
    (0x07350CFB, .vsts true 9 10 19), (0x08750CFB, .vgath true 9 10 7), (0x0A750CFB, .vscat true 9 10 7),
    (0x0C050CFB, .vbcst true 9 10), (0x0F3D0AFB, .vmvx true 21 10 19), (0x11350CFB, .vins true 9 10 19),
    (0x127504FB, .vshuf 9 10 7), (0x16050CFB, .viota true 9 10), (0x26750CFB, .vsel true 9 10 7 3)] = true := by decide

theorem test_decode_predicates : decodesAll [
    (0x0032937B, .pand 6 5 3), (0x0232937B, .por 6 5 3), (0x0432937B, .pxor 6 5 3), (0x0602937B, .pnot 6 5),
    (0x08029AFB, .pcnt 21 5), (0x0A029AFB, .pfirst 21 5)] = true := by decide

theorem test_decode_bit_streams : decodesAll [
    (0x01602AFB, .bsget 21 22), (0x0365207B, .bsput 10 22), (0x05602AFB, .bspeek 21 22), (0x0605207B, .bsskip 10),
    (0x0800207B, .bsflsh), (0x0A00207B, .bsalgnRd), (0x0A10207B, .bsalgnWr)] = true := by decide
/-- A header with WAIT 0x5A, S1 to S3 of 3, 17 and 30, and the given domain tags (R94). -/
def tag (din dout : BitVec 2) : TileHdr := { wait := 0x5A, s1 := 3, s2 := 17, s3 := 30, din := din, dout := dout }

/-- The tile words of the list decode to the commands beside them. -/
def decodesTiles (l : List (BitVec 256 × Instr)) : Bool := l.all fun p => (decodeTile p.1).toOption == some p.2

/-- The layouts of R385, every field filled. -/
theorem test_decode_array_commands : decodesTiles [
    (0x00000000000000000000100000045680AA000F0000012340D5E27A23005A1601,
      .mma (tag 0 0) 2 true 2 0x1ABC4 0xF0000012340 0x55 0x100000045680),
    (0x0000000000000000000010000004568000000000000000000053FA23005A0502,
      .mvb (tag 0 0) 1 true 0xA7 0x100000045680),
    (0x0000000000000000000000000000000000000F0000012340D5E27A23005A1503,
      .mldv (tag 0 0) 5 false true 0x1ABC4 0xF0000012340),
    (0x0000000000000000000010000004568000000F000001234000007A23005A0204,
      .mwld (tag 0 0) 2 0xF0000012340 0x100000045680),
    (0x00000000000000000000000000000000000000000000000000007A23005A0305,
      .mzero (tag 0 0) 3),
    (0x5723456789ABCD800000100000045680000000000000000000007A23005A5E06,
      .mstc (tag 0 0) 2 true true 5 0x100000045680 0x123456789ABCD80 0x2B),
    (0x00000000000000000000000000000000AA000F0000012340D5E27A23005A0107,
      .mtrn (tag 0 0) 1 0x1ABC4 0xF0000012340 0x55),
    (0x00000000000000000000100000045680AA000F0000012340D5E27A23005A0708,
      .mperm (tag 0 0) 3 true 0x1ABC4 0xF0000012340 0x55 0x100000045680),
    (0x00000000000000000000000000000000AA000F0000012340D5E27A23005A3609,
      .mrsum (tag 0 0) 2 true 6 0x1ABC4 0xF0000012340 0x55)] = true := by decide

/-- The layouts of R429. -/
theorem test_decode_spectral_commands : decodesTiles [
    (0x0123456789ABCD80000000000000000000000F000001234002EB7A23045A0020,
      .sfft (tag 0 1) { lb := 2, nb1 := 21, nv1 := 11, p1 := 0 } 0xF0000012340 0x123456789ABCD80),
    (0x0123456789ABCD80000000000000000000000F000001234002EB7A23025A0021,
      .sifft (tag 2 0) { lb := 2, nb1 := 21, nv1 := 11, p1 := 0 } 0xF0000012340 0x123456789ABCD80),
    (0x0123456789ABCD80000010000004568000000F0000012340D2EB7A230A5A0122,
      .scmm (tag 2 2) 1 { lb := 2, nb1 := 21, nv1 := 11, p1 := 26 } 0xF0000012340 0x100000045680 0x123456789ABCD80),
    (0x0123456789ABCD8000000000000005D600000F0000012340D5E27A23055A0023,
      .stagMode0 (tag 1 1) 0x1ABC4 { lb := 2, nb1 := 21, nv1 := 11, p1 := 0 } 0xF0000012340 0x123456789ABCD80),
    (0x0123456789ABCD80000010000004568000000F000001234002EB7A230A5A0123,
      .stagMode1 (tag 2 2) { lb := 2, nb1 := 21, nv1 := 11, p1 := 0 } 0xF0000012340 0x100000045680 0x123456789ABCD80),
    (0x0123456789ABCD80000000000000000000000F000001234002EB7A23095A0223,
      .stagMode2 (tag 1 2) { lb := 2, nb1 := 21, nv1 := 11, p1 := 0 } 0xF0000012340 0x123456789ABCD80)] = true := by decide

/-- The layouts of R449, with a buffer operand in TTOPK and TSPADD. -/
theorem test_decode_tinker_commands : decodesTiles [
    (0x8000000000008040000010000004568000000F0000012340AAA3FA23005A0B40,
      .ttopk (tag 0 0) 3 true { k1 := 0x47, n1 := 0x155 } 0xF0000012340 0x100000045680 0x8000000000008040),
    (0x0123456789ABCD800000000002ABCDEF8000000000008040AAA3FA23005A0041,
      .tspadd (tag 0 0) { k1 := 0x47, n1 := 0x155 } 0x8000000000008040 0x2ABCDEF 0x123456789ABCD80),
    (0x0123456789ABCD80000000000000000000000F0000012340AAA3FA23005A0542,
      .tpack (tag 0 0) 5 { k1 := 0x47, n1 := 0x155 } 0xF0000012340 0x123456789ABCD80),
    (0x0123456789ABCD80000000000000000000000F0000012340AAA3FA23005A0543,
      .tunpk (tag 0 0) 5 { k1 := 0x47, n1 := 0x155 } 0xF0000012340 0x123456789ABCD80),
    (0x0000000000000000000000000000000000000F00000123400005FA23005A0044,
      .tlink (tag 0 0) 11 0xF0000012340)] = true := by decide

/-- Tile words refused with the word that R95, R385, R214 and R449 name: an unlisted opcode, w0 [31:28], a tag on a plain
command, bits outside the layout, BFORM 3, a fold word without FOLD, LB 3, STAG mode 3, bit 57 of an operand, k above B. -/
theorem test_refused_tile_words : ([
    (0x0000000000000000000000000000000000000000000000000000000000000000, .head),
    (0x00000000000000000000000000000000000000000000000000007A23005A000A, .head),
    (0x00000000000000000000000000000000000000000000000000007A23105A0005, .head),
    (0x00000000000000000000000000000000000000000000000000007A23015A0005, .head),
    (0x0000000000000000000010000004568000000F000001234000007A23005A2001, .field 0),
    (0x00000000000000000000000000000000000000000000000100007A23005A0005, .field 1),
    (0x00000000000000000000000000000001000000000000000000007A23005A0005, .field 2),
    (0x00000000000000010000000000000000000000000000000000007A23005A0005, .field 3),
    (0x0000000000000000000010000004568000000F000001234000007A23005A1801, .field 0),
    (0x0123456789ABCD800000100000045680000000000000000000007A23005A0006, .field 2),
    (0x0123456789ABCD80000000000000000000000F00000123400001FA23045A0020, .field 0),
    (0x0123456789ABCD80000000000000000000000F000001234000007A23005A0323, .field 0),
    (0x0123456789ABCD8000000000000000080200000000000000AAA3FA23005A0041, .field 1),
    (0x0123456789ABCD80000000000000000000000F000001234000107A23005A0040, .field 0)] : List (BitVec 256 × TileError)).all
      (fun p => match decodeTile p.1 with | .error e => e == p.2 | .ok _ => false) = true := by decide

/-- What R77, R78, R80 to R82, R86, R89 and R91 refuse: words without 0b11, opcodes and funct values that are not assigned, set
bits in unused fields, c16 for VMUL, an integer type for VADD, VCVT to its own type, an acquire with `.nr`, LOOP 0, SCOPEF kind 3 and scope 6. -/
theorem test_refused_words : ([0x00000000, 0x00B50531, 0xFFFFFFFF, 0x00000007, 0x04B50533, 0x0000607F, 0x00200073, 0x0060000B,
    0x0000A82B, 0x0400305B, 0x0000405B, 0x1A20205B, 0x0C00200B, 0x0800208B, 0x0005202B, 0x2180502B, 0x2060502B] :
    List (BitVec 32)).all (fun w => (decodeWord w).toOption.isNone) = true := by decide

/-! ### Well-formedness -/

/-- A packet of kind k whose list of argument registers has n words. -/
def packet (k n : Nat) : Packet :=
  { team := 1, gen := 0, kind := k, prio := 0, cap := 0, origin := 0, target := 0, pc := 0x1000, a := List.replicate n 0, t0 := 0, t1 := 0,
    p0 := 0, reply := 0, exitMark := false }

/-- A remote request of n bytes. -/
def remReq (n : Nat) : RemReq :=
  { src := 0, sid := 0, use := .posted, pkg := 1, team := 1, key := 2, addr := 0x40, size := n, store := true, data := 0, ptr := 0 }

/-- One ill-formed term for each check on an instruction word: acquire with `.nr`, a destination with `.nr`, LOOP over no instruction,
SCOPEF kind 3 and scope 6, and lane types that an operation does not take (R86, R89, R91, R383). -/
theorem test_ill_formed_words : ([.amadd 0 1 2 true true false, .amfmax 3 1 2 true false false, .amcas 3 1 2 true true false, .loop 1 0,
    .scopef 3 1, .scopef 0 6, .vadd 0 .i8 0 1 2, .vneg 0 .u8 0 1, .vmul 0 .c16 0 1 2, .vredm 0 .c16 0 1, .vcvt 0 .bf16 .bf16 0 1,
    .vcvt 0 .c16 .f32 0 1, .vcvt 0 .f32 .c16 0 1, .viadd 0 .f32 0 1 2, .vicmpNe 0 .c16 0 1 2] : List Instr).all
      (fun i => !i.wf) = true := by decide

/-- One ill-formed term for each check on a tile command: a tag on a plain command, BFORM 3, XEXP with XD, FORM 3, SFMT without OVR,
SFMT 7, a fold word without FOLD, SEG 7 (R95, R385). -/
theorem test_ill_formed_array_commands : ([.mma (tag 1 0) 0 true 0 0 0 0 0, .mma (tag 0 0) 0 true 3 0 0 0 0, .mvb (tag 0 1) 0 true 0 0,
    .mldv (tag 0 0) 0 true false 4 0, .mldv (tag 2 0) 0 false false 4 0, .mwld (tag 0 0) 3 0 0, .mwld (tag 1 1) 0 0 0, .mzero (tag 0 3) 0,
    .mstc (tag 0 0) 0 true false 1 0 0 0, .mstc (tag 0 0) 0 true true 7 0 0 0, .mstc (tag 0 0) 0 false true 1 64 0 0,
    .mstc (tag 1 0) 0 true true 1 64 0 0, .mtrn (tag 1 0) 0 0 0 0, .mperm (tag 1 0) 0 true 0 0 0 0, .mrsum (tag 0 0) 0 true 7 0 0 0,
    .mrsum (tag 0 1) 0 true 6 0 0 0] : List Instr).all (fun i => !i.wf) = true := by decide

/-- The same for spectral and tinker commands: LB 3, P in a transform-unit command, domain tags outside the table of R429, an operand with
bit 57 or a buffer offset of 17 bits, k above B, a residual without RES (R214, R429, R449). -/
theorem test_ill_formed_spectral_and_tinker_commands : (let k : KBlk := { k1 := 31, n1 := 0 }
    let sh : Shape := { lb := 2, nb1 := 0, nv1 := 0, p1 := 0 }
    ([.sfft (tag 0 1) { sh with lb := 3 } 0 0, .sfft (tag 0 1) { sh with p1 := 1 } 0 0, .sfft (tag 1 1) sh 0 0, .sfft (tag 0 2) sh 0 0,
      .sifft (tag 0 0) sh 0 0, .sifft (tag 1 1) sh 0 0, .scmm (tag 1 2) 0 sh 0 0 0, .scmm (tag 0 0) 0 sh 0 0 0,
      .scmm (tag 1 1) 0 { sh with lb := 3 } 0 0 0, .stagMode0 (tag 3 3) 0 sh 0 0, .stagMode0 (tag 1 0) 0 sh 0 0,
      .stagMode1 (tag 3 3) sh 0 0 0, .stagMode1 (tag 0 1) sh 0 0 0, .stagMode2 (tag 1 1) sh 0 0, .stagMode2 (tag 0 1) sh 0 0,
      .ttopk (tag 0 0) 0 false { k with k1 := 32 } 0 0 0, .ttopk (tag 0 0) 0 false k (1 <<< 57) 0 0, .ttopk (tag 0 0) 0 false k 0 64 0,
      .ttopk (tag 0 0) 0 true k 0 (1 <<< 62) 0, .ttopk (tag 0 0) 0 true k 0 0 0x8000000000010000, .ttopk (tag 0 1) 0 true k 0 0 0,
      .tspadd (tag 0 0) k (1 <<< 57) 8 0, .tspadd (tag 0 0) k 0 8 (1 <<< 57), .tspadd (tag 1 0) k 0 8 0, .tpack (tag 0 0) 0 k (1 <<< 57) 0,
      .tunpk (tag 0 0) 0 k 0 (1 <<< 57), .tpack (tag 1 0) 0 k 0 0, .tlink (tag 0 1) 0 0] : List Instr).all
      (fun i => !i.wf)) = true := by decide

/-- The shapes of event data: eight argument words, kinds 0 to 4, access sizes 1, 2, 4, 8 and 64 (R35, R124). -/
theorem test_ill_formed_events : ([.travellerArrival (packet 1 7) 0 0 0 0, .travellerRetry (packet 5 8) 0 0 0 0,
    .homePacketArrival ⟨packet 4 9, 0⟩, .remoteUpdate (packet 6 8) 0, .storeAtOwner { sid := 0, pa := 0, size := 3, data := 0, va := 0 },
    .loadAtOwner { sid := 0, els := [], size := 16, dst := .vector 0, got := 0, n := 0 }, .remoteAccessArrival (remReq 0),
    .remoteReplyArrival (remReq 32) 0 false, .remoteRejectReport (remReq 5), .remoteStoreAcknowledge (remReq 65)] : List Instr).all
      (fun i => !i.wf) = true := by decide

/-! ### Witnesses: for each statement with hypotheses, states and operands that meet the hypotheses of every clause -/

/-- A ready user slot at task level in its local store. -/
def task : Slot := { Slot.init with status := .ready, pc := 0xF000000100 }
/-- The same slot at kernel level. -/
def kern : Slot := { task with level := .kernel }
/-- The package after reset with slot 0 as given; it is the slot in turn. -/
def on (sl : Slot) : State := State.reset.setSlot 0 sl
/-- The package after reset with slot 0 of a core as given, that core in turn. -/
def onCore (c : Nat) (sl : Slot) : State := { State.reset.setSlot (16 * c) sl with cores := [c] }
/-- A slot with a value in x10. -/
def a0 (sl : Slot) (w : Word) : Slot := sl.wx 10 w
/-- A slot with values in x10 and x11. -/
def a01 (sl : Slot) (w u : Word) : Slot := (sl.wx 10 w).wx 11 u
/-- The value of a result, if it has one, meets a condition. -/
def okAnd {ε α : Type} (r : Except ε α) (f : α → Bool) : Bool := match r with | .ok a => f a | .error _ => false
/-- A team on cluster 0 with team id 1. -/
def team1 : Team := { State.reset.newTeam 0 0 [] [] with state := 1, s := 1, c := 1, smask := 1, place := [0], started := true }

theorem witness_encodings : (Instr.add 31 0 17).wf = true ∧ (encode (.add 31 0 17)).isSome = true
    ∧ (decodeWord 0xFFF00073).toOption.isSome = false ∧ (decodeWord 0x00B50533).toOption.isSome = true
    ∧ (Instr.mzero (tag 0 0) 3).wf = true ∧ (encodeTile (.mzero (tag 0 0) 3)).isSome = true
    ∧ (decodeTile 0x05).toOption.isSome = true := by decide

theorem witness_step : let s := { (on task).withFetchWord 32 0x00B50533 with plan := [0, 1] }
    let r := { s with plan := [1] }
    s.stopped = false ∧ s.me.status = .ready ∧ s.me.due = [] ∧ s.me.sliceAt = none ∧ s.me.timerAt = none ∧ s.me.follow = none
    ∧ r.blocked s.sid = false ∧ r.irqNow s.sid = none ∧ s.me.overdue = false
    ∧ okAnd r.fetch (fun p => p.1 == 0x00B50533 && !p.2.me.waitsFor (.add 10 10 11)) = true := by decide

theorem witness_stopped : let s := { State.reset with stopped := true }
    (s.stopped = true ∧ Event.moduleReset ∉ s.agenda) ∧ Event.moduleReset ∈ (s.post .moduleReset).agenda ∧ 1150 < 1151 := by decide

theorem witness_registers : (1 : XReg) ≠ 0 ∧ (31 : XReg) ≠ 0 ∧ (2 : XReg) ≠ 1 := by decide

theorem witness_loop : let l := { task with loope := task.pc, loopc := 1 }
    (l.level = .task ∧ l.pc = l.loope ∧ l.loopc ≠ 0) ∧ ¬(task.level = .task ∧ task.pc = task.loope ∧ task.loopc ≠ 0)
    ∧ (on task).me.level = .task ∧ (on kern).me.level ≠ .task := by decide

theorem witness_traps : (task.level ≠ .monitor ∧ ¬((Trap.sync 8 0).int = false ∧ (Trap.sync 8 0).code = 9))
    ∧ ((Trap.sync 9 0).int = false ∧ (Trap.sync 9 0).code = 9) ∧ ({ task with level := .monitor } : Slot).level = .monitor
    ∧ (Trap.irq 31 0).code < 32 := by decide

theorem witness_return : let m := { task with level := Level.monitor }
    (on task).me.level = .task ∧ (on { kern with kstatus := 2 }).me.level = .kernel
    ∧ 1 < ((on { kern with kstatus := 2 }).me.kstatus.extractLsb' 0 2).toNat
    ∧ ((on { kern with kstatus := 1 }).me.kstatus.extractLsb' 0 2).toNat ≤ 1 ∧ (on kern).me.heldAbort = []
    ∧ (on { m with mstatus := 2 }).me.mstatus.extractLsb' 0 2 = 2 ∧ ((on { m with mstatus := 3 }).me.mstatus.extractLsb' 0 2).toNat ≠ 2
    ∧ (on m).me.level = .monitor ∧ (on m).me.heldAbort = [] := by decide

theorem witness_branches : let bits := fun (w : Word) => (w.getLsbD 1, w.extractLsb' 57 7)
    bits ((on (a0 task 2)).me.rx 10) = (true, 0) ∧ bits ((on (a0 task (1 <<< 57))).me.rx 10) = (false, 1)
    ∧ bits ((on (a0 task 0x1FFFFFFFFFFFFFC)).me.rx 10) = (false, 0) := by decide

theorem witness_results : xOnly (.add 5 1 2) = some 5 ∧ (match exec (.add 5 1 2) (on task) with | .next _ => true | _ => false) = true
    ∧ (on (a01 task 0x8000000000000000 0xFFFFFFFFFFFFFFFF)).me.rx 10 = BitVec.intMin 64
    ∧ (on (a01 task 0x8000000000000000 0xFFFFFFFFFFFFFFFF)).me.rx 11 = BitVec.allOnes 64
    ∧ ((on (a01 task 0x80000000 0xFFFFFFFF)).me.rx 10).extractLsb' 0 32 = BitVec.intMin 32
    ∧ ((on (a01 task 0x80000000 0xFFFFFFFF)).me.rx 11).extractLsb' 0 32 = BitVec.allOnes 32 := by decide

/-- The slot in turn at task level with an address in x10. -/
def onAt (a : Word) : State := on (a0 task a)
/-- An address of the first slot loads n bytes and the translation meets a condition. -/
def loads (a : Word) (n : Nat) (own : Bool) : Bool :=
  a.toNat % n == 0 && !isRemote a && okAnd ((onAt a).locate 0 a n .load) fun h => isOwn 0 h.pa == own && !h.st.badAt h.pa n
    && !(onAt a).inFlight (onAt a).core h.pa n false
/-- The same for a store. -/
def storesTo (a : Word) (n : Nat) (own : Bool) : Bool :=
  a.toNat % n == 0 && !isRemote a && okAnd ((onAt a).locateStore 0 a n) fun h =>
    isOwn 0 h.pa == own && !h.st.badAt h.pa n && h.pa / 64 != h.st.hostPage / 64 && !(onAt a).inFlight (onAt a).core h.pa n true
/-- The slot parked on a wait. -/
def parkedOn (w : Wait) : Slot := { task with status := .parked w }
/-- A word of the own local store, and one of the own vault, physically. -/
def lsWord : Nat := lsPa 0
def vaultWord : Nat := vaultPa 0

theorem witness_loads : [1, 2, 4, 8, 64].all (fun n => loads 0xF000000000 n true && loads (0xF000020000 - BitVec.ofNat 64 n) n true
      && loads 0xF100000000 n false && loads (0xF100400000 - BitVec.ofNat 64 n) n false) = true
    ∧ (let s := on (parkedOn .reply); (s.slot 0).status = .parked .reply ∧ s.badAt vaultWord 64 = false)
    ∧ (onAt 0xF000000000).me.rx 10 + (0 : BitVec 12).signExtend 64 = 0xF000000000 := by decide

theorem witness_stores : [1, 2, 4, 8, 64].all (fun n => storesTo 0xF000000000 n true && storesTo (0xF000020000 - BitVec.ofNat 64 n) n true
      && storesTo 0xF100000000 n false && storesTo (0xF100400000 - BitVec.ofNat 64 n) n false) = true
    ∧ (let s := on task; s.teamOf (s.slot 0) = none ∧ s.teams = [] ∧ s.badAt vaultWord 64 = false ∧ vaultWord / 64 ≠ s.hostPage / 64) := by decide

theorem witness_misaligned : [2, 4, 8, 64].all (fun n => (0xF000000001 : Word).toNat % n != 0) = true
    ∧ [1, 2, 4, 8, 64].all (fun n => (0x0200000000000000 : Word).toNat % n == 0 && isMalformed 0x0200000000000000) = true := by decide

theorem witness_csr : csrLevel 0x801 = some .task ∧ levelAllows (on task).me.level .task = true
    ∧ csrLevel 0x7C0 = some .monitor ∧ levelAllows (on task).me.level .monitor = false ∧ csrLevel 0xFFF = none
    ∧ csrReadOnly 0xCC0 = true := by decide

theorem witness_csr_writes : let s := on task
    (s.csrWritable 0x801 = true ∧ 0x801 ≠ 0x820 ∧ 0x801 ≠ 0x821 ∧ ¬(0x810 ≤ 0x801 ∧ 0x801 ≤ 0x817))
    ∧ (s.csrWritable 0x818 = true ∧ ¬(0x810 ≤ 0x818 ∧ 0x818 ≤ 0x817)) ∧ s.csrWritable 0xCC0 = false ∧ (31 : BitVec 5) ≠ 0
    ∧ s.me.batches = [] ∧ (on { task with batches := [⟨0, 1⟩] }).me.batches ≠ [] := by decide

/-- A record of a slot that follows slot 0 of its cluster's core 0, since cycle 0. -/
def leading : Follow := { lead := 0, traps := 0, since := 0, matched := false, seen := [] }

theorem witness_fences : let s := on task
    let p := s.post (.storeAtOwner { sid := 0, pa := vaultWord, size := 8, data := 0, va := 0xF100000000 })
    let q := on { task with pending := [⟨1, 5⟩] }
    (s.me.unacquired = false ∧ s.unreleased s.core 4 = false ∧ s.unreleased s.core 2 = false)
    ∧ (p.unreleased p.core 4 = true ∧ p.unreleased p.core 2 = true) ∧ (q.me.unacquired = true)
    ∧ (let f := { on task with slots := [(0, task), (16, { task with follow := some leading })] }; (f.slot 16).follows 16 f.sid = true)
    ∧ chanCore0 ≤ (onCore 9216 task).core := by decide

theorem witness_safe_points : let s := on task
    (s.me.status = .ready ∧ s.me.rx 10 = 0) ∧ ((onAt 1).me.status = .ready ∧ (onAt 1).me.rx 10 ≠ 0)
    ∧ ((on (parkedOn (.until 0))).slot 0).status = .parked (.until 0) ∧ ((on (parkedOn (.until 1))).slot 0).status = .parked (.until 1)
    ∧ s.me.running = .user ∧ s.leaderCore s.sid = s.core ∧ isChan s.core = false
    ∧ (let f := { onCore 1 { task with pc := 0x1000, leaderc := 0 } with slots := [(0, task), (16, { task with pc := 0x1000, leaderc := 0 })] };
        isChan f.core = false ∧ f.me.running ≠ .delegate ∧ f.leaderCore f.sid ≠ f.core
        ∧ ¬(lsBase.toNat ≤ f.me.retire.pc.toNat ∧ f.me.retire.pc.toNat < lsBase.toNat + 0x20000)
        ∧ (f.slot (f.leaderCore f.sid * 16 + f.sid % 16)).status ∉ [Status.idle, .exited, .away])
    ∧ ((on { task with follow := some leading }).slot 0).follow = some leading ∧ leading.matched = false ∧ ¬leading.since + 1024 ≤ s.cycle
      ∧ leading.since + 1024 ≤ { s with cycle := 1024 }.cycle
    ∧ (let i := on { task with sliceAt := some 0, timerAt := some 0 }; (i.slot 0).sliceAt = some 0 ∧ 0 ≤ i.ptp ∧ (i.slot 0).timerAt = some 0) := by decide

theorem witness_interrupts : let q := on { task with preqReq := true, safeAt := some 5 }
    let o := on { task with preqReq := true, spCount := 4096 }
    ((q.slot 0).level = .task ∧ (q.slot 0).preqReq = true ∧ (q.slot 0).status = .ready ∧ (q.slot 0).safeAt = some 5)
    ∧ ((on task).slot 0).atSafePoint = false ∧ ((on { task with level := .monitor }).slot 0).level = .monitor
    ∧ ((o.slot 0).level = .task ∧ (o.slot 0).preqReq = true ∧ (o.slot 0).status = .ready
        ∧ (o.slot 0).safeb.toNat % 2 ^ 32 ≤ (o.slot 0).spCount)
    ∧ ((on kern).slot 0).level ≠ .task ∧ ((on task).slot 0).preqReq = false
    ∧ ((on { task with spCount := 4095 }).slot 0).spCount < ((on task).slot 0).safeb.toNat % 2 ^ 32 := by decide

theorem witness_may_leave : (on task).mayLeave ∧ (onCore 1 task).mayLeave
    ∧ (on { task with running := .migrated }).mayLeave := by
  refine ⟨?_, ?_, ?_⟩ <;> (unfold State.mayLeave; decide)

theorem witness_exit : let s := on task
    let h := s.modCluster 0 fun c => { c with holder := some 0 }
    let m := { s with teams := [(1, team1)] }
    s.me.running = .user ∧ (isChan h.core = false ∧ (h.clusterSt h.cluster).holder = some h.sid)
    ∧ ((s.clusterSt s.cluster).holder ≠ some s.sid ∧ (on { task with openCopies := 1 }).me.openCopies ≠ 0)
    ∧ (s.me.openCopies = 0 ∧ (on { task with cdlvl := 1 }).me.cdlvl ≠ 0)
    ∧ (m.team? 1).map (·.place[0]?) = some (some 0) := by decide

theorem witness_travellers : let s := onAt 0xF000000000
    let o := onCore 1 (a01 task 0xF100000000 0x1000)
    (s.me.running ≠ .delegate ∧ okAnd (s.targetOwner (s.me.rx 10)) (fun p => p.1 == s.core) = true)
    ∧ (o.me.running ≠ .delegate ∧ okAnd (o.targetOwner (o.me.rx 10)) (fun p => p.1 != o.core) = true)
    ∧ o.me.pending = [] ∧ o.releaseWaits = false ∧ routineTrap (o.me.rx 11) = none ∧ s.me.running ≠ .migrated
    ∧ (let m := on { task with running := .migrated }; m.me.running = .migrated ∧ m.me.pending = [] ∧ m.releaseWaits = false) := by decide

/-- The hypotheses of the presence instructions on an address, as one condition. -/
def presAt (s : State) (store own full : Bool) : Bool :=
  (s.me.rx 10).toNat % 8 == 0 && okAnd (if store then s.locateStore s.sid (s.me.rx 10) 8 else s.locate s.sid (s.me.rx 10) 8 .load) fun h =>
    isOwn s.sid h.pa == own && !h.st.bad (h.pa / 8) && h.st.waits (h.st.waitAt h.pa) == [] && h.st.flips == []
      && h.pa / 64 != h.st.hostPage / 64 && h.st.full (h.pa / 8) == full && h.st.teams == []
      && h.st.teamOf (h.st.slot s.sid) == none && !s.me.unacquired && !s.releaseWaits && !h.st.inFlight h.st.core h.pa 8 true

theorem witness_plain_writes : (on task).plainWrites 0 ∧ State.reset.plainWrites 0 := by
  have h : ∀ s : State, s.teams = [] → s.plainWrites 0 := by
    intro s h; refine ⟨?_, by simp [h]⟩; intro t ht; simp [State.teamOf, State.team?, h, tfind] at ht
  exact ⟨h _ rfl, h _ rfl⟩

theorem witness_presence : let s := onAt 0xF00001FFF8
    let e := { onAt 0xF000000000 with empty := [lsWord / 8] }
    let far := onAt 0xF100000000
    presAt s false true true = true ∧ presAt s true true true = true ∧ presAt e true true false = true ∧ presAt e false true false = true
    ∧ presAt far false false true = true ∧ presAt far true false true = true := by decide

/-- A presence request of slot 0 on a word. -/
def presR (op : PresOp) (tries : Nat) : PresReq := { sid := 0, op := op, pa := vaultWord, data := 0, rd := 5, va := 0xF100000000, tries := tries }

theorem witness_presence_requests : let e := { on (parkedOn .pres) with empty := [vaultWord / 8] }
    let f := e.setWaits (.vault 0) (List.replicate 64 (presR .ldfe 0))
    let s := on (parkedOn .pres)
    (e.presLive (presR .ldfe 0) = true ∧ e.presHolds (presR .ldfe 0) = false
      ∧ (e.waits (e.waitAt vaultWord)).length < (e.waitAt vaultWord).size)
    ∧ (f.presLive (presR .ldfe 1022) = true ∧ f.presHolds (presR .ldfe 1023) = false
      ∧ (f.waitAt vaultWord).size ≤ (f.waits (f.waitAt vaultWord)).length ∧ 1023 ≤ (presR .ldfe 1023).tries)
    ∧ (on task).presLive (presR .ldfk 0) = false
    ∧ ((presR .ldfk 0).op = .ldfk ∧ s.presLive (presR .ldfk 0) = true ∧ s.full (vaultWord / 8) = true ∧ s.bad (vaultWord / 8) = false
      ∧ (s.slot 0).pending = [] ∧ s.flips = [] ∧ s.waits (s.waitAt vaultWord) = []) := by decide

/-- An atomic request of slot 0 on a word, and the packet that carries it. -/
def atomR (op : AtomOp) (pa : Nat) : AtomReq := { sid := 0, op := op, nr := false, aq := false, pa := pa, b := 1, cmp := 0, rd := 5, va := 0xF100000000 }
def atomP : Packet := { packet 3 8 with act := some (.atom (atomR .add vaultWord)) }

theorem witness_atomics : let s := onAt 0xF100000000
    let o := s.atomOwner vaultWord
    let full := s.setQueue o (List.replicate 64 { p := packet 3 8, arrived := 0 })
    let one := s.setQueue o [{ p := atomP, arrived := 0 }]
    let p := on { parkedOn .atom with pending := [⟨3, 5⟩] }
    ([4, 8].all fun n => (s.me.rx 10).toNat % n == 0 && okAnd (s.locateStore s.sid (s.me.rx 10) n) fun _ => true) = true
    ∧ (s.releaseWaits = false ∧ s.me.pending.length < 8)
    ∧ ((onAt 0xF100000001).me.rx 10).toNat % 4 ≠ 0
    ∧ (atomP.act = some (.atom (atomR .add vaultWord)) ∧ (s.queueOf o).length < queueSize o ∧ queueSize o ≤ (full.queueOf o).length)
    ∧ (vaultOwner0 ≤ o ∧ one.busyOf o = none ∧ one.queueOf o = [{ p := atomP, arrived := 0 }])
    ∧ (s.bad (vaultWord / 8) = false ∧ s.flips = [] ∧ vaultWord / 64 ≠ s.hostPage / 64)
    ∧ (decodeF fp32 ((0x7F800001 : Word).toNat % 2 ^ 32)).isNaN = true
    ∧ ((p.slot 0).pending.contains ⟨3, 5⟩ = true ∧ (p.slot 0).status = .parked .atom ∧ (p.slot 0).frame = none
      ∧ (p.slot 0).pending.erase ⟨3, 5⟩ = []) := by decide

/-- A window table entry written at handle h of the table at physical address 0. -/
def addWin (s : State) (h base limit peer flags : Nat) : State :=
  (((s.wr (32 * h) 8 base).wr (32 * h + 8) 8 limit).wr (32 * h + 16) 8 peer).wr (32 * h + 24) 8 flags

/-- A slot with a window table of eight entries: 1 may be read and written, 2 heads a group of one member, 3. -/
def windowed (a : Word) : State :=
  addWin (addWin (addWin (on { a0 task a with winlen := 8 }) 1 0x10000 64 0x500010000 7) 2 0 64 0 0x10D) 3 0x10000 64 0x500010000 7

/-- Pointers through handles 1 and 2. -/
def ptr1 : Word := 0x8000800000000000
def ptr2 : Word := 0x8001000000000000

/-- The sender's conditions of an access. -/
def senderFine (w : Word) (n : Nat) (st mc : Bool) : Bool :=
  let s := windowed w
  !isChan s.core && isRemote w && w.toNat % n == 0 && ptrOff w % n == 0 && s.senderOk s.me (ptrHandle w) (ptrOff w) n st mc

theorem witness_remote_issue : let s := windowed ptr1
    ([1, 2, 4, 8, 64].all fun n => senderFine ptr1 n true false && senderFine ptr1 n false false) = true
    ∧ (senderFine (ptr1 + 56) 8 false false = true ∧ senderFine (ptr1 + 64) 8 false false = false)
    ∧ isRemote 0xF000000000 = false ∧ ptrOff (ptr1 + 1) % 8 ≠ 0
    ∧ s.me.pendingX 5 = false ∧ s.me.pending.length < 8
    ∧ (let b := { s.me with pending := List.replicate 8 ⟨1, 5⟩ }; b.pendingX 5 = true ∧ 8 ≤ b.pending.length)
    ∧ senderFine ptr2 64 true true = true ∧ (s.winEntry s.me.winbase 2).nmem = 1
    ∧ s.senderOk s.me 3 0 64 true false = true ∧ s.me.mcast = none
    ∧ { s.me with mcast := some { ptr := 0, left := [0], failed := [] } }.mcast.isSome = true := by decide +kernel

/-- Page tables at physical address 0x40000: page 1 is HBM page 16, page 2 HBM page 17 (executable too), readable, writable, for task
level, marked A and D; page 3 is page 18 with nothing allowed but reading above task level and A clear. -/
def tables (s : State) : State :=
  ((((s.wr 0x40000 8 0x80001).wr 0x80000 8 0xC0001).wr 0xC0008 8 0x1000D7).wr 0xC0010 8 0x1100DF).wr 0xC0018 8 0x120003

/-- A slot with those tables and an address in x10. -/
def mapped (a : Word) (sl : Slot) : State := tables (on { a0 sl a with ptbase := 0x40000 })

/-- The team of the destination, with a window table whose entry 0 opens page 1. -/
def peer : State :=
  { tables (addWin State.reset 0 0x10000 64 0x500010000 7) with
    teams := [(1, { team1 with winb := 0, winl := 1, ptb := 0x40000 })] }

/-- A request of 8 bytes at an address of the peer's team. -/
def remAt (a key : Nat) (st : Bool) (u : RemUse) : RemReq :=
  { src := 0, sid := 0, use := u, pkg := 0, team := 1, key := key, addr := BitVec.ofNat 64 a, size := 8, store := st, data := 7, ptr := ptr1 }

/-- What the peer makes of a request. -/
def servedAs (r : RemReq) : Nat := match peer.serve r with | .reject => 0 | .stored _ => 1 | .loaded .. => 2

theorem witness_remote_served : let e := peer.winEntry 0 0
    let r := remAt 0x10038 5 false .posted
    servedAs (remAt 0x10038 4 true .posted) = 0 ∧ servedAs (remAt 0x10038 5 true .posted) = 1 ∧ servedAs r = 2
    ∧ State.reset.team? r.team = none
    ∧ (peer.team? 1).map (fun t => (t.winl, t.winb, decide (t.state ≤ 2))) = some (1, 0, true)
    ∧ (e.v = true ∧ e.zeroOk = true ∧ e.rd = true ∧ r.key = e.key ∧ e.base.toNat ≤ r.addr.toNat
        ∧ r.addr.toNat + r.size ≤ e.base.toNat + e.limit ∧ r.addr.extractLsb' 57 7 = 0 ∧ inWindows r.addr = false)
    ∧ (remAt 0x10038 4 false .posted).key ≠ e.key ∧ (remAt 0xFFF8 5 false .posted).addr.toNat < e.base.toNat
    ∧ e.base.toNat + e.limit < (remAt 0x10039 5 false .posted).addr.toNat + 8
    ∧ (peer.team? 1).map (fun t => okAnd (peer.resolve { t.ctx 1 with level := .task, thread := true } r.addr 8 .load) fun _ => true) = some true := by decide

theorem witness_remote_back : let x := on { task with pending := [⟨1, 5⟩, ⟨2, 35⟩], mcast := some { ptr := 0, left := [0, 1], failed := [] } }
    let w := on (parkedOn .reply)
    let m := on { task with mcast := some { ptr := 0, left := [1], failed := [] } }
    ((x.slot 0).frame = none ∧ (x.slot 0).pending.contains ⟨1, 5⟩ = true ∧ (x.slot 0).pending.contains ⟨2, 32 + 3⟩ = true)
    ∧ ((w.slot 0).status = .parked .reply ∧ (w.slot 0).status ≠ .exited ∧ (w.slot 0).status ≠ .idle ∧ w.isSaved 0 = false)
    ∧ ((x.slot 0).status ≠ .exited ∧ (x.slot 0).status ≠ .idle ∧ x.isSaved 0 = false)
    ∧ ((x.slot 0).mcast = some ⟨0, [0, 1], []⟩ ∧ ([0, 1] : List Nat).erase 0 ≠ [])
    ∧ ((m.slot 0).mcast = some ⟨0, [1], []⟩ ∧ (m.slot 0).status ≠ .exited ∧ m.isSaved 0 = false)
    ∧ ((w.dmap.toList[7]?).map (fun e => (e.held, e.v)) = some (false, true))
    ∧ ((w.dmap.toList[8]?).map (fun e => (e.held, e.v)) = some (false, false)) := by decide

/-- Two copy descriptors in the own local store: one row of 8 bytes at 0, one element of 8 bytes with index 0 at 32. -/
def described : State :=
  let s := on ((a01 task 0xF000000400 0xF000000800).wx 12 8)
  ((((s.wr lsWord 4 1).wr (lsWord + 4) 4 8).wr (lsWord + 16) 8 8).wr (lsWord + 32) 4 1).wr (lsWord + 36) 4 8
/-- No byte that a memory lists holds the in-use bit of a snapshot record. -/
def noRecords (s : State) : Bool := s.mem.all fun e => e.1 % 0x800 != 0x607 || !e.2.getLsbD 7

theorem unprotected_of {s : State} {k : Nat} (hr : (s.clusterSt k).refs = []) (hm : noRecords s = true) : s.unprotected k := by
  refine ⟨hr, fun core r _ => ?_⟩
  have ha : (recPa core r + 0x607) % 0x800 = 0x607 := by unfold recPa lsPa; omega
  unfold State.recUsed State.byte
  generalize recPa core r + 0x607 = a at ha
  unfold noRecords at hm
  revert hm
  induction s.mem with
  | nil => intro _; simp [memGet]
  | cons e l ih =>
    obtain ⟨j, b⟩ := e
    intro hm
    simp only [List.all_cons, Bool.and_eq_true] at hm
    unfold memGet
    by_cases hj : j = a
    · subst hj; simpa [ha] using hm.1
    · simpa [hj] using ih hm.2

theorem fits_of {s : State} {c : Copy} {ch : BitVec 2} (hu : s.unprotected s.cluster)
    (h : (isChan s.core = false ∧ c.src.toNat % 8 = 0 ∧ c.dst.toNat % 8 = 0 ∧ c.src.extractLsb' 57 7 = 0 ∧ c.dst.extractLsb' 57 7 = 0
        ∧ s.firstPast { s.ctx s.sid with thread := false } (s.copySpans c 1 1).1 = none
        ∧ s.firstPast { s.ctx s.sid with thread := false } (s.copySpans c 1 1).2 = none
        ∧ tfind (s.coreSt s.core).cksf ch.toNat = none ∧ s.me.openCopies < 64)
      ∧ ((s.coreSt s.core).chans.toList.getD ch.toNat []).length < 16 ∧ s.trackerFull s.cluster = false
        ∧ (s.coreSt s.core).porterStop = false ∧ s.inStop = false) : s.copyFits c ch := by
  obtain ⟨⟨h1, h2, h3, h4, h5, h6, h7, h8, h9⟩, h10⟩ := h
  exact ⟨h1, h2, h3, h4, h5, h6, h7, h8, h9, hu, h10⟩

/-- The copy that an instruction with those operands forms. -/
def formedOf (k : Nat) (v : Word) : Copy := described.formed k none 0xF000000400 0xF000000800 v

theorem witness_copies_fit : described.copyFits (formedOf 0 8) 0
    ∧ described.copyFits { formedOf 1 0 with len := 8, rowBytes := 8, sstride := 0, dstride := 8 } 3
    ∧ described.copyFits { formedOf 2 32 with len := 8, rowBytes := 8, idx := 0 } 0
    ∧ described.copyFits { formedOf 3 32 with len := 8, rowBytes := 8, idx := 0 } 0 := by
  have hu : described.unprotected described.cluster := unprotected_of (by decide) (by decide +kernel)
  refine ⟨fits_of hu ?_, fits_of hu ?_, fits_of hu ?_, fits_of hu ?_⟩ <;> decide +kernel

theorem witness_copies_formed : described.readDesc (formedOf 1 0) 0 = some { formedOf 1 0 with len := 8, rowBytes := 8, sstride := 0, dstride := 8 }
    ∧ described.readDesc (formedOf 2 32) 32 = some { formedOf 2 32 with len := 8, rowBytes := 8, idx := 0 }
    ∧ described.readDesc (formedOf 3 32) 32 = some { formedOf 3 32 with len := 8, rowBytes := 8, idx := 0 }
    ∧ (8 ≤ (8 : Word).toNat ∧ (0xFFFFFFF8 : Word).toNat ≤ 2 ^ 32 - 8 ∧ (0xFFFFFFF8 : Word).toNat % 8 = 0)
    ∧ (isChan described.core = false ∧ (0xF000000004 : Word).toNat % 8 ≠ 0 ∧ isChan (onCore 9216 task).core = true) := by decide +kernel

/-- A copy of 512 bytes between the two halves of the own local store at the head of channel 0. -/
def copying : State :=
  State.reset.modCore 0 fun k => { k with chans := k.chans.set! 0 [{ formedOf 0 512 with dst := 0xF000010000, src := 0xF000000000 }] }
def copyHead : Copy := { formedOf 0 512 with dst := 0xF000010000, src := 0xF000000000 }
/-- The same with an unfinished earlier entry of the tracker that writes what it reads. -/
def copyHeld : State :=
  (copying.modCore 0 fun k => { k with chans := k.chans.set! 0 [{ copyHead with ticket := 2 }] }).modCluster 0 fun c =>
    { c with tracker := [{ ticket := 1, reads := [], write := some ⟨0, 8⟩, since := 0 }, { ticket := 2, reads := [⟨0, 8⟩], write := none, since := 0 }] }

theorem witness_copies : let s := copying
    let c := copyHead
    let d := s.readIdx c c.done
    ((s.coreSt 0).chans.toList.getD 0 [] = [c] ∧ c.susp = none ∧ (s.coreSt 0).porterStop = false ∧ c.ksf = none)
    ∧ (s.depsClear 0 c.ticket = true ∧ s.burstLen d % 8 = 0 ∧ s.burstLen d = 256 ∧ c.done + s.burstLen d < c.len)
    ∧ okAnd (s.span (s.copyCtx c) (s.copySrc d c.done) 256 .load) (fun p => p.1 == [(lsWord, 256)] && p.2 == s) = true
    ∧ okAnd (s.span (s.copyCtx c) (s.copyDst d c.done) 256 .store) (fun p => p.1 == [(lsWord + 0x10000, 256)] && p.2 == s) = true
    ∧ lsWord % 8 = 0 ∧ s.poison = [] ∧ s.flips = [] ∧ s.teams = []
    ∧ (∀ k, k < 256 → s.bad ((lsWord + k) / 8) = false ∧ (lsWord + 0x10000 + k) / 64 ≠ s.hostPage / 64)
    ∧ (State.reset.coreSt 0).chans.toList.getD 3 [] = []
    ∧ (copyHeld.coreSt 0).chans.toList.getD 0 [] = [{ copyHead with ticket := 2 }] ∧ copyHeld.depsClear 0 2 = false := by
  decide +kernel

theorem witness_copies_unprotected : copying.unprotected (clusterOf (coreOf copyHead.sid)) :=
  unprotected_of (by decide) (by decide)

theorem witness_batches : (on task).me.batches.length ≤ (0 : BitVec 5).toNat ∧ ¬(on { task with batches := [⟨0, 1⟩] }).me.batches.length ≤ (0 : BitVec 5).toNat
    ∧ ((on task).coreSt 0).bcnt.toList.getD 7 0 = 0
    ∧ (((on task).modCore 0 fun k => { k with bcnt := k.bcnt.set! 7 1 }).coreSt 0).bcnt.toList.getD 7 0 ≠ 0 := by decide

/-- A team with an image in configuration slot 7, and a copy through it whose source is the mapped HBM page. -/
def bound : Copy := { copyHead with src := 0x10000, len := 64, rowBytes := 64, ksf := some ⟨7, 0, 0⟩, onRead := true, level := .task, ptb := 0x40000 }
def streaming : State :=
  { tables (State.reset.modCore 0 fun k => { k with chans := k.chans.set! 0 [bound] }) with
    teams := [(0, { team1 with ksfHas := 0x80 })] }

theorem witness_fabric_binding : let s := { on task with teams := [(0, { team1 with ksfHas := 0x80 })] }
    let has := match s.teamOf s.me with | some t => t.ksfHas.getLsbD 7 | none => false
    (ksfOperandsOk 16 0 = false ∧ ksfOperandsOk 15 0x1FFDF = true ∧ ksfOperandsOk 3 8 = true ∧ ksfOperandsOk 4 8 = false)
    ∧ (has = true ∧ (15 : Word).getLsbD 3 = true ∧ (3 : Word).getLsbD 3 = false ∧ (0xF : Word).toNat % 8 = 7)
    ∧ isChan s.core = false ∧ (on kern).me.level ≠ .task ∧ 7 < (8 : Word).toNat ∧ (7 : Word).toNat ≤ 7
    ∧ (0x100000000000020 : Word).toNat % 64 ≠ 0 ∧ (0x100000000000040 : Word).toNat % 64 = 0
    ∧ (0x100000000000040 : Word).extractLsb' 57 7 = 0 ∧ (on kern).teamBySave (on kern).me.teamctx = none := by decide

theorem witness_fabric_units : let s := streaming
    let c := bound
    ((s.coreSt 0).chans.toList.getD 0 [] = [c] ∧ c.ksf = some ⟨7, 0, 0⟩ ∧ c.susp = none ∧ (s.coreSt 0).porterStop = false)
    ∧ (s.depsClear 0 c.ticket = true ∧ c.done < c.len ∧ { c with done := 64 }.len ≤ { c with done := 64 }.done)
    ∧ okAnd (s.wordsAt (s.copyCtx c) 8 .load ((List.range (8 * c.den)).map fun j => s.copySrc c (c.done + 8 * j))) (fun p =>
        p.1 == (List.range 8).map (fun j => 0x100000 + 8 * j) && c.onRead && p.1.all (ownerOf · == .hbm)
          && okAnd (p.2.wordsAt (s.copyCtx c) 8 .store ((List.range (8 * c.num)).map fun j => s.copyDst c (c.done / c.den * c.num + 8 * j)))
              (fun q => q.2.flips == [] && p.1.all fun a => !q.2.bad (a / 8))) = true
    ∧ dxCell 0 = none ∧ sideBytes 0 = 0 := by decide +kernel

theorem witness_fabric_instances (ch : Nat) : streaming.resident ch 0 7 = none
    ∧ { streaming with chans := [(ch, { ChanSt.init with images := [⟨0, 0, 7, 0, 0⟩] })] }.resident ch 0 7 = some 0 := by
  constructor
  · rfl
  · simp [State.resident, State.chan, tget, streaming, State.team?, tfind]; exact ⟨rfl, rfl⟩

/-- Slot 0 of core 5, which has all four neighbours, with queue register q bound. -/
def queued (q : Nat) (b : Word) (f : Slot → Slot := id) : State := onCore 5 (f { task with qbind := task.qbind.set! q b })
/-- A bound queue register of a kind that keeps its row of R145. -/
def fineQ (s : State) (q kind : Nat) : Bool := qKind (s.me.qb q) == kind && !s.breaksRow s.sid (s.me.qb q)
/-- A message of 8 bytes, and one of 64. -/
def msg (big : Bool) : Msg := { big := big, data := 7 }

theorem witness_queues : let l1 := (queued 7 0x31).modCore 5 fun k => { k with links := k.links.set! 3 [1, 2, 3, 4, 5, 6, 7, 8] }
    let n := (queued 7 0x31).modCore 4 fun k => { k with links := k.links.set! 1 (List.replicate 8 9) }
    let r := queued 0 0x23 fun sl => { sl with fifos := sl.fifos.set! 2 { recs := [5], seq := 0, reserved := 0 } }
    let h := fun (b : Bool) => (queued 0 0xF6).modCore 5 fun k => { k with holes := k.holes.set! 15 [msg b] }
    let b7 := fun (w : List Word) => queued 1 0xC7 fun sl => { sl with brq := w }
    (qKind ((queued 0 0).me.qb 0) = 0 ∧ (queued 0 8).breaksRow 80 ((queued 0 8).me.qb 0) = true)
    ∧ (fineQ l1 7 1 = true ∧ qSub (l1.me.qb 7) = 3 ∧ 8 ≤ ((l1.coreSt 5).links.toList.getD 3 []).length)
    ∧ ((queued 7 0x31).coreSt 5).links.toList.getD 3 [] = []
    ∧ (fineQ r 0 3 = true ∧ (r.me.fifos.toList.getD 2 ResFifo.init).recs = [5] ∧ (queued 0 0x23).me.fifos.toList.getD 2 ResFifo.init = ResFifo.init)
    ∧ (fineQ (h true) 0 6 = true ∧ ((h true).coreSt 5).holes.toList.getD 15 [] = [msg true] ∧ ((h false).coreSt 5).holes.toList.getD 15 [] = [msg false])
    ∧ (fineQ (b7 [0]) 1 7 = true ∧ (b7 [3]).me.brq = [3] ∧ (b7 []).me.brq = [] ∧ ((b7 []).slot (5 * 16 + 12)).brq.length < 8 ∧ 5 * 16 + 12 ≠ (b7 []).sid)
    ∧ (neighbourCore 5 3 = some 4 ∧ ((queued 7 0x31).coreSt 4).links.toList.getD (opposite 3) [] = []
      ∧ (queued 7 0x31).releaseWaits = false ∧ 8 ≤ ((n.coreSt 4).links.toList.getD (opposite 3) []).length) := by decide +kernel

/-- A stream of 4 elements of 8 bytes in the own vault, with given read-ahead and direction. -/
def strm (out : Bool) (ahead : List (VWord × Bool)) : Stream :=
  { out := out, base := 0xF100000000, esize := 3, ndim := 1, flags := 0, pos := 3, counts := [4], strides := [8], bad := false,
    ahead := ahead, fetched := 3, skip := 0, ksf := none, regs := [], susp := none }
def strming (k : Word) (x : Stream) : State := queued 0 k fun sl => { sl with streams := [(0, x)] }

theorem witness_streams : let i := strming 4 (strm false [(7, false)])
    let o := strming 5 (strm true [(7, false)])
    let two := queued 0 0x31 fun sl => { sl with qbind := sl.qbind.set! 1 0x131 }
    let got := two.modCore 5 fun k => { k with links := k.links.set! 3 [1] }
    ((queued 0 0).stream? 80 0 = none ∧ qKind 1 ≠ 4 ∧ isChan 5 = false ∧ (queued 0 0).breaksRow 80 4 = false
      ∧ tfind (queued 0 0).me.qksf 0 = none ∧ ((queued 0 0).coreSt 5).cksf = [] ∧ isChan (onCore 9216 task).core = true ∧ qKind 1 ≠ 6)
    ∧ (qKind ((queued 0 0x31).me.qb 0) ≠ 0 ∧ qKind (task.qb 0) = 0)
    ∧ ((256 : Word).extractLsb' 8 56 ≠ 0 ∧ (3 : Word).extractLsb' 8 56 = 0)
    ∧ (∀ k, k < 8 → (3 : Word).getLsbD k = true → qKind (two.me.qb k) ≠ 0 ∧ two.breaksRow two.sid (two.me.qb k) = false ∧ two.qCount k = 0)
    ∧ (got.qCount 0 ≠ 0 ∧ got.qCount 1 ≠ 0 ∧ qEff (got.me.qb 1) = 1 ∧ qEff (got.me.qb 0) = 0)
    ∧ (fineQ i 0 4 = true ∧ i.stream? 80 0 = some (strm false [(7, false)]) ∧ (strm false []).esize ≠ 6 ∧ (strm false []).pos < (strm false []).total)
    ∧ (fineQ o 0 5 = true ∧ o.stream? 80 0 = some (strm true [(7, false)]) ∧ ((List.replicate 31 (0 : Nat)).length + 1) * (strm true []).size ≤ 256)
    ∧ ((strm false []).fetched < (strm false []).total ∧ i.streamHasRoom 80 (strm false []) = true ∧ (i.coreSt 5).porterStop = false)
    ∧ okAnd (i.resolve (i.streamCtx 80) ((strm false []).addr 3) 8 .load) (fun h => h.pa == vaultWord + 24 && !h.st.badAt h.pa 8
        && h.st.flips == []) = true
    ∧ okAnd (o.span (o.streamCtx 80) ((strm true []).addr 3) 8 .store) (fun p => p.1 == [(vaultWord + 24, 8)] && !p.2.badAt (vaultWord + 24) 8
        && (vaultWord + 24) / 64 != p.2.hostPage / 64 && p.2.teams == [] && p.2.teamOf (p.2.slot 80) == none) = true := by decide +kernel

theorem witness_streams_unprotected : (strming 5 (strm true [(7, false)])).unprotected (clusterOf (coreOf 80)) :=
  unprotected_of (by decide) (by decide)

/-- A team that is active on cluster 0, and the same with a stop under way. -/
def teamed (stop : Option Nat) (f : State → State := id) : State := f { on task with teams := [(0, { team1 with stop := stop })] }
/-- Barrier 0 of cluster 0 with an expected count, arrivals and leaf state of core 0. -/
def barred (expect n : Nat) (rep : BitVec 16) (sl : Slot := task) : State :=
  (on sl).modCluster 0 fun c => c.setBar 0 { Bar.init expect with counts := (Bar.init 0).counts.set! 0 n, reported := rep }

theorem witness_messages : let s := on task
    let f := s.modCore 0 fun k => { k with holes := k.holes.set! 15 (List.replicate 8 (msg false)) }
    (s.holeOf 0xF000000078 = some (0, 120) ∧ s.releaseWaits = false ∧ s.team? s.me.team = none)
    ∧ ((s.coreSt 0).holeFull 15 = false ∧ (f.coreSt 0).holeFull 15 = true)
    ∧ (s.holeOf 0xF100000000 = none ∧ s.holeOf 0xF000000080 = some (0, 128) ∧ s.holeOf 0xF000000004 = some (0, 4))
    ∧ ((teamed none).team? 0).map (fun t => (t.stop, t.state)) = some (none, 1)
    ∧ ((teamed (some 1)).team? 0).map (fun t => t.stop.isSome) = some true := by decide +kernel

/-- Team 0 with its save area in HBM at 0x20000, whose log holds n bytes. -/
def logged (n : Nat) (stop : Option Nat) : State :=
  { on task with teams := [(0, { team1 with save := 0x100000000020000, stop := stop })] }.wr 0x30000 8 n

/-- The log of a team has room for an entry, and lies beside the host page. -/
def logTakes (s : State) (tid : Nat) (e : LogEnt) : Bool := match s.logAt tid with
  | some (pa, s1) => (s1.teams.all fun e => !e.2.ckRun) && decide (s1.rd pa 8 + e.bytes.length ≤ logRoom) && decide (pa + 0x10000 ≤ s1.hostPage / 64 * 64)
  | none => false

theorem witness_logs : logTakes (logged 0 none) 0 (.message 0 15 (msg true)) = true ∧ logTakes (logged 65432 none) 0 (.frame (packet 3 8)) = false
    ∧ (let s1 := (logged 0 (some 1)).modCore 0 fun k => { k with flight := k.flight.set! 15 (k.flight.toList.getD 15 0 - 1) };
        (s1.logPut 0 (.message 0 15 (msg false))).isSome) = true := by decide +kernel

theorem witness_barriers : let x := (barred 2 0 0).bar 0
    let y := (barred 2 1 0).bar 0
    let w := on (a0 task 0x1FFFF)
    (isChan (barred 2 0 0).core = false ∧ ((barred 2 0 1).bar 0).reported.getLsbD 0 = true)
    ∧ (({ task with barRec := [(0, true)], barWait := some (0, task.pc) } : Slot).barWait = some (0, task.pc) ∧ task.barWait ≠ some (0, task.pc))
    ∧ (x.mask.getLsbD 0 = true ∧ x.reported.getLsbD 0 = false ∧ (barred 2 0 0).hasArrived 0 = false
      ∧ (barred 2 0 0).unreleased 0 x.scope = false ∧ x.counts.toList.getD 0 0 + 1 < x.expect ∧ task.barWait = none)
    ∧ (y.expect ≤ y.counts.toList.getD 0 0 + 1) ∧ tfind task.barRec 0 = none
    ∧ (let p := { task with barRec := [(0, true)] }; tfind p.barRec 0 = some true ∧ true ≠ x.phase.getLsbD 0 ∧ p.unacquired = false)
    ∧ ((w.me.rx 10).extractLsb' 0 16 ≠ 0 ∧ ((w.me.rx 10).extractLsb' 16 5).toNat = 1 ∧ (w.me.rx 10).extractLsb' 21 3 = 0 ∧ (w.me.rx 10).extractLsb' 25 39 = 0
      ∧ w.team? w.me.team = none) ∧ 14 < ((0xF0001 : Word).extractLsb' 16 5).toNat := by decide +kernel

theorem witness_barrier_signals : let s := teamed none
    (State.reset.staleGen 0 0 = true ∧ s.staleGen 0 0 = false)
    ∧ (s.teamCluster 0 0).isSome = true
    ∧ ((((barred 2 1 0xFFFF).clusterSt 0).bar 0).mask &&& (((barred 2 1 0xFFFF).clusterSt 0).bar 0).reported) = (((barred 2 1 0xFFFF).clusterSt 0).bar 0).mask
    ∧ s.agenda.any (isLeafReport 0 0 0) = false
    ∧ (s.team? 0).map (fun t => (t.saved.isNone, t.place[0]?)) = some (true, some 0)
    ∧ (let two := { on task with teams := [(0, { team1 with c := 2, place := [0, 1] })] };
        ((two.clusterSt 0).bar 0).team = true ∧ (two.teamCluster 0 1).map (fun c => ((c.bar 0).team, (c.bar 0).rootDone)) = some (true, false)
        ∧ (two.team? 0).map (fun t => (decide (1 < t.s * t.c), t.place[1]?)) = some (true, some 1)) := by decide +kernel

theorem witness_vectors : LaneTy.fp16 ∈ [LaneTy.f32, LaneTy.bf16, LaneTy.fp16] ∧ LaneTy.u8 ∈ [LaneTy.i32, LaneTy.i16, LaneTy.i8, LaneTy.u8]
    ∧ LaneTy.u8 ≠ .c16 ∧ LaneTy.c16 = .c16 ∧ (3 : Nat) < 4 ∧ 0 < 1 := by decide

theorem witness_rounding : fa56 ∈ [fp32, bf16, fp16, fa56] ∧ 0x7F7FFFFF < 2 ^ (1 + fp32.eb + fp32.fb) ∧ (decodeF fp32 0x7F7FFFFF).isNaN = false
    ∧ (3 < 4 ∧ 1 ≠ 0 ∧ (fp32.bias : Int) + 1 ≤ (Nat.log2 1 : Int) + 128) ∧ (Nat.log2 1 : Int) + (-151) + 1 < fp32.qmin := by decide

theorem witness_elements : let own := (List.range 16).map fun k => (0xF000000000 : Word) + BitVec.ofNat 64 (4 * k)
    let far := (List.range 32).map fun k => (0xF100000000 : Word) + BitVec.ofNat 64 (2 * k)
    let s := on task
    okAnd (s.locateAll 0 4 false own) (fun p => p.1.all (fun e => isOwn 0 e.1 && !p.2.badAt e.1 4) && p.2.flips == []) = true
    ∧ okAnd (s.locateAll 0 2 false far) (fun p => p.1.any fun e => !isOwn 0 e.1) = true
    ∧ okAnd (s.locateAll 0 4 true own) (fun p => p.1.all fun e => isOwn 0 e.1 && !p.2.bad (e.1 / 8) && e.1 / 64 != p.2.hostPage / 64 && e.1 % 4 == 0) = true
    ∧ okAnd (s.locateAll 0 2 true far) (fun p => p.1.all fun e => !isOwn 0 e.1) = true
    ∧ ((0xF000000001 : Word).toNat % 2 ≠ 0 ∧ (0x8000000000000000 : Word).toNat % 4 = 0 ∧ isRemote 0x8000000000000000 = true
      ∧ isMalformed 0x4000000000000000 = true) := by decide +kernel

theorem witness_bits : let at' := fun (r w : BitVec 20) => onCore 0 { task with bsrd := r, bswr := w }
    let last := at' 0xFFFFF 0xFFFFF
    (2 ^ 20 < last.me.bsrd.toNat + 2 ∧ last.me.bsrd.toNat + 1 ≤ 2 ^ 20 ∧ 2 ^ 20 < last.me.bswr.toNat + 2 ∧ last.me.bswr.toNat + 1 ≤ 2 ^ 20)
    ∧ (∀ k, k < 32 → (at' 0 0).bad ((lsWord + (0 + k) / 8) / 8) = false)
    ∧ ((at' 0 8).me.bswr.toNat % 8 = 0 ∧ last.me.bswr.toNat % 8 ≠ 0 ∧ ((on task).clusterSt 0).refs = [] ∧ (on task).coreTab = [])
    ∧ (2 ^ 20 < last.me.bsrd.toNat + ((2 : Word)).toNat ∧ last.me.bsrd.toNat + ((1 : Word)).toNat ≤ 2 ^ 20) := by decide +kernel

/-- A domain that is not aborting, its save area in the physical window. -/
def dom (retry : Nat) (entries : List Preserve) (ab : Option Nat) : Dom :=
  { recNo := 0, serial := 1, retry := retry, pool := 0, entries := entries, aborting := ab, opened := 0, abortAt := 0 }
/-- A state with snapshot record r of core 0 in use. -/
def inUse (s : State) (r : Nat) : State := s.wr (recPa 0 r + 0x607) 1 0x80
/-- A slot at the level with that domain open. -/
def domed (d : Dom) (sl : Slot := task) : State :=
  inUse (on { a01 sl 0xF000000040 64 with doms := [d], cdlvl := 1, teamctx := 0x100000000000000 }) 0

theorem witness_domains : let s := onAt 0xFFFF
    let full := (List.range 8).foldl inUse s
    let d := domed (dom 0 [] none)
    let many := domed (dom 0 (List.replicate 16 ⟨0, true, 64, 0⟩) none)
    (isChan (onCore 9216 task).core = true ∧ isChan s.core = false ∧ (s.me.rx 10).extractLsb' 16 48 = 0 ∧ ((onAt 0x10000).me.rx 10).extractLsb' 16 48 ≠ 0)
    ∧ (∀ r, r < 8 → full.recUsed 0 r = true) ∧ 8 ≤ (on { task with cdlvl := 8 }).me.cdlvl
    ∧ (s.me.cdlvl < 8 ∧ s.recUsed 0 0 = false ∧ (s.hostPage + 64 ≤ lsPa 0 + 0x1C000 ∨ lsPa 0 + 0x1C000 + 0x800 ≤ s.hostPage))
    ∧ (s.me.cdlvl = 0 ∧ many.me.doms.map (fun e => decide (16 ≤ e.entries.length)) = [true])
    ∧ (d.me.doms = [dom 0 [] none] ∧ d.me.cdlvl ≠ 0 ∧ (dom 0 [] none).entries.length < 16
      ∧ (d.me.rx 10).toNat % 64 = 0 ∧ (d.me.rx 10).extractLsb' 57 7 = 0 ∧ (d.me.rx 11).toNat % 64 = 0 ∧ 64 ≤ (d.me.rx 11).toNat ∧ (d.me.rx 11).toNat ≤ 2 ^ 20)
    ∧ ((d.coreSt 0).poolTop + 64 ≤ 2 ^ 20 ∧ d.unreleased 0 2 = false)
    ∧ okAnd (d.span { d.ctx 0 with thread := false } (d.me.rx 10) 64 .load) (fun p => !p.2.badPieces p.1 && p.2.flips == []
        && okAnd (p.2.span (p.2.domCtx 0) (p.2.poolVa 0 0) 64 .store) fun q => q.1 == [(0x20000, 64)]) = true
    ∧ 2 ^ 20 < ((d.modCore 0 fun k => { k with poolTop := 2 ^ 20 }).coreSt 0).poolTop + 64 := by decide +kernel

theorem witness_domains_end : let d := domed (dom 0 [] none)
    let k := domed (dom 0 [] none) kern
    let busy := d.modCore 0 fun c => { c with chans := c.chans.set! 3 [{ copyHead with dom := 1 }] }
    (task.doms = [] ∧ d.me.doms = [dom 0 [] none])
    ∧ (d.domWork 0 [1] = false ∧ d.releaseWaits = false) ∧ busy.domWork 0 [1] = true
    ∧ (d.me.level = .task ∧ abortDepth d.me.doms d.cycle = 0 ∧ k.me.level ≠ .task)
    ∧ (d.me.cdEsc < 2 ^ 16 ∧ d.me.cdRetry < 2 ^ 16 ∧ d.me.cdLcause < 16 ∧ d.me.cdLdepth < 16 ∧ d.me.cdlvl < 16 ∧ (dom 255 [] none).retry < 256) := by
  decide +kernel

theorem witness_abort : let d := domed (dom 2 [] (some 1))
    let e := domed (dom 3 [] (some 1))
    let a := domed (dom 2 [⟨0xF000000040, false, 64, 0⟩] (some 2))
    let r := domed (dom 2 [] (some 1)) { task with status := .parked .reply }
    let now := fun (s : State) => s.arrayRun (clusterOf (coreOf 0))
    let s1 := ((now d).stopWork 0 1 [1]).withdraw 0
    (abortDepth (on task).me.doms 0 ≠ 1 ∧ abortDepth (d.slot 0).doms d.cycle = 1 ∧ ((now d).slot 0).doms = [dom 2 [] (some 1)])
    ∧ (s1.domWork 0 [1] = false ∧ (s1.slot 0).repliesDue = false ∧ (dom 2 [] none).retry ≠ 3)
    ∧ ((((now r).stopWork 0 1 [1]).withdraw 0).slot 0).repliesDue = true
    ∧ ((now e).domWork 0 [1] = false ∧ ((now e).slot 0).repliesDue = false ∧ (dom 3 [] none).retry = 3 ∧ (dom 3 [] none).entries = [] ∧ ((now e).slot 0).saved ≠ 3)
    ∧ (((on task).slot 0).doms = [] ∧ ((domed (dom 0 [] none)).slot 0).doms.map (·.aborting) = [none])
    ∧ ((a.slot 0).doms.map (·.aborting) = [some 2] ∧ abortDepth (a.slot 0).doms a.cycle = 1
      ∧ (a.restoreInputs 0 2 [⟨0xF000000040, false, 64, 0⟩]).1 = none)
    ∧ ((a.setBad (0x20000 / 8) true).restoreInputs 0 2 [⟨0xF000000040, false, 64, 0⟩]).1.isSome = true := by decide +kernel

/-- A tile header with nothing set. -/
def plainHdr : TileHdr := { wait := 0, s1 := 0, s2 := 0, s3 := 0, din := 0, dout := 0 }
/-- The tile words of an MZERO, of an SFFT between two places of the own local store, and of a TPACK. -/
def wMzero : BitVec 256 := (encodeTile (.mzero plainHdr 3)).getD 0
def iTpack : Instr := .tpack plainHdr 0 ⟨0, 15⟩ 0xF000000000 0xF000001000
def wTpack : BitVec 256 := (encodeTile iTpack).getD 0
/-- A slot with the command word in v0 and queue register 0 bound to an engine. -/
def enqueues (e : Word) (w : BitVec 256) : State := queued 0 (2 + 16 * e) fun sl => { sl with v := sl.v.set 0 (w.zeroExtend 512) }
/-- The same with the lease held. -/
def leased (s : State) (h : Nat) : State := s.modCluster s.cluster fun c => { c with holder := some h }
/-- A command passes every check of ENQ up to acceptance. -/
def accepted (s : State) (e : Nat) (w : BitVec 256) (room : Bool) : Bool :=
  let ctx := { s.ctx s.sid with thread := false }
  fineQ s 0 2 && qSub (s.me.qb 0) == e && s.me.substitute ((s.me.rv 0).extractLsb' 0 256) == w && tileHeadOk w && tileEngine (tileOpc w) == some e
    && (match decodeTile w with
      | .ok j => s.listPoison s.core j == none && okAnd (s.engineChecks ctx (s.sampleCmd s.sid e w j)) fun c =>
          s.footProtected ctx c == none && s.enqRoom e == room
      | .error _ => false)
    && (e != 2 || !(s.coreSt s.core).trel) && (e != 0 || (s.clusterSt s.cluster).holder == some s.sid)

theorem witness_lease : let s := on task
    let w := (leased s 0).modCluster 0 fun c => { c with leaseWaits := [5, 7], leaseCount := 31 }
    (s.clusterSt 0).holder = none ∧ ((leased s 0).clusterSt 0).holder = some s.sid ∧ ((leased s 1).clusterSt 0).holder = some 1 ∧ 1 ≠ s.sid
    ∧ ((leased s 0).clusterSt 0).leaseWaits = [] ∧ (w.clusterSt 0).leaseWaits ≠ [] ∧ (w.clusterSt 0).leaseCount = 31
    ∧ (s.clusterSt 0).leaseCount < 31 := by decide

theorem witness_enq : let m := enqueues 0 wMzero
    let t := enqueues 2 wTpack
    let full := t.modCluster 0 fun c => { c with tracker := List.replicate 256 { ticket := 0, reads := [], write := none, since := 0 } }
    (accepted (leased m 80) 0 wMzero true = true ∧ accepted t 2 wTpack true = true ∧ accepted full 2 wTpack false = true)
    ∧ (fineQ (queued 0 0) 0 2 = false ∧ tileHeadOk 0 = false ∧ (m.clusterSt 0).holder ≠ some m.sid)
    ∧ ((t.modCore 5 fun k => { k with trel := true }).coreSt 5).trel = true
    ∧ (decodeTile (wMzero ||| (1 <<< 255))).toOption = none ∧ (1, 3) ∈ [(1, (3 : BitVec 5))]
    ∧ (isChan (onCore 9216 task).core = true ∧ isChan m.core = false) := by decide +kernel

theorem witness_efence : let s := (on (a01 task 0x40 1)).modCluster 0 fun c => { c with tracker := [{ ticket := 1, reads := [⟨1, 2⟩], write := none, since := 0 }] }
    ((on task).me.rx 11).toNat = 0 ∧ 2 ^ 57 < (2 ^ 57 - 1 : Nat) + 2 ∧ (s.me.rx 10).toNat + (s.me.rx 11).toNat ≤ 2 ^ 57
    ∧ ((s.clusterSt s.cluster).tracker.any fun e => e.reads.any fun r => decide (0x40 / 64 < r.hi ∧ r.lo < (0x40 + 1 + 63) / 64)) = true
    ∧ ((on task).clusterSt 0).tracker = [] := by decide +kernel

theorem witness_eres : let c : Copy := { copyHead with susp := some (0, 0) }
    let s := (on (a0 kern 0x330)).modCore 0 fun k => { k with chans := k.chans.set! 3 [c] }
    s.me.level ≠ .task ∧ ((0x100000000 : Word)).extractLsb' 32 32 ≠ 0 ∧ (on kern).workOf 0x30 = none
    ∧ s.workOf 0x330 = some (.copy 0 3 c) ∧ (0x330 : Word) = BitVec.ofNat 64 (c.sid % 16 + 48 + 256 * 3) ∧ c.sid / 16 = s.core ∧ c.susp.isSome = true := by
  decide +kernel

/-- The command of slot 0 that TPACK gives, with its ticket, ready. -/
def cTpack : Cmd := { (on task).sampleCmd 0 2 wTpack iTpack with ticket := 1 }
/-- It stands at the head of its queue; it runs. -/
def queuedCmd : State := (on task).modCluster 0 fun k => { k with queues := k.queues.set! 2 [cTpack] }
def runningCmd : State := (on task).modCluster 0 fun k => { k with running := [cTpack] }

theorem witness_engine_events : let q := queuedCmd
    let r := runningCmd
    ((q.clusterSt 0).queues.toList.getD 2 [] = [cTpack] ∧ cTpack.ready = some 0 ∧ q.running 0 2 = [] ∧ cTpack.eng = 2 ∧ q.canStart 0 q.cycle cTpack = true)
    ∧ q.runCmd 0 1 = none ∧ (r.runCmd 0 1 = some cTpack ∧ cTpack.susp = none)
    ∧ ((r.modCluster 0 fun k => { k with running := [{ cTpack with susp := some (0, 0) }] }).runCmd 0 1).map (·.susp.isSome) = some true
    ∧ (cTpack.inner = [] ∧ cTpack.step = 0 ∧ cTpack.rowsW = 0 ∧ cTpack.flags = 0 ∧ cTpack.status = 0 ∧ cTpack.poisonOp = 0 ∧ (r.slot cTpack.sid).abortedBy cTpack.dom r.cycle = none)
    ∧ (let l := r.tinkLoad 0 cTpack cTpack.ins 5000000;
        l.2.2 = true ∧ (tinkOut cTpack.ins l.1.buf).bad = 0 ∧ l.1.step < 2 ^ 20
        ∧ (l.2.1.tinkPut 0 l.1 ((tinkOut cTpack.ins l.1.buf).writes.drop (l.1.step - l.1.rowsR))).2.2 = true) := by decide +kernel

/-- A kernel-level slot with operands in x10 and x11. -/
def kern2 (a b : Word) : State := on (a01 kern a b)

theorem witness_kernel_instructions : (on task).me.level = .task ∧ (on kern).me.level ≠ .task ∧ isChan (onCore 9216 kern).core = true
    ∧ ((0x40000 : Word).extractLsb' 18 46 ≠ 0 ∧ (0x3FFFF : Word).extractLsb' 18 46 = 0)
    ∧ ((on kern).unreleased 0 4 = false ∧ (on kern).me.unacquired = false ∧ (on { kern with pending := [⟨1, 5⟩] }).me.unacquired = true) := by decide

theorem witness_frames : let s := kern2 0x1F00 0xF000000800
    let v := s.me.rx 10
    let far := kern2 0x1F0F 0xF000000804
    (v.extractLsb' 13 51 = 0 ∧ v.extractLsb' 4 4 = 0 ∧ s.isUserSlot s.core (v.toNat % 16) = true ∧ s.core * 16 + v.toNat % 16 = s.sid)
    ∧ ((s.slot 5).status = .idle ∧ far.isUserSlot far.core ((far.me.rx 10).toNat % 16) = false ∧ (far.me.rx 11).toNat % 2048 ≠ 0)
    ∧ (s.me.rx 11).toNat % 2048 = 0 ∧ s.inFlight 0 (lsWord + 0x800) 2048 true = false
    ∧ okAnd (s.locateStore s.sid (s.me.rx 11) 2048) (fun h => h.pa == lsWord + 0x800 && !h.st.bad (h.pa / 8) && decide (h.st.hostPage + 64 ≤ h.pa)
        && h.st.teams == [] && h.st.teamOf (h.st.slot 0) == none) = true
    ∧ okAnd (s.locate s.sid (s.me.rx 11) 2048 .load) (fun h => !h.st.badAt h.pa 2048) = true
    ∧ (0x0F00 : Word).getLsbD 12 = false
    ∧ okAnd ((kern2 0x1F00 0x800).locate 0 0x800 2048 .load) (fun _ => true) = false
    ∧ okAnd ((kern2 0x1F00 0x800).locateStore 0 0x800 2048) (fun _ => true) = false := by decide +kernel

theorem witness_walks : let s := mapped 0 task
    let c := { tables (onCore chanCore0 { task with pc := 0x20000, ptbase := 0x40000 }) with free := 0 }
    okAnd (s.walk (s.ctx 0) 0x10000 .store) (fun p => p.1 == 0x100000 && pteD p.2.1) = true
    ∧ okAnd (s.walk (s.ctx 0) 0x50000 .load) (fun _ => true) = false
    ∧ (State.reset.lineUser 0 1 0 = none ∧ c.lineUser 0 (BitVec.ofNat 64 0) 2048 = some (chanCore0 * 16))
    ∧ okAnd (c.resolve (c.ctx (chanCore0 * 16)) (BitVec.ofNat 64 (2048 * 64)) 64 .fetch) (fun h => h.pa == 0x110000) = true
    ∧ 3 ∉ (State.reset.clusterSt 0).vfills ∧ 3 ∈ ((State.reset.modCluster 0 fun k => { k with vfills := [3] }).clusterSt 0).vfills := by decide +kernel

/-- A kernel-level slot whose tables map pages 1 and 2, which x10 and x11 name. -/
def paged : State := tables (on { a01 kern 0x10000 0x20000 with ptbase := 0x40000 })

theorem witness_pages : let s := paged
    (s.me.rx 10 = 0x10000 ∧ s.me.rx 11 = 0x20000 ∧ s.pageKept 0x10000 = false ∧ s.pageKept 0x20000 = false)
    ∧ ([(0x10000 : Word), 0x20000].all fun d => d.toNat % 0x10000 == 0 && d.extractLsb' 57 7 == 0 && !inWindows d && !inPhysWindow d) = true
    ∧ (0x10008 : Word).toNat % 0x10000 ≠ 0 ∧ (0x8000000000000000 : Word).extractLsb' 57 7 ≠ 0
    ∧ okAnd (s.pageAt (s.me.rx 10) .store) (fun h => ownerOf h.pa == .hbm
        && okAnd (h.st.pageAt (s.me.rx 11) .load) fun g => ownerOf g.pa == .hbm) = true
    ∧ (inPhysWindow (0x100000000000000 + BitVec.ofNat 64 vaultWord) = true ∧ s.me.level ≠ .task
        ∧ okAnd (s.pageAt (0x100000000000000 + BitVec.ofNat 64 vaultWord) .store) (fun h => ownerOf h.pa != .hbm) = true)
    ∧ (s.unreleased 0 4 = false ∧ s.me.unacquired = false)
    ∧ (s.teams = [] ∧ Memory.wf s.mem = true ∧ 0x100000 % 0x10000 = 0 ∧ 0x110000 ≠ 0x100000 ∧ 63 < 0x10000 / 1024 ∧ 1023 < 0x10000 / 64)
    ∧ ((on (parkedOn .reply)).slot 0).status = .parked .reply := by decide +kernel

theorem witness_scrub : let s := paged
    let w := tables (on { a0 kern 0x10000 with ptbase := 0x40000, status := .parked .reply })
    ((s.me.rx 10).toNat % 64 = 0 ∧ (0x10020 : Word).toNat % 64 ≠ 0 ∧ (64 : Word).toNat % 64 = 0 ∧ (0x100000000 : Word).toNat ≤ 2 ^ 32
      ∧ 2 ^ 32 < (0x100000040 : Word).toNat ∧ (s.me.rx 10).extractLsb' 57 7 = 0 ∧ inWindows (s.me.rx 10) = false)
    ∧ okAnd (s.resolve (s.kctx s.sid) (s.me.rx 10) 64 .store) (fun _ => true) = true
    ∧ okAnd (w.resolve (w.kctx 0) 0x10000 64 .store) (fun h => h.pa % 8 == 0 && h.st.teams == []) = true
    ∧ (w.slot 0).status = .parked .reply := by decide +kernel

/-- A resident team of slot 0 on cluster 0 with slots 0 and 1 of each core, with a checkpoint boundary. -/
def stepping (want : Option Nat) (run : Bool) : State :=
  { on task with teams := [(0, { team1 with smask := 3, ckWant := want, ckRun := run })], slots := [(0, task), (1, task)] }

theorem witness_steps : let t := fun (want : Option Nat) (run : Bool) => { team1 with smask := 3, ckWant := want, ckRun := run }
    let s := stepping (some 1) false
    ((on task).teamOf task).isNone = true ∧ ((s.teamOf s.me).bind (·.boundary)) = some 1 ∧ s.me.level = .task ∧ s.me.running = .user ∧ 1 ≤ (s.me.step + 1).toNat
    ∧ ((s.teamOf s.me).map fun t => decide (1 ∈ t.userSlots)) = some true ∧ 1 ≠ s.sid ∧ (s.slot 1).status ≠ .exited ∧ (s.slot 1).ckArr = false
    ∧ (t (some 1) false).ckWant.isSome = true ∧ (t none true).ckRun = true
    ∧ ((stepping none false).team? (stepping none false).me.team).map (fun t => (t.ckWant, t.ckRun)) = some (none, false) := by decide +kernel

/-- A kernel slot, and team 1 in a state, with a stop under way or none. -/
def stopping (r : Word) (st : Nat) (stop : Option Nat) : State := { on (a0 kern r) with teams := [(1, { team1 with state := st, stop := stop })] }

theorem witness_teamstop : let r := fun (w : Word) => (w.extractLsb' 18 6, (w.extractLsb' 16 2).toNat, (w.extractLsb' 0 16).toNat)
    r 1 = (0, 0, 1) ∧ r 0x40001 = (1, 0, 1) ∧ r 0x30001 = (0, 3, 1) ∧ r 0 = (0, 0, 0) ∧ ((stopping 2 1 none).team? 2).isNone = true
    ∧ ((stopping 1 3 none).team? 1).map (·.state) = some 3 ∧ ((stopping 1 1 (some 0)).team? 1).map (·.stop) = some (some 0)
    ∧ ((stopping 1 1 none).team? 1).map (fun t => (t.state, t.stop, decide (t.flags.toNat % 4 ≠ 2), t.ckRun)) = some (1, none, true, false)
    ∧ (stopping 1 1 none).coreTab = [] ∧ (stopping 1 1 none).clusters = [] := by decide +kernel

/-- A launch record in HBM, named through the physical window, whose save area is there too; `state` stands in the area. -/
def submitted (state : Nat) : State :=
  (((on (a0 kern 0x100000000010000)).wr 0x10020 8 0x100000000020000).wr 0x10000 8 1).wr 0x20000 4 state

theorem witness_teamgo : let s := submitted 4
    (s.me.rx 10).toNat % 256 = 0 ∧ (0x100000000010008 : Word).toNat % 256 ≠ 0
    ∧ okAnd (s.locate s.sid (s.me.rx 10) 256 .load) (fun h => okAnd (h.st.submit (s.ctx s.sid) (s.me.rx 10) false) fun _ => true) = true
    ∧ okAnd ((on (a0 kern 0x100000000010000)).submit ((on kern).ctx 0) 0x100000000010000 false) (fun _ => true) = false
    ∧ okAnd ((on (a0 kern 0x10000)).locate 0 0x10000 256 .load) (fun _ => true) = false := by decide +kernel

theorem witness_ptparm : let s := on kern
    s.me.level ≠ .task ∧ (1 : Word).toNat / 2 * 2 = 0 ∧ s.ptp < (2 : Word).toNat / 2 * 2
    ∧ (let t := { s with cycle := 3 }; t.me.level = .task ∨ (2 : Word).toNat / 2 * 2 ≤ t.ptp) ∧ (3 : Word).getLsbD 0 = true := by decide

/-- Team 1 on cluster 0 at generation 1, the machine's only one; slot 16 of its core 1 as given, a run queue on core 0. -/
def hosting (sl : Slot) (stop : Option Nat) (q : List RunEnt) : State :=
  (({ State.reset with slots := [(16, sl)], teams := [(1, { team1 with gen := 1, stop := stop, save := 0x100000000020000 })] }.modCluster 0
    fun k => { k with team := some 1 }).modCore 0 fun c => { c with runq := q })

/-- A packet of generation 1. -/
def fresh (k : Nat) : Packet := { packet k 8 with gen := 1 }

/-- A load and a store of core 0's local store by slot 16, as active messages. -/
def askLoad : Packet := { fresh 2 with act := some (.load { sid := 16, els := [(lsWord, 0xF000000000)], size := 8, dst := .scalar 5 false, got := 0, n := 1 }) }
def askStore : Packet := { fresh 2 with act := some (.store { sid := 16, pa := lsWord, size := 8, data := 7, va := 0xF000000000 }) }

theorem witness_arrivals : let r := hosting (parkedOn .reply) none []
    let m := hosting (parkedOn .moving) (some 0) []
    let full := hosting (parkedOn .reply) none (List.replicate 16 { p := fresh 3, arrived := 0 })
    let log := m.wr 0x30000 8 65432
    (State.reset.wanted (fresh 3) 0 = false ∧ State.reset.wanted askLoad 0 = false)
    ∧ (r.wanted (fresh 3) 16 = true ∧ m.wanted (fresh 3) 16 = true ∧ r.wanted (fresh 3) noSlot = true ∧ r.wanted askLoad 0 = true ∧ r.wanted askStore 0 = true)
    ∧ (0 < 1 ∧ r.cycle = 0 ∧ (r.teams.all fun e => !e.2.ckRun) = true)
    ∧ ((r.team? 1).map (·.gen) = some 1 ∧ (packet 3 8).gen < 1 ∧ (fresh 3).gen = 1 ∧ (fresh 3).kind < 4 ∧ (fresh 4).kind = 4 ∧ (fresh 3).act = none)
    ∧ ((m.team? 1).map fun t => (m.residentAt t 1 0, (m.logPut 1 (.frame (fresh 3))).isSome)) = some (false, true)
    ∧ ((r.team? 1).map fun t => (r.residentAt t 1 0, decide ((r.queueOf 0).length < queueSize 0))) = some (true, true)
    ∧ ((full.team? 1).map fun t => (full.residentAt t 1 0, decide (queueSize 0 ≤ (full.queueOf 0).length))) = some (true, true)
    ∧ ((log.team? 1).map fun t => (log.residentAt t 1 0, (log.logPut 1 (.frame (fresh 3))).isSome)) = some (false, false)
    ∧ ((62 < 63 ∧ 63 ≤ 63) ∧ 16 ≠ noSlot ∧ isChan (coreOf 16) = false)
    ∧ (m.slot 16).running = .user ∧ (({ parkedOn .moving with running := .migrated } : Slot).running) ≠ .user
    ∧ (r.clusterAt 1 0) = some 0 := by decide +kernel

theorem witness_crc : (0 : BitVec 32) ≠ 1 ∧ (∀ p : Packet, p.crc + 1 ≠ p.crc) := by
  refine ⟨by decide, fun p h => ?_⟩
  have := BitVec.add_right_eq_self.mp h
  exact absurd this (by decide)

/-- A queue entry. -/
def ent (k at' : Nat) : RunEnt := { p := fresh k, arrived := at' }

theorem witness_run_queues : let s := hosting task none [ent 3 0, ent 0 1]
    let inn := hosting task none [ent 2 0]
    let act := hosting task none [{ p := askLoad, arrived := 0 }, { p := askStore, arrived := 0 }]
    let busy := (hosting task none [ent 3 0]).modCore 0 fun c => { c with busy := some (fresh 3) }
    let can := fun (s : State) (e : RunEnt) => (if e.moves then (s.freeTravSlot 0).isSome else s.innFree 0) && s.mayRun e && s.inOrder (s.queueOf 0) e
    ((s.queueOf 0).length = 2 ∧ s.freeTravSlot 0 = some 0 ∧ s.innFree 0 = true)
    ∧ ((busy.queueOf 0).all fun e => !can busy e) = true
    ∧ (pickEnt 0 (can s) (s.queueOf 0)).map (·.p.kind) = some 3
    ∧ (pickEnt 1 (can (s.setQueue 0 [ent 0 1])) [ent 0 1]).map (fun e => (e.p.kind, e.moves)) = some (0, true)
    ∧ (pickEnt 0 (can inn) (inn.queueOf 0)).map (fun e => (e.p.kind, e.p.act.isNone)) = some (2, true)
    ∧ (pickEnt 0 (can act) (act.queueOf 0)).map (·.p) = some askLoad
    ∧ (pickEnt 0 (can (act.setQueue 0 [{ p := askStore, arrived := 0 }])) [{ p := askStore, arrived := 0 }]).map (·.p) = some askStore
    ∧ 0 < vaultOwner0 ∧ isChan chanCore0 = true ∧ isChan 0 = false
    ∧ (busy.busyOf 0 = some (fresh 3) ∧ (s.team? 1).isSome = true) := by decide +kernel

/-- A packet of an update of the word at the start of a page: AMADD.NR in its pc. -/
def update (va : Word) : Packet :=
  { fresh 3 with target := va, pc := ((encode (.amadd 0 0 0 true false false)).getD 0).setWidth 64 }

/-- A team with the tables of `tables`, strict or lenient; the word at 0x100000 good or bad. -/
def updated (strict bad : Bool) : State :=
  let s := tables { State.reset with teams := [(1, { team1 with gen := 1, ptb := 0x40000, flags := if strict then 4 else 0 })] }
  if bad then s.setBad 0x20000 true else s

theorem witness_updates : nrAtom 0 = none ∧ nrAtom (update 0).pc = some .add
    ∧ ([(false, false), (true, true), (false, true)].all fun p => let s := updated p.1 p.2
        match s.team? 1 with
        | some t => okAnd (s.resolve { t.ctx 1 with core := 0, sid := 0 } 0x10000 8 .store) fun h =>
            s.bad (h.pa / 8) == p.2 && s.strict 1 == p.1
        | none => false) = true
    ∧ ((updated false false).team? 1).map (fun t => okAnd ((updated false false).resolve { t.ctx 1 with core := 0, sid := 0 } 0x50000 8 .store)
        fun _ => true) = some false
    ∧ (updated false false).slotAt 1 0 = some 0 := by decide +kernel

theorem witness_homecoming : let s := fun (sl : Slot) => { hosting task none [] with slots := [(0, sl)] }
    let away := s { task with status := .away }
    let saved := s { task with savedAway := true }
    let framed := s { task with savedAway := true, frame := some (0x100000, []) }
    (packet 3 8).gen < 1 ∧ (away.slotAt 1 0 = some 0 ∧ (away.slot 0).status = .away ∧ (fresh 0).exitMark = false)
    ∧ ({ fresh 0 with exitMark := true }).exitMark = true ∧ ((s task).slot 0).status ≠ .away ∧ ((s task).slot 0).savedAway = false
    ∧ ((saved.slot 0).savedAway = true ∧ (saved.slot 0).frame = none ∧ (saved.slot 0).status ≠ .away)
    ∧ ((framed.slot 0).frame = some (0x100000, []) ∧ (framed.slot 0).savedAway = true ∧ framed.slotAt 1 0 = some 0 ∧ 0x100000 % 64 = 0
      ∧ (framed.teams.all fun e => !e.2.ckRun) = true ∧ 0x100000 + 512 ≤ framed.hostPage) := by decide +kernel

/-- A range of core 0's own local store within 64 KiB lies where R61 puts it, without a walk. -/
theorem maps_own (s : State) (c : Ctx) (o n : Nat) (dir : Dir) (hc : c.core = 0) (hd : dir ≠ .fetch) (h0 : 0 < n)
    (h1 : o % 0x10000 + n ≤ 0x10000) (h2 : o + n ≤ 0x20000) :
    s.maps c (0xF000000000 + BitVec.ofNat 64 o) n dir (lsPa 0 + o) := by
  intro s' _ _ _
  have ht : (0xF000000000 + BitVec.ofNat 64 o : Word).toNat = 0xF000000000 + o := by simp; omega
  have hw : inWindows (0xF000000000 + BitVec.ofNat 64 o) = true := by simp only [inWindows, ht]; simp; omega
  have hv : vaPieces (n / 0x10000 + 2) (0xF000000000 + BitVec.ofNat 64 o) n = [(0xF000000000 + BitVec.ofNat 64 o, n)] := by
    have : min n (0x10000 - (0xF000000000 + o) % 0x10000) = n := by omega
    simp [vaPieces, this]; omega
  refine ⟨[(lsPa 0 + o, n)], ?_, by simp [follows]⟩
  have hf : (dir == Dir.fetch) = false := by cases dir <;> simp_all
  have hq : s'.window c (0xF000000000 + o) n = some (lsPa 0 + o) := by
    have a : 0xF000000000 + o < 0xF100000000 := by omega
    have b : 0xF000000000 + o + n ≤ 0xF000000000 + 0x20000 := by omega
    simp [State.window, hc, a, b, show isChan 0 = false by decide]
  simp only [State.span, hv, State.resolveAll, State.resolve, hw, ht, hq, hf]
  rfl

theorem maps_own_blocks (s : State) (c : Ctx) (o n : Nat) (dir : Dir) (hc : c.core = 0) (hd : dir ≠ .fetch) (h1 : o % 64 = 0)
    (h2 : o + n ≤ 0x20000) : s.mapsBlocks c (0xF000000000 + BitVec.ofNat 64 o) n dir (lsPa 0 + o) := by
  intro k hk
  have e : (0xF000000000 + BitVec.ofNat 64 o + BitVec.ofNat 64 (64 * k) : Word) = 0xF000000000 + BitVec.ofNat 64 (o + 64 * k) := by
    rw [BitVec.add_assoc, BitVec.ofNat_add]
  rw [e, Nat.add_assoc]
  exact maps_own s c _ _ dir hc hd (by omega) (by omega) (by omega)

/-- The package with the user slot in turn and memory as given. -/
def tiled (sl : Slot) (mem : List Host.Cell) : State := { on sl with mem := mem }

theorem tiled_ready (sl : Slot) (mem : List Host.Cell) (hd : sl.doms = []) (hm : noRecords (tiled sl mem) = true) : (tiled sl mem).ready := by
  refine ⟨rfl, rfl, rfl, rfl, rfl, fun u => ?_, (fun p h => by cases h), rfl, rfl, rfl, rfl, (fun e h => by cases h),
    unprotected_of rfl hm, show State.reset.hostPage % 64 = 0 by decide, show State.reset.hostPage < 2 ^ 50 by decide,
    (fun d h => by have : (tiled sl mem).me.doms = sl.doms := rfl; rw [this, hd] at h; cases h)⟩
  show (Vector.replicate 4 0).toList.getD u 0 ≤ 0
  rcases u with _ | _ | _ | _ | u <;> exact Nat.le_of_eq rfl

/-- The command is encoded, and the checks of its engine let it pass. -/
def passes (i : Instr) (e : Nat) (s : State) : Bool := match encodeTile i with
  | some w => okAnd (s.engineChecks { s.ctx s.sid with thread := false } (s.sampleCmd s.sid e w i)) fun c => c.eng == e && c.w == w
  | none => false

/-- An address of core 0's local store, as a word and as a tile operand. -/
def own (o : Nat) : Word := 0xF000000000 + BitVec.ofNat 64 o
def own57 (o : Nat) : BitVec 57 := 0xF000000000 + BitVec.ofNat 57 o

theorem witness_tinker : let s := tiled task []
    let kb : KBlk := { k1 := 0, n1 := 0 }
    (passes (.tpack (tag 0 0) 0 kb (own 0) (own 64)) 2 s = true ∧ passes (.tunpk (tag 0 0) 0 kb (own 0) (own 64)) 2 s = true
      ∧ passes (.tspadd (tag 0 0) kb (own 0) 16 (own 64)) 2 s = true ∧ passes (.ttopk (tag 0 0) 0 false kb (own 0) 0 (own 256)) 2 s = true
      ∧ passes (.ttopk (tag 0 0) 0 true kb (own 0) (own 128) (own 256)) 2 s = true)
    ∧ 0 + 1 ≤ blkLen 0 ∧ lsPa 0 + 128 + 4 * 32 ≤ lsPa 0 + 256 ∧ lsPa 0 + 0x20000 ≤ 2 ^ 50 ∧ State.reset.hostPage + 64 ≤ lsPa 0
    ∧ tileEngine 0x42 = some 2 ∧ (encodeTile (.tpack (tag 0 0) 0 kb (own 0) (own 64))).map tileOpc = some 0x42
    ∧ isChan (onCore 9216 kern).core = true := by decide +kernel

/-- Engine 2 runs a command of slot 0 with ticket 0, and the next ticket is 1. -/
def tinking : State := (on task).modCluster 0 fun k => { k with running := [(on task).sampleCmd 0 2 0 (.tlink (tag 0 0) 0 0)] }

/-- A local store that holds at 0 the command word of a TPACK between buffer offsets 0 and 64. -/
def listed (i : Instr) : State := (on task).wr (lsPa 0) 32 ((encodeTile i).getD 0).toNat

theorem listed_tiled (i : Instr) : ∃ m, listed i = tiled task m := ⟨_, rfl⟩

theorem witness_tlink : let s := listed (.tpack { wait := 0, s1 := 0, s2 := 0, s3 := 0, din := 0, dout := 0 } 0 { k1 := 0, n1 := 0 } (1 <<< 63) ((1 <<< 63) + 64))
    (tinking.running 0 2).length = 1 ∧ ((tinking.clusterSt 0).running.all fun o => o.ticket != (tinking.clusterSt 0).nextTicket) = true
    ∧ passes (.tlink (tag 0 0) 0 (own57 0)) 2 s = true
    ∧ okAnd (s.innerWords (s.ctx s.sid) s.me.level 0 (s.linkList s.core (va57 (own57 0)) 1)) (fun l =>
        let w := (encodeTile (.tlink (tag 0 0) 0 (own57 0))).getD 0
        let c : Cmd := { s.sampleCmd s.sid 2 w (.tlink (tag 0 0) 0 (own57 0)) with inner := l }
        let u := (s.acceptCmd c).unitStart s.cluster 2
        let c0 : Cmd := { c with ticket := (s.clusterSt s.cluster).nextTicket, start := some s.cycle }
        let one := fun (x : Option (Cmd × State)) (i : Instr) => x.bind fun y => match y.2.tinkOne s.cluster y.1 i with
          | (c, s, true) => some ({ c with step := (c.step / 2 ^ 20 + 1) * 2 ^ 20, buf := [], rowsR := 0, rowsW := 0 }, s)
          | (_, _, false) => none
        match l.foldl one (some (c0, u.zero (tinkPa s.cluster) 0x10000)) with
        | some (c', _) => l.length == 1 && decide (c'.status ≤ 1)
        | none => false) = true := by decide +kernel

/-- A user slot whose header h stands at 0 of its local store. -/
def headed (h : Nat) : State := (on task).wr (lsPa 0) 64 h
theorem headed_tiled (h : Nat) : ∃ m, headed h = tiled task m := ⟨_, rfl⟩

/-- The shape of one vector of one block of 16. -/
def shape1 : Shape := { lb := 0, nb1 := 0, nv1 := 0, p1 := 0 }

theorem witness_transforms : let s := fun (t : Nat) => headed (hdrOf t 4 1 1 0)
    let good := fun (h : TileHdr) (t : Nat) => hdrCheck ((s t).rd (lsPa 0) 64) false h.din.toNat (some (4, 1, 1)) false == .ok
    (passes (.sfft (tag 0 1) shape1 (own57 0) (own57 128)) 1 (s 0) = true ∧ good (tag 0 1) 0 = true)
    ∧ (passes (.sifft (tag 1 0) shape1 (own57 0) (own57 128)) 1 (s 1) = true ∧ good (tag 1 0) 1 = true)
    ∧ (passes (.stagMode0 (tag 0 0) 3 shape1 (own57 0) (own57 128)) 1 (s 0) = true ∧ good (tag 0 0) 0 = true)
    ∧ (passes (.stagMode2 (tag 1 2) shape1 (own57 0) (own57 128)) 1 (s 1) = true ∧ good (tag 1 2) 1 = true)
    ∧ (passes (.stagMode1 (tag 0 0) shape1 (own57 0) (own57 0) (own57 128)) 1 (s 0) = true
      ∧ (hdrCheck ((s 0).rd (lsPa 0) 64) false 0 none true == .ok) = true)
    ∧ (shape1.lg, shape1.nb, shape1.nv) = (4, 1, 1) ∧ lsPa 0 + 192 + shape1.bytes 1 ≤ 2 ^ 50 ∧ State.reset.hostPage + 64 ≤ lsPa 0
    ∧ (specOf (.sfft (tag 0 1) shape1 (own57 0) (own57 128))).map (fun p => (p.src, p.d)) = some (own 0, shape1)
    ∧ (hdrCheck ((headed 0).rd (lsPa 0) 64) false 0 (some (4, 1, 1)) false == .mismatch 3) = true
    ∧ (task.status = .ready ∧ task.saved = 0) := by decide +kernel

theorem witness_headers : let h := fun (t : Nat) => hdrOf t 4 1 1 0
    h 3 % 4 = 3 ∧ (hdrOf 0 0 1 1 0 % 4 ≠ 3 ∧ hdrMalformed (hdrOf 0 0 1 1 0) = true)
    ∧ (h 0 % 4 ≠ 3 ∧ hdrMalformed (h 0) = false ∧ h 0 % 4 ≠ 1) ∧ (h 1 % 4 = 1 ∧ h 1 / 2 ^ 8 % 256 = 4 ∧ hdrMalformed (h 1) = false)
    ∧ (h 1 / 2 ^ 16 % 256 ≠ 2 ∧ h 1 / 2 ^ 24 % 256 ≠ 2 ∧ h 1 / 2 ^ 16 % 256 = 1 ∧ h 1 / 2 ^ 24 % 256 = 1) := by decide +kernel

/-- A slot with FMT as given and the scale tables at 0 and 256. -/
def formatted (f : Word) : State := tiled { task with fmt := f, sptrb := 256 } []

/-- The headers of an input tile and of a weight image of one block, in local store and weight buffer. -/
def imaged : State := tiled task ((headed (hdrOf 1 4 1 1 0)).wr (weightPa 0) 64 (hdrOf 1 4 1 1 0)).mem

theorem witness_array : let s := formatted 0x49
    (passes (.mzero (tag 0 0) 3) 0 s = true ∧ passes (.mma (tag 0 0) 3 true 0 0 (own57 0) 0 0) 0 s = true
      ∧ passes (.mtrn (tag 0 0) 0 0 (own57 0) 0) 0 s = true ∧ passes (.mperm (tag 0 0) 0 true 0 (own57 0) 0 (own57 8192)) 0 s = true
      ∧ passes (.mrsum (tag 0 0) 0 true 3 0 (own57 0) 0) 0 s = true)
    ∧ (passes (.mvb (tag 0 0) 0 true 0x81 (own57 0)) 0 s = true ∧ lsPa 0 + 64 * blocks (bStored (fmtB 0x49) 0) ≤ 2 ^ 50
      ∧ 64 * blocks (bStored (fmtB 0x49) 0) ≤ 0x10000)
    ∧ (passes (.mldv (tag 0 0) 7 false false 0x800 (own57 0)) 0 (formatted 0x4B) = true ∧ passes (.mldv (tag 0 0) 0 true true 0 (own57 0)) 0 (formatted 0x4B) = true)
    ∧ (passes (.mwld (tag 0 0) 2 (own57 0) 64) 0 s = true ∧ blocks (bStored (fmtB 0x49) 2) ≤ 1024) := by decide +kernel

theorem witness_store : let s := formatted 0x849
    let f := fun (ovr : Bool) (sf : BitVec 3) => if ovr then sf.toNat else fmtS 0x849
    let n := fun (code : Nat) => if isDx code then 64 * stride 0 (rowBytes code) + 256 else 63 * stride 0 (rowBytes code) + rowBytes code
    (passes (.mstc (tag 0 0) 0 false false 0 0 (own57 0x400) 0) 0 s = true ∧ passes (.mstc (tag 0 0) 3 true true 3 (own57 0x8000) (own57 0x400) 0) 0 s = true)
    ∧ (fmtScale 0x849 = true ∧ s.me.sptra.toNat + 256 ≤ 0x400 ∧ s.me.sptrb.toNat + 256 ≤ 0x400)
    ∧ (isDx (f true 3) = true ∧ isDx (f false 0) = false ∧ 0x400 + n (f true 3) ≤ 0x8000 ∧ 0x400 + n (f false 0) ≤ 0x8000)
    ∧ (((List.range 64).all fun r => (0x400 + r * stride 0 (rowBytes (f true 3))) % 0x10000 + rowBytes (f true 3) ≤ 0x10000) = true)
    ∧ lsPa 0 + 0x20000 ≤ 2 ^ 50 ∧ State.reset.hostPage + 64 ≤ lsPa 0 := by decide +kernel

theorem witness_scmm : let i : Instr := .scmm (tag 1 1) 0 shape1 (own57 0) 0 (own57 256)
    passes i 0 imaged = true
    ∧ (encodeTile i).map (fun w => scmmCheck (tag 1 1) shape1 (imaged.scmmIn 0 (imaged.sampleCmd 0 0 w i))) = some (0, 0)
    ∧ (encodeTile i).map (fun w => imaged.localPa (imaged.sampleCmd 0 0 w i) (va57 (own57 0))) = some (lsPa 0)
    ∧ 64 + shape1.bytes shape1.nb ≤ 256 ∧ 256 + 64 + shape1.b / 4 * (shape1.np * shape1.nv * 8) ≤ 0x10000 := by decide +kernel

/-- Team 1 in a state, with its slots 0 of cluster 0 as given; a booted machine of three working clusters. -/
def seated (f : Team → Team) (sl : Slot) : State :=
  { State.reset with booted := true, working := [0, 1, 70], teams := [(1, f { team1 with lid := 9 })],
                     slots := (List.range 16).map fun i => (16 * i, sl) }

/-- No checkpoint runs and no presence entry waits. -/
def quiet (s : State) : Bool :=
  (s.teams.all fun e => !e.2.ckRun) && (s.coreTab.all fun e => e.2.waits == []) && s.clusters.all fun e => e.2.vwaits == []

/-- A queued record with dependences, of which launch 7 has ended with class 5. -/
def waiting (d : List Word) : State := { seated (fun t => { t with state := 0, place := [], deps := d }) task with ended := [(7, 5)] }

/-- Team 1 is the launch with id 9, and meets a condition. -/
def launch9 (s : State) (f : Team → Bool) : Bool := match s.findLaunch 9 with | some (tid, t) => tid == 1 && f t | none => false

theorem witness_dispatch : ((waiting []).findLaunch 8).isNone = true ∧ launch9 (seated id task) (fun t => t.state == 1) = true
    ∧ launch9 (waiting []) (fun t => let s := waiting []
        t.state == 0 && !s.depWaits t && !t.deps.any s.depFailed && s.isNext 1 t && (s.placeFor t [1]).length == t.s * t.c) = true
    ∧ (waiting []).booted = true ∧ (waiting []).holdDispatch = false ∧ quiet (waiting [7]) = true
    ∧ launch9 { waiting [] with booted := false } (fun t => t.state == 0 && !t.deps.any (waiting []).depFailed) = true
    ∧ launch9 (waiting [7]) (fun t => t.state == 0 && !(waiting [7]).depWaits t && t.deps.any (waiting [7]).depFailed) = true := by
  decide +kernel

theorem witness_places : (waiting []).working.Nodup ∧ team1.c ≤ ((waiting []).freeClusters.filter fun c => c / 64 == 1).length
    ∧ ((waiting []).placeFor { team1 with s := 2 } []).length = 2 := by decide +kernel

/-- Team 1 of a state meets a condition. -/
def team1Is (s : State) (f : Team → Bool) : Bool := match s.team? 1 with | some t => f t | none => false

theorem witness_starts : let s := seated (fun t => { t with started := false }) Slot.init
    team1Is s (fun t => t.state == 1 && !t.started && t.saved.isNone && t.place == [0] && t.smask.getLsbD 0 && !t.smask.getLsbD 1) = true
    ∧ team1Is (seated id task) (fun t => t.started) = true ∧ 16 / 256 = 0 ∧ quiet s = true ∧ [0].Nodup
    ∧ (5 / 2 < 2 ^ 16 ∧ 5 % 2 < 2 ^ 16 ∧ 15 < 2 ^ 16) := by decide +kernel

theorem witness_save_area : (State.reset.saveAt { team1 with save := 0x100000000020000 } 1 8 8 .store).map (fun h =>
    (h.pa, decide (h.pa / 64 ≠ State.reset.hostPage / 64))) = some (0x20008, true) := by decide +kernel

/-- A team whose slots have all exited. -/
def gone (f : Team → Team) : State := seated f { task with status := .exited }

theorem witness_done : let d := fun (s : State) (sent exited done : Bool) => team1Is s fun t => t.state == 1 && t.place[0]? == some 0
        && (s.clusterSt 0).doneSent == sent && s.allExited t 0 == exited && s.clusterDone t 0 == done
    ((gone id).team? 2).isNone = true ∧ d (seated id task) false false false = true
    ∧ d ((gone id).modCluster 0 fun k => { k with spawned := 1 }) false true false = true ∧ d (gone id) false true true = true
    ∧ d ((gone id).modCluster 0 fun k => { k with doneSent := true }) true true true = true ∧ quiet (gone id) = true := by decide +kernel

theorem witness_reports : let r := fun (s : State) (l n : Nat) => team1Is s fun t => t.place[0]? == some 0 && (mark t.reports 0 true).length == l
        && t.s * t.c == n
    r (gone id) 1 1 = true ∧ team1Is (gone id) (fun t => t.reports == []) = true
    ∧ r (gone fun t => { t with s := 2, place := [0, 1] }) 1 2 = true ∧ team1Is (gone fun t => { t with reports := [0] }) (fun t => t.reports == [0]) = true
    ∧ (team1.done.exits < 2 ^ 32 ∧ team1.done.cls < 16 ∧ team1.done.reexec < 2 ^ 16)
    ∧ ((gone id).clusterSt 0).scrubbing = false ∧ (((gone id).modCluster 0 fun k => { k with scrubbing := true }).clusterSt 0).scrubbing = true := by
  decide +kernel

/-- Team 1 resident with a stop of a mode under way, its slots as given. -/
def stopped (m : Nat) (sl : Slot) : State := seated (fun t => { t with stop := some m }) sl

/-- Slot 0 runs a traveller of team 1, at a safe point or not. -/
def travelling (at' : Option Nat) : State :=
  (stopped 0 { task with status := .exited }).setSlot 0
    { task with safeAt := at', trav := some { team := 1, gen := 0, kind := 0, prio := 0, cap := 0, origin := 0, target := 0, reply := 0 } }

theorem witness_traveller_saves : team1Is (travelling none) (fun t => t.state == 1 && t.stop == some 0) = true ∧ ((seated id task).team? 2).isNone = true
    ∧ ((travelling none).slot 0).atSafePoint = false ∧ (((travelling (some 0)).slot 0).atSafePoint = true ∧ ((travelling (some 0)).slot 0).status = .ready
      ∧ ((travelling (some 0)).slot 0).pending = [])
    ∧ ((travelling none).slot 0).trav.map (·.team) = some 1 ∧ ((stopped 0 task).slot 0).trav = none := by decide +kernel

/-- The slots of the saved states below have exited; nothing of the array or the porters is under way. -/
def quiesced (m : Nat) (sl : Slot) : State :=
  (List.range 16).foldl (fun (s : State) c => s.modCore c fun k => { k with porterStop := true })
    ((stopped m sl).modCluster 0 fun k => { k with quiesced := true })

theorem witness_quiesces : let s := stopped 0 { task with status := .exited }
    (stopped 0 task).settled 0 = false ∧ ((List.range 16).all fun i => s.settled (16 * i)) = true ∧ (s.slot 0).streams = []
    ∧ (s.coreSt 0).chans = Vector.replicate 4 [] ∧ s.agenda = [] ∧ (s.clusterSt 0).queues.toList.getD 0 [] = [] ∧ s.running 0 0 = [] := by decide +kernel

theorem witness_save_complete : let ready := fun (m : Nat) (s : State) => team1Is s (fun t => t.state == 1 && t.stop == some m && s.still 1 t
        && t.place.all fun c => (s.clusterSt c).quiesced && (s.clusterSt c).running == [])
    let out : Slot := { task with status := .exited };
    let ports := fun (s : State) => (List.range 16).all fun i => (s.coreSt i).porterStop && s.settled (16 * i)
    ready 0 (stopped 0 task) = false ∧ (ready 0 (quiesced 0 out) = true ∧ ports (quiesced 0 out) = true ∧ quiet (quiesced 0 out) = true)
    ∧ ((quiesced 0 out).flips = [] ∧ (quiesced 0 out).badPar = [] ∧ (quiesced 0 out).slots.length = 16)
    ∧ (ready 1 (quiesced 1 { task with doms := [dom 0 [] none] }) = true ∧ quiet (quiesced 1 task) = true)
    ∧ ((quiesced 1 { task with doms := [dom 0 [] none] }).slots.all fun e => e.2.doms.length == 1) = true
    ∧ ready 1 (quiesced 1 task) = true ∧ ((quiesced 1 task).slot 0).doms = [] := by decide +kernel

/-- Slot 0 of the first cluster saved while it was ready, slot 16 after its exit. -/
def image : Saved := { place := [0], slots := [(0, 0, task), (0, 16, { task with status := .exited })], cores := [], clusters := [] }

/-- A saved team, to be started again (`st` 1) or resumed (`st` 2). -/
def kept (st : Nat) (l : List Nat) : State :=
  seated (fun t => { t with state := st, started := false, resume := st == 2, place := l, saved := some image }) Slot.init

theorem witness_resumes : let ok := fun (t : Team) => match t.saved with
      | some sv => decide ((sv.slots.map fun e => (e.1, e.2.1)).Nodup) && sv.slots.all fun e => decide (e.1 < 1 ∧ e.2.1 < 256) && e.2.2.heldAbort == []
      | none => false
    launch9 (kept 2 []) (fun t => t.state == 2 && t.resume && ok t && (kept 2 []).isNext 1 t && ((kept 2 []).placeFor t [1]) == [1]) = true
    ∧ (kept 2 []).booted = true ∧ quiet (kept 2 []) = true ∧ launch9 (kept 1 [0]) (fun t => !t.resume) = true
    ∧ launch9 { kept 2 [] with booted := false } (fun t => t.state == 2 && t.resume) = true ∧ ((kept 2 []).findLaunch 8).isNone = true
    ∧ team1Is (kept 1 [0]) (fun t => t.state == 1 && !t.started && ok t && t.place == [0]) = true ∧ [0].Nodup := by decide +kernel

theorem witness_state_loss : quiet (seated id task) = true ∧ team1Is (seated id task) (fun t => t.state == 1 && decide (0 ∈ t.place)) = true
    ∧ team1Is (kept 2 []) (fun t => t.state == 2) = true ∧ quiet (kept 2 []) = true ∧ ((seated id task).team? 2).isNone = true
    ∧ (let lost := fun (l : List Nat) => ((List.range 10).filter fun i => l.contains (State.reset.piecePa 0 i)).length
      lost [] ≤ 2 ∧ 2 < lost ((List.range 3).map (State.reset.piecePa 0)))
    ∧ (∀ i, i < 8 → State.reset.piecePa 0 i % 8 = 0 ∧ 16 * 0x10000 + 0x10000 ≤ State.reset.piecePa 0 i)
    ∧ Memory.wf State.reset.mem = true := by decide +kernel

/-- A data flit of link 0 with a tag, and the tag that fits it. -/
def flit (n : Nat) (crc : Bool) (tag : List Byte) : Flit :=
  { lseq := n, kind := 0, kslot := 0, reply := false, vc := 0, ctr := 0, cipher := List.replicate 224 0, tag := tag, crcOk := crc }
/-- A flit in a replay buffer with what it carries. -/
def sent (n : Nat) (items : List Event) (again : Bool) : Sent := { f := flit n true [], items := items, again := again }
/-- Link 0 of the package changed. -/
def linked (f : LinkSt → LinkSt) : State := State.reset.modLink 0 f

theorem witness_flits (key : KeySlot) : (flit 0 true (flitTag key (flit 0 true []))).tag = flitTag key (flit 0 true (flitTag key (flit 0 true [])))
    ∧ (flit 0 true []).tag ≠ flitTag key (flit 0 true []) := by
  refine ⟨rfl, fun h => ?_⟩
  have := congrArg List.length h
  simp [flitTag, fit, flit] at this

/-- A load of slot 16, as it is sent to its owner. -/
def loadEvent : Event := .loadAtOwner { sid := 16, els := [(lsWord, 0xF000000000)], size := 8, dst := .scalar 5 false, got := 0, n := 1 }

theorem witness_links : let l := State.reset.link 0
    ((flit 1 true []).lseq ≠ l.expect ∧ (flit 0 true []).lseq = l.expect ∧ l.fails < 2 ∧ 2 ≤ ((linked fun l => { l with fails := 2 }).link 0).fails
      ∧ (flit 0 false []).crcOk = false)
    ∧ ((linked fun l => { l with replay := [sent 1 [] false, sent 2 [] false] }).link 0).replay = [sent 1 [] false] ++ sent 2 [] false :: []
    ∧ ((∀ x, x ∈ [sent 1 [] false] → x.f.lseq ≠ 2) ∧ ∀ x, x ∈ l.replay → x.f.lseq ≠ 3)
    ∧ ((sent 1 [loadEvent] true).again = true ∧ (sent 1 [] false).again = false)
    ∧ ((hosting (parkedOn .reply) none []).slot 16).status = .parked .reply
    ∧ (l.replay.length < 256 ∧ 1 - l.live ∉ l.freed ∧ 1 ∈ ((linked fun l => { l with freed := [1] }).link 0).freed
      ∧ 256 ≤ ((linked fun l => { l with replay := List.replicate 256 (sent 0 [] false) }).link 0).replay.length) := by decide +kernel

theorem witness_flit_without_traveller : (∀ x, x ∈ ([] : List Sent) ++ [sent 1 [loadEvent] true] → ∀ i, i ∈ x.items → ∀ t : State, t.handedOver i = t) := by
  intro x hx i hi t
  simp only [List.nil_append, List.mem_singleton] at hx
  subst hx
  simp only [sent, List.mem_singleton] at hi
  subst hi
  rfl

/-- The host port page with rings of 16 entries and the numbers that host and device have reached. -/
def ported (door prod : Nat) : State :=
  ((State.reset.wr (State.reset.hostPage + 0x10) 4 16).wr (State.reset.hostPage + 0x28) 4 door).wr (State.reset.hostPage + 0x34) 4 prod

theorem witness_host_port : let s := ported 1 1
    let n := (s.hp 0x2C 4 + 1) % 2 ^ 32
    let k := (s.hp 0x38 4 + 1) % 2 ^ 32
    ((s.teams.all fun e => !e.2.ckRun) = true ∧ s.h2dHalt = false ∧ seqAtOrAfter (s.hp 0x28 4) n = true ∧ seqDist n (s.hp 0x30 4) ≤ s.hp 0x10 4)
    ∧ (0x100000001 % 2 ^ 32 = n ∧ 0x100000001 / 2 ^ 32 % 65536 ≠ 0 ∧ 0x1 / 2 ^ 32 % 65536 = 0)
    ∧ ((s.hp 0x18 8 % 2 ^ 50 + n % s.hp 0x10 4 * 64) % 64 = 0 ∧ s.hostPage % 64 = 0 ∧ s.hp 0x18 8 % 2 ^ 50 + n % s.hp 0x10 4 * 64 ≠ s.hostPage)
    ∧ (seqAtOrAfter (s.hp 0x34 4) k = true ∧ seqDist k (s.hp 0x3C 4) ≤ s.hp 0x10 4)
    ∧ (seqAtOrAfter ((ported 0 0).hp 0x28 4) 1 = false ∧ seqAtOrAfter ((ported 0 0).hp 0x34 4) 1 = false) := by decide +kernel

/-- A booted machine with a verified kernel, and a launch record for the kernel in HBM; x10 is not used. -/
def kernelRecord : State :=
  let s := { on kern with booted := true, kernelOk := true }
  ((((s.wr 0x10020 8 0x100000000020000).wr 0x10000 8 0x10000).wr 0x1000F 1 2).wr 0x10080 8 (2 ^ 56 + bootReportPa)).wr 0x20000 4 4

/-- Three images, as BOOT_VERIFY takes them. -/
def images : List Image := List.replicate 3 { bytes := [1], sig := [], version := 0 }

theorem witness_boot : (((List.range 9).filter fun d => (0x07F : BitVec 9).getLsbD d).length < 8 ∧ 8 ≤ ((List.range 9).filter fun d => (0x0FF : BitVec 9).getLsbD d).length)
    ∧ (let s := { State.reset with tested := true };
      s.tested = true ∧ 8 ≤ (passed s.dieOk).length ∧ (passed { s with dieOk := 0x03F }.dieOk).length < 8 ∧ images.length = 3 ∧ s.booted = false
      ∧ State.reset.tested = false ∧ s.teams = [])
    ∧ (let c : Ctx := { sid := 0, core := 0, level := .monitor, asid := 0, ptb := 0, team := 0, thread := false };
      let s := kernelRecord
      let w := s.rd 0x10000 256
      (s.booted = true ∧ s.kernelOk = true ∧ recField w 0 2 = 0 ∧ recField w 0x0F 1 % 4 = 2 ∧ recField w 0x80 8 = 2 ^ 56 + bootReportPa)
      ∧ State.reset.booted = false ∧ okAnd (s.submit c (BitVec.ofNat 64 (2 ^ 56 + 0x10000)) true) (fun _ => true) = true
      ∧ okAnd ((s.wr 0x10020 8 0x8000000000000000).submit c (BitVec.ofNat 64 (2 ^ 56 + 0x10000)) true) (fun _ => true) = false) := by decide +kernel

/-- A channel state put in place of channel 0's. -/
def channel (f : ChanSt → ChanSt) : State := State.reset.modChan 0 f

theorem witness_heat : (1050 ≤ 1050 ∧ 1050 < 1051 ∧ 1150 < 1151) ∧ tfind State.reset.alarms (alarmKey 5 0) = none
    ∧ tfind ({ State.reset with alarms := [(alarmKey 5 0, 1051)] } : State).alarms (alarmKey 5 0) = some 1051
    ∧ ((State.reset.chan 0).clearAt = none ∧ (State.reset.chan 0).half = false ∧ (State.reset.chan 0).lane = false)
    ∧ (((channel fun c => { c with thermal := true, clearAt := some 0 }).chan 0).thermal = true
      ∧ ((channel fun c => { c with thermal := true, clearAt := some 0 }).chan 0).clearAt = some 0 ∧ State.reset.cycle = 0 ∧ State.reset.cycle < 1)
    ∧ ((channel fun c => { c with lane := true }).chan 0).lane = true ∧ ((channel fun c => { c with lane := true }).chan 0).half = true
    ∧ ((1000 : Int).natAbs ≤ 1000 ∧ 1000 < (-1001 : Int).natAbs) ∧ (tfind State.reset.ptpOff 3 = none ∧ tfind ({ State.reset with ptpOff := [(3, 1001)] } : State).ptpOff 3 = some 1001)
    ∧ ((dictOf State.reset.dicts 3).1 = 0 ∧ 1 ≠ (dictOf State.reset.dicts 3).1)
    ∧ ((State.reset.netMessage 3 (some 1) [7] 1 true).1 = none ∧ inflate [] 2 [0, 7] [] = some [7] ∧ inflate [] 1 [5] [] = none)
    ∧ (({ State.reset with netOut := [(3, [7])] } : State).netOut.find? fun e => e.1 == 3) = some (3, [7])
    ∧ (511 % 512 = 511 ∧ 510 % 512 ≠ 511 ∧ tget 0 (State.reset.chan 0).rows 510 + 1 < State.reset.rowLimit) := by
  decide +kernel

theorem witness_notices : let s := State.reset
    ((s.noticeBase + 1 % 256 * 64) / 64 ≠ s.hostPage / 64 ∧ (s.noticeBase + 255 * 64) / 64 ≠ s.hostPage / 64)
    ∧ (0x40 / 8 ∉ s.flips ∧ 0x40 / 8 ∈ ({ s with flips := [8] } : State).flips) ∧ voteStands (some true) none true = true ∧ voteStands none none true = false
    ∧ (s.dieServed 0 = some 0 ∧ s.dieServed 7 = some 7 ∧ s.spareDie = some 8 ∧ ({ s with dieOk := 0xFF } : State).spareDie = none)
    ∧ (s.servingDie 0 (s.dmapAt 0) = 0 ∧ s.servingDie 0 { s.dmapAt 0 with pdie := 8 } = 8 ∧ s.servingDie 3 { s.dmapAt 3 with pkg := s.ownPkg + 1 } = 19)
    ∧ (atPeer (19 * 64) = true ∧ 19 * 64 ∈ [19 * 64])
    ∧ (s.teams.all fun e => !e.2.ckRun) = true := by decide +kernel

/-- Team 1 on cluster 0, its slots in a domain or not, with the working clusters as given. -/
def failing (l : List Nat) (sl : Slot) : State := { (seated id sl).modCluster 0 fun k => { k with team := some 1 } with working := l }

theorem witness_replacements : let s := failing [0, 1] { task with doms := [dom 0 [] none] }
    ((s.clusterSt 0).team = some 1 ∧ s.dieServed (0 / 1024) = some 0 ∧ s.freeCluster 1 = true ∧ 1 ∈ s.working ∧ quiet s = true)
    ∧ ((failing [0] task).working.all fun j => j == 0) = true
    ∧ (team1Is s (fun t => t.place[0]? == some 0 && t.state == 1) = true ∧ ((seated id task).team? 2).isNone = true)
    ∧ ((s.slots.all fun e => e.2.doms.length == 1) = true ∧ Memory.wf (s.countMove 1).mem = true ∧ (s.slots.map (·.1)).Nodup)
    ∧ ((List.range 256).all fun k => s.slots.all fun e => e.1 != 256 + k) = true ∧ (s.freeCluster 0 = false ∧ 1 < 576 ∧ 0 ≠ 1) := by decide +kernel

/-- The kernel's team, team 0, on cluster 0. -/
def kernelTeam : State := { State.reset with teams := [(0, team1)] }

theorem witness_remaps : (kernelTeam.team? 0).map (fun t => (t.place[0]?, t.state)) = some (some 0, 1) ∧ State.reset.remap = none
    ∧ ({ State.reset with remap := some (1, 0, []) } : State).remap = some (1, 0, []) ∧ 0 < 0xC00000
    ∧ ({ State.reset with remap := some (1, 0xC00000, [5]) } : State).remap = some (1, 0xC00000, [5])
    ∧ (State.reset.rowOf 7 = none ∧ ({ State.reset with homes := [(7, { chans := [3], row := some 9 })] } : State).rowOf 7 = some 9) := by decide +kernel

/-- Team 1 with a checkpoint running, the units left as given, n units at its start, r bytes of reserve memory. -/
def saving (units : List Nat) (n r : Nat) : State :=
  { seated (fun t => { t with ckRun := true, ckUnits := units, ckCount := n }) task with reserveSize := r }

theorem witness_checkpoints : let alone := fun (s : State) => s.teams.length == 1
    let c := fun (s : State) (l : List Nat) (n : Nat) => team1Is s fun t => t.ckRun && t.ckUnits == l && (t.ckDone.length == t.ckCount) == (n == 0)
    (c (saving [] 0 0) [] 0 = true ∧ c (saving [] 1 0) [] 1 = true ∧ c (saving [3] 1 0xC00000000) [3] 1 = true ∧ 4 ∉ [3])
    ∧ ((saving [3] 1 0).reserveFree = none ∧ (saving [3] 1 0xC00000000).reserveFree = some 0)
    ∧ (let s := saving [3] 1 0xC00000000;
      Memory.wf s.mem = true ∧ (∀ i, i < 10 → s.piecePa 0 i % 8 = 0 ∧ (3 + 1) * 0x10000 ≤ s.piecePa 0 i ∧ s.piecePkg i = s.ownPkg.toNat)
      ∧ ∀ i, i < 10 → ∀ j, j < 10 → i ≠ j → s.piecePa 0 i + 0x2000 ≤ s.piecePa 0 j ∨ s.piecePa 0 j + 0x2000 ≤ s.piecePa 0 i)
    ∧ ((saving [] 0 0).piecesOut = false ∧ ({ saving [] 0 0 with group := [5], netOut := [(5, [])] } : State).piecesOut = true)
    ∧ alone (saving [] 0 0) = true
    ∧ team1Is (seated id task) (fun t => !t.ckRun) = true := by decide +kernel

theorem witness_canonical : State.reset.canonical = true
    ∧ ((on task).withFetchWord 32 0x00B50533).canonical = true
    ∧ (match step ((on task).withFetchWord 32 0x00B50533) with | .next t => t.canonical | _ => false) = true := by decide +kernel

/-- The CRC step over 2^d zero bytes, each half evaluated before the next starts. -/
def zeroBytes : Nat → Nat → Nat
  | 0, c => (crcByte (BitVec.ofNat 32 c) 0).toNat
  | d + 1, c => match zeroBytes d c with
    | 0 => zeroBytes d 0
    | k + 1 => zeroBytes d (k + 1)

theorem zeroBytes_foldl : ∀ (d : Nat) (c : BitVec 32), ((List.replicate (2 ^ d) (0 : Byte)).foldl crcByte c).toNat = zeroBytes d c.toNat
  | 0, c => by simp [zeroBytes]
  | d + 1, c => by
    have e : zeroBytes (d + 1) c.toNat = zeroBytes d (zeroBytes d c.toNat) := by simp only [zeroBytes]; cases zeroBytes d c.toNat <;> rfl
    rw [e, show 2 ^ (d + 1) = 2 ^ d + 2 ^ d by omega, ← List.replicate_append_replicate, List.foldl_append, zeroBytes_foldl d, zeroBytes_foldl d]

theorem zero_bytes_of_image (img n : Nat) (h : img < 2 ^ 128) :
    (List.range n).map (fun i => BitVec.ofNat 8 (imgAt img (0x40 + i) 1)) = List.replicate n (0 : Byte) := by
  rw [List.eq_replicate_iff]
  refine ⟨by simp, fun b hb => ?_⟩
  obtain ⟨i, -, rfl⟩ := List.mem_map.mp hb
  rw [imgAt, Nat.div_eq_of_lt (Nat.lt_of_lt_of_le h (Nat.pow_le_pow_right (by decide) (by omega))), Nat.zero_mod]
  rfl

theorem crc_zero (n : Nat) (h : n = 2 ^ 12 + (2 ^ 10 + 2 ^ 8)) :
    (crc32 (List.replicate n 0)).toNat = zeroBytes 8 (zeroBytes 10 (zeroBytes 12 0xFFFFFFFF)) ^^^ 0xFFFFFFFF := by
  have e : List.replicate n (0 : Byte) = List.replicate (2 ^ 12) 0 ++ (List.replicate (2 ^ 10) 0 ++ List.replicate (2 ^ 8) 0) := by
    simp only [List.replicate_append_replicate, h]
  rw [crc32, BitVec.toNat_xor, e, List.foldl_append, List.foldl_append, zeroBytes_foldl 8, zeroBytes_foldl 10, zeroBytes_foldl 12,
    show (0xFFFFFFFF : BitVec 32).toNat = 0xFFFFFFFF by decide]

theorem imgCrc_zero (img n : Nat) (h : img < 2 ^ 128) (hn : n = 2 ^ 12 + (2 ^ 10 + 2 ^ 8)) :
    imgCrc img 0x40 n = zeroBytes 8 (zeroBytes 10 (zeroBytes 12 0xFFFFFFFF)) ^^^ 0xFFFFFFFF := by
  rw [imgCrc, zero_bytes_of_image img n h, crc_zero n hn]

/-- The image of a graph with one active cell, which passes its input on; its other bytes are zero. -/
def passing : Nat := 0xFF * 2 ^ 72 + 2 ^ 80 + 2 ^ 56 + 2 ^ 48 + 2 ^ 32 + 0x46534B + 1181485306 * 2 ^ 96

theorem passing_crc : zeroBytes 8 (zeroBytes 10 (zeroBytes 12 0xFFFFFFFF)) ^^^ 0xFFFFFFFF = 1181485306 := by decide +kernel

theorem witness_image : imgCode passing = none := by
  rw [imgCode, imgCrc_zero passing _ (by decide +kernel) (by decide), passing_crc]
  decide +kernel

/-- A kernel slot whose x10 names that image in HBM and x11 slot 7; the save area of its context is in HBM too. -/
def loading : State := (on { a01 kern 0x100000000010000 7 with teamctx := 0x100000000020000 }).wr 0x10000 0x1540 passing

theorem witness_image_read : loading.rd 0x10000 0x1540 = passing := by
  rw [loading, State.rd_wr]; decide +kernel

theorem witness_image_load : let s := on { a01 kern 0x100000000010000 7 with teamctx := 0x100000000020000 }
    s.me.level ≠ .task ∧ (s.me.rx 11).toNat ≤ 7 ∧ (s.me.rx 10).toNat % 64 = 0 ∧ (s.me.rx 10).extractLsb' 57 7 = 0
    ∧ (s.teamBySave s.me.teamctx).isNone = true
    ∧ okAnd (loading.span (loading.ctx 0) 0x100000000010000 0x1540 .load) (fun p => p.1 == [(0x10000, 0x1540)]) = true
    ∧ okAnd (loading.writeVa (loading.kctx 0) (ksfSlotVa 0x100000000020000 7) 0x1540 passing) (fun _ => true) = true := by decide +kernel

end Sys2Proof.Tests
end

/-! How every meaning ends: outright in a next state, or through `State.finish`, which has a next state for each way an
instruction can end (spec 00, R1, R78). -/

namespace Sys2Proof.Machine

/-- A trap and a park are next states as well (R78). -/
theorem State.finish_completes (s : State) (r : Res) : ∃ t, s.finish r = .next t := by
  cases r with
  | done t => exact ⟨t, s.finish_done t⟩
  | trap t => exact ⟨s.trap t, s.finish_trap t⟩
  | park safe => exact ⟨_, s.finish_park safe⟩

/-- A tile command leaves the state alone when it has no command word, traps on a channel core, and is run by its engine
otherwise (log entry 21). -/
theorem State.tile_completes (s : State) (i : Instr) : ∃ t, s.tile i = .next t := by
  unfold State.tile
  cases encodeTile i with
  | none => exact ⟨s, rfl⟩
  | some w =>
    cases isChan s.core with
    | true => exact ⟨s.trap (Trap.sync 2 (tileW w 0)), rfl⟩
    | false => exact ⟨_, rfl⟩

/-- CSR_WRITE of a register that the slot whose turn it is may not write leaves the state alone (R56, R57). -/
theorem execCsrWrite_completes (csr : BitVec 12) (v : Word) (s : State) : ∃ t, execCsrWrite csr v s = .next t := by
  unfold execCsrWrite
  cases s.csrWritable csr.toNat with
  | true => exact s.finish_completes _
  | false => exact ⟨s, rfl⟩

/-- Settles O8: each constructor's meaning is of one of the shapes above. -/
theorem everyExecCompletes : Obligations.EveryExecCompletes := by
  intro i s
  have htile := s.tile_completes i
  cases i with
  -- Register results, ECALL, EBREAK and SAFEPT have one ending, which unfolding shows.
  | add | sub | sll | slt | sltu | xor | srl | sra | or | and | addw | subw | sllw | srlw | sraw | mul | mulh
  | mulhsu | mulhu | div | divu | rem | remu | mulw | divw | divuw | remw | remuw | addi | slti | sltiu | xori
  | ori | andi | slli | srli | srai | addiw | slliw | srliw | sraiw | lui | auipc | vadd | vsub | vmul | vfma
  | vfms | vmax | vmin | vabs | vneg | vcmpEq | vcmpLt | vcmpLe | vcmpNe | vcvt | vrcpe | vrsqe | vexp2e | vreds
  | vredm | vcmul | viadd | visub | vimul | vand | vor | vxor | vshl | vshr | vsra | vimax | vimin | vicmpEq
  | vicmpLt | vicmpLe | vicmpNe | vbcst | vmvx | vins | vshuf | viota | vsel | pand | por | pxor | pnot | pcnt
  | pfirst | ecall | ebreak | safept | cdstat | bsalgnRd | bsalgnWr =>
    exact ⟨_, rfl⟩
  -- The device's events and parts of CSR writes: whatever they find, they answer the state they leave.
  | dmapWrite | loopRegisterWrite | preqWrite | interruptEntry | safePointOverdue | sliceInstant | kernelTimer
  | parkExpiry | followTimeout | dispatchPlace | teamStart | dependenceReject | travellerArrival | travellerRetry
  | runQueueRelease | homePacketArrival | remoteUpdate | spawnExitReport | storeAtOwner | loadAtOwner
  | atomicReply | atomicAtOwner | presenceRequest | presenceRetry | pageTableWalk | vaultCacheFill
  | fetchLineArrival | copyBurstDeliver | streamReadAhead | streamElementWrite | ksfImageFetch | ksfStreamUnit
  | messageArrival | barrierRootReport | barrierPhaseFlip | doneMessage | tileCommandStart | tileCommandComplete
  | domainAbort | domainRestore | remoteAccessArrival | remoteReplyArrival | remoteRejectReport
  | multicastMemberReport | packetRoute | flitArrival | flitRetryRequest | flitAcknowledge | rekeyThreshold
  | keyInstall | doorWrite | h2dAccept | prodWrite | d2hSend | seenWrite | moduleReset | stewardDieTest
  | bootVerify | kernelLaunch | attestationRequest | stewardNotice | dieMapChange | hubFailover | thermalAlarm
  | thermalShutdown | thermalClear | halfWidthChange | fullWidthReturn | laneFault | powerBudgetExceeded
  | ptpOffsetExceeded | rowPrecharge | neighbourRefresh | pageRowStep | scrubLineStep | backgroundScrub
  | uncorrectableError | unitFailure | diagnosisVote | replacement | stateLossSequence | packageLoss | remapStart
  | remapPageMove | remapEnd | checkpointUnitCopy | checkpointCommit | travellerSave | porterQuiesce
  | arrayQuiesce | saveComplete | teamResume | ptpOffsetRecovered | powerDrawWithinBudget | laneFaultCleared
  | remoteStoreAcknowledge | clusterScrubComplete =>
    exact ⟨_, rfl⟩
  -- What may retire, trap or park ends through `State.finish`.
  | lb | lh | lw | ld | lbu | lhu | lwu | sb | sh | sw | sd | beq | bne | blt | bge | bltu | bgeu | jal | jalr
  | csrrw | csrrs | csrrc | csrrwi | csrrsi | csrrci | fence | fenceI | ldfk | ldfe | stef | stfl | feget | feput
  | rld | rldv | rst | rstv | mcst | mcstv | amadd | amand | amor | amxor | ammax | ammin | amswap | amcas
  | amfadd | amfmax | cpy | cpy2d | cpyg | cpys | cseal | cwait | bcarm | bcwait | pgzero | pgcopy | exit | yield
  | park | follow | migr | home | spawn | deleg | delegReply | step | ckpt | loop | qrd | qwr | qrdv | qwrv | qtst
  | qwait | qbind | qfree | qbr | barinit | bararv | barwt | barsyn | barq | cdopen | cdpresCopy | cdpresRef
  | cdclose | cdabort | scopef | enq | mlease | mrel | efence | msend | msendv | ksfbind | eres | kret | tlbinv
  | ctxst | ctxld | scrub | teamstop | teamgo | ptparm | ksfload | vld | vst | vlds | vsts | vgath | vscat | bsget
  | bsput | bspeek | bsskip | bsflsh | cbatchCdoneWrite =>
    exact State.finish_completes _ _
  | mma | mvb | mldv | mwld | mzero | mstc | mtrn | mperm | mrsum | sfft | sifft | scmm | stagMode0 | stagMode1
  | stagMode2 | ttopk | tspadd | tpack | tunpk | tlink =>
    exact htile
  | csrWrite =>
    exact execCsrWrite_completes _ _ s

end Sys2Proof.Machine
